-- ==== Sys2Proof/Word.lean ====
section
/-! DEFINITION. The words of the Mujeta 5120: bytes of the console link, internal characters, line combinations,
line conditions, and the pair of per-line things. -/

namespace Sys2Proof

/-- A byte of the console link (R183). -/
abbrev Byte := BitVec 8

/-- An internal character, 0 to 127 (introduction, section 6.2). -/
abbrev Chr := BitVec 7

/-- A 5-unit combination; bit k-1 is unit k, 1 for mark (introduction, section 6.3). -/
abbrev Comb := BitVec 5

/-- A line condition. -/
inductive Level where
  | space
  | mark
  deriving DecidableEq, Repr, Inhabited

/-- The two telegraph lines. -/
inductive LineId where
  | A
  | B
  deriving DecidableEq, Repr, Inhabited

/-- The two mechanisms, and with them the two motors. -/
inductive Mech where
  | print
  | punch
  deriving DecidableEq, Repr, Inhabited

/-- One thing for each line. -/
structure Pair (α : Type) where
  a : α
  b : α
  deriving DecidableEq, Repr, Inhabited

def Pair.get {α : Type} (p : Pair α) : LineId → α
  | .A => p.a
  | .B => p.b

def Pair.set {α : Type} (p : Pair α) (l : LineId) (x : α) : Pair α :=
  match l with
  | .A => { p with a := x }
  | .B => { p with b := x }

end Sys2Proof
end

