-- ==== Sys2Proof/Syntax.lean ====
section
/-! DEFINITION. The commands of the block: one constructor for each row of spec/opcode_table.json, in the table's order.
The console commands carry their payload bytes as sent (R184); the tick and scan rows carry the levels sampled in that
step. -/

namespace Sys2Proof

/-- The input pins that the millisecond tick samples (introduction, section 5; R39, R149, R167, R176). -/
structure TickPins where
  rxA : Level
  rxB : Level
  papLow : Bool
  papOut : Bool
  cover : Bool
  tapLow : Bool
  tapOut : Bool
  chad : Bool
  pspd : Bool
  uspd : Bool
  deriving DecidableEq, Repr, Inhabited

/-- The printer's level inputs (R149). -/
inductive PrintSensor where
  | papLow
  | papOut
  | cover
  deriving DecidableEq, Repr, Inhabited

/-- The punch's level inputs (R167). -/
inductive PunchSensor where
  | tapLow
  | tapOut
  | chad
  deriving DecidableEq, Repr, Inhabited

inductive Instr where
  /-- RESETN goes high with the straps at these levels, STRAP0 in bit 0 (R191, R192). -/
  | powerOn (straps : BitVec 5)
  /-- A transfer whose complete MOSI bytes are these (R183, R185, R186). -/
  | commandTransfer (mosi : List Byte)
  /-- A response transfer of this many complete bytes (R183, R187). -/
  | responseTransfer (clocked : Nat)
  | heldCommandExecute
  | identify (payload : List Byte)
  | restart (payload : List Byte)
  | readEvents (payload : List Byte)
  | setEventMask (payload : List Byte)
  | standby (payload : List Byte)
  | setTimebase (payload : List Byte)
  | timebaseStatus (payload : List Byte)
  | setCodeTable (payload : List Byte)
  | setLine (payload : List Byte)
  | lineStatus (payload : List Byte)
  | lineStatistics (payload : List Byte)
  | setIdentity (payload : List Byte)
  | setSupervision (payload : List Byte)
  | call (payload : List Byte)
  | clearCall (payload : List Byte)
  | callStatus (payload : List Byte)
  | setExchange (payload : List Byte)
  | msgCreate (payload : List Byte)
  | msgAppend (payload : List Byte)
  | msgClose (payload : List Byte)
  | msgRead (payload : List Byte)
  | msgInfo (payload : List Byte)
  | msgDelete (payload : List Byte)
  | msgReroute (payload : List Byte)
  | queueList (payload : List Byte)
  | storeStatus (payload : List Byte)
  | storeClear (payload : List Byte)
  | setStore (payload : List Byte)
  | setAttendance (payload : List Byte)
  | setRoute (payload : List Byte)
  | setFraming (payload : List Byte)
  | setKeymap (payload : List Byte)
  | setKeyboard (payload : List Byte)
  | keyboardStatus (payload : List Byte)
  | setPrinter (payload : List Byte)
  | printerSetTop (payload : List Byte)
  | printerStatus (payload : List Byte)
  | mechResume (payload : List Byte)
  | setPunch (payload : List Byte)
  | punchStatus (payload : List Byte)
  | setMotors (payload : List Byte)
  | motorHold (payload : List Byte)
  | motorStatus (payload : List Byte)
  | millisecondTick (pins : TickPins)
  | lineTick (line : LineId) (rx : Level)
  /-- The qualification's count C of REFIN edges (R18). -/
  | qualificationEnd (count : Nat)
  | referenceLost
  | calibrationStart
  /-- The measurement's count of fast internal cycles (R20). -/
  | calibrationEnd (nInt : Nat)
  | wakeComplete
  | txCharacterStart (line : LineId)
  | txCharacterEnd (line : LineId)
  | rxStartElement (line : LineId)
  | startCheck (line : LineId)
  | stopSample (line : LineId)
  | spaceHeldEnd (line : LineId)
  | conditionChange (line : LineId)
  | watchSpace (line : LineId)
  | turnaroundEnd (line : LineId)
  | sendGrant (line : LineId)
  | messageGapExpiry (line : LineId)
  | callRecognizeExpiry (line : LineId)
  | confirmExpiry (line : LineId)
  /-- The prestart of one line on one motor (R103, R177). -/
  | prepExpiry (line : LineId) (motor : Mech)
  | clearRecognizeExpiry (line : LineId)
  | clearConfirmExpiry (line : LineId)
  | guardExpiry (line : LineId)
  | callConfirmExpiry (line : LineId)
  | proceedExpiry (line : LineId)
  | connectExpiry (line : LineId)
  | progressQuietExpiry (line : LineId)
  | captureQuietExpiry (line : LineId)
  | idleTimeoutExpiry (line : LineId)
  | outgoingCallEnd (line : LineId)
  | privateFaultExpiry (line : LineId)
  | privateRecoveryExpiry (line : LineId)
  | offerWaitExpiryAnswering (line : LineId)
  | offerWaitExpiryCalling (line : LineId)
  | pageTimerExpiry (line : LineId)
  /-- The 64 sensed positions, bit p for position p, 1 for closed (R132). -/
  | keyboardScan (closed : BitVec 64)
  | keyFifoDrain
  | repeatExpiry
  | bellPulseEnd
  | keyboardIdle
  | printGrant
  | printOperationIssue
  | prdy
  | printOperationTimeout
  | yieldExpiry
  | heatDecay
  | printerSensorQualified (sensor : PrintSensor)
  | printerHoldRelease
  /-- The wait ends on PRDY (`ready`), or on the would-be timeout (R162). -/
  | printAbandonEnd (ready : Bool)
  | punchGrant
  | punchOperationIssue
  /-- URDY with the combination on the sense pins (R164). -/
  | urdy (sensed : Comb)
  | punchOperationTimeout
  | punchSensorQualified (sensor : PunchSensor)
  | punchHoldRelease
  /-- The wait ends on URDY (`ready`), or on the would-be timeout (R175). -/
  | punchAbandonEnd (ready : Bool)
  | speedQualified (motor : Mech)
  | startLimitExpiry (motor : Mech)
  | idleLowExpiry (motor : Mech)
  | idleStopExpiry (motor : Mech)
  | resetnAsserted
  deriving DecidableEq, Repr

end Sys2Proof
end

