-- ==== Sys2Proof/WellFormed.lean ====
section
/-! DEFINITION. Which commands the console link can carry: a command's length byte is 0 to 248 (R183). The other rows
are well formed at every operand. -/

namespace Sys2Proof

/-- The longest payload of a command (R183). -/
def maxPayload : Nat := 248

/-- The payload of a console command; none for the rows that are not console commands. -/
def Instr.payload? : Instr → Option (List Byte)
  | .identify p | .restart p | .readEvents p | .setEventMask p | .standby p | .setTimebase p | .timebaseStatus p
  | .setCodeTable p | .setLine p | .lineStatus p | .lineStatistics p | .setIdentity p | .setSupervision p | .call p
  | .clearCall p | .callStatus p | .setExchange p | .msgCreate p | .msgAppend p | .msgClose p | .msgRead p
  | .msgInfo p | .msgDelete p | .msgReroute p | .queueList p | .storeStatus p | .storeClear p | .setStore p
  | .setAttendance p | .setRoute p | .setFraming p | .setKeymap p | .setKeyboard p | .keyboardStatus p
  | .setPrinter p | .printerSetTop p | .printerStatus p | .mechResume p | .setPunch p | .punchStatus p
  | .setMotors p | .motorHold p | .motorStatus p => some p
  | .powerOn _ | .commandTransfer _ | .responseTransfer _ | .heldCommandExecute | .millisecondTick _
  | .lineTick _ _ | .qualificationEnd _ | .referenceLost | .calibrationStart | .calibrationEnd _ | .wakeComplete
  | .txCharacterStart _ | .txCharacterEnd _ | .rxStartElement _ | .startCheck _ | .stopSample _ | .spaceHeldEnd _
  | .conditionChange _ | .watchSpace _ | .turnaroundEnd _ | .sendGrant _ | .messageGapExpiry _
  | .callRecognizeExpiry _ | .confirmExpiry _ | .prepExpiry _ _ | .clearRecognizeExpiry _ | .clearConfirmExpiry _
  | .guardExpiry _ | .callConfirmExpiry _ | .proceedExpiry _ | .connectExpiry _ | .progressQuietExpiry _
  | .captureQuietExpiry _ | .idleTimeoutExpiry _ | .outgoingCallEnd _ | .privateFaultExpiry _
  | .privateRecoveryExpiry _ | .offerWaitExpiryAnswering _ | .offerWaitExpiryCalling _ | .pageTimerExpiry _
  | .keyboardScan _ | .keyFifoDrain | .repeatExpiry | .bellPulseEnd | .keyboardIdle | .printGrant
  | .printOperationIssue | .prdy | .printOperationTimeout | .yieldExpiry | .heatDecay | .printerSensorQualified _
  | .printerHoldRelease | .printAbandonEnd _ | .punchGrant | .punchOperationIssue | .urdy _
  | .punchOperationTimeout | .punchSensorQualified _ | .punchHoldRelease | .punchAbandonEnd _ | .speedQualified _
  | .startLimitExpiry _ | .idleLowExpiry _ | .idleStopExpiry _ | .resetnAsserted => none

/-- A console command is well formed when its payload fits the link's length byte (R183). -/
def Instr.wellFormed (i : Instr) : Bool :=
  match i.payload? with
  | some p => decide (p.length ≤ maxPayload)
  | none => true

end Sys2Proof
end

