-- ==== Sys2Proof/Decode.lean ====
section
/-! DEFINITION. The table of this block gives no row any bits (its rows are steps, not words), so no table word spells a
command (log entry 25). The console link's own command codes (R185) are read in Machine/ConsolePort.lean. -/

namespace Sys2Proof

/-- The command that a table word spells: none, since no row of spec/opcode_table.json has bits. -/
def decodeTableWord (_nbits _w : Nat) : Option Instr := none

end Sys2Proof
end

