-- ==== Sys2Proof/Config.lean ====
section
/-! DEFINITION. What the manual fixes as constants for every part it describes, and the one free value: which of several
running timers CALL_STATUS shows. -/

namespace Sys2Proof.Config

/-- Part code, low byte first, and revision (R191). -/
def partCode : List Byte := [0x20, 0x51]
def revision : Byte := 0x01

/-- Fast-oscillator cycles of a millisecond tick (R14). -/
def fastDivisor : Nat := 16384
/-- Slow-oscillator cycles of a millisecond tick in STANDBY and WAKING (R14). -/
def slowDivisor : Nat := 32
/-- The estimate's nominal value and window (R20). -/
def fIntNominal : Nat := 16384000
def fIntLow : Nat := 15892480
def fIntHigh : Nat := 16875520
/-- The range of F_REF (R17). -/
def fRefLow : Nat := 1000000
def fRefHigh : Nat := 20000000
/-- Time between calibration measurements (R20) and slow ticks of a wake (R30). -/
def calibrationMs : Nat := 1000
def wakeTicks : Nat := 2
/-- Blocks, cells of a block, records (R51, R55). -/
def blocks : Nat := 512
def cellsPerBlock : Nat := 32
def records : Nat := 48
/-- The last value of the arrival sequence (R77). -/
def lastStamp : Nat := 4294967295
/-- The saturation figure of 16-bit counters (introduction, section 6.5). -/
def counterMax : Nat := 65535
/-- Ticks of a new level that qualify a sensor (R149) and the speed input (R176). -/
def sensorTicks : Nat := 20
def speedTicks : Nat := 5
/-- The release time of the sensor holds (R149, R167). -/
def releaseMs : Nat := 500
/-- The key FIFO's depth and the idle time of keyboard input (R136, R141). -/
def fifoDepth : Nat := 16
def inputIdleMs : Nat := 2000
/-- Repeat delays and the bell pulse (R135, R137). -/
def repeatFirstMs : Nat := 500
def repeatNextMs : Nat := 100
def bellMs : Nat := 100
/-- Private-line times (R117), quiet times (R114, R115), capture and progress lengths. -/
def privateFaultMs : Nat := 1000
def privateRecoveryMs : Nat := 100
def progressQuietMs : Nat := 1000
def captureQuietMs : Nat := 500
def captureMax : Nat := 20
def progressMax : Nat := 32
/-- Head heat's saturation figure (R157). -/
def heatMax : Nat := 1023
/-- Erase frames of a spoiled section (R170). -/
def eraseFrames : Nat := 5

/-- FREE VALUE (log entry 9): of a supervisor's timers, in order and `none` where stopped, which of the running ones
CALL_STATUS shows when more than one runs; it counts modulo their number. R97 says "the running timer". -/
opaque shownTimer : List (Option Nat) → Nat

end Sys2Proof.Config
end

