-- ==== Sys2Proof/Machine/State.lean ====
section
/-! DEFINITION. The state of the Mujeta 5120, one structure a block (introduction, section 3.1), as plain data, and the
state after power-on. Each field names the rule that gives it; a timer is the number of ticks left, 0 when it has run
out and its row is due (log entry 2). -/

namespace Sys2Proof.Machine

open Sys2Proof

/-! ## Timebase unit (chapter 2) -/

/-- Timebase states (section 2.2). -/
inductive TbState where
  | internal | qualifying | reference | degraded | standby | waking
  deriving DecidableEq, Repr, Inhabited

inductive TbSource where
  | internal | reference
  deriving DecidableEq, Repr, Inhabited

inductive TbReason where
  | none | accepted | rejected | lost
  deriving DecidableEq, Repr, Inhabited

inductive WakeCause where
  | none | callA | callB | spaceA | spaceB | key | console
  deriving DecidableEq, Repr, Inhabited

/-- The timebase status record (R15), the calibration and wake timing (R20, R30), and each line's increment and reported
rate error (R22, R24). -/
structure Timebase where
  state : TbState
  fRef : Nat
  exitSource : TbSource
  reason : TbReason
  lastCount : Nat
  fIntEst : Nat
  calKept : Nat
  calDiscarded : Nat
  tickDivisor : Nat
  wakeCause : WakeCause
  calActive : Bool
  calTimer : Option Nat
  wakeTimer : Option Nat
  inc : Pair Nat
  rateError : Pair Int
  deriving DecidableEq, Repr

/-! ## Code translator (chapter 1) -/

inductive Shift where
  | letters | figures
  deriving DecidableEq, Repr, Inhabited

/-- A sink's knowledge of the shift last put on its medium (section 1.5). -/
inductive ShiftRecord where
  | held (shift : Shift)
  | unknown
  deriving DecidableEq, Repr, Inhabited

/-- Kinds of a code table entry (section 1.1). -/
inductive CodeKind where
  | none | char | ltrs | figs | wru | bell | proceed | selectEnd
  deriving DecidableEq, Repr, Inhabited

/-- A code table entry; `chr` is 0 unless the kind is CHAR (R1). -/
structure CodeEntry where
  kind : CodeKind
  chr : Chr
  deriving DecidableEq, Repr, Inhabited

/-- The code table, entry `comb + 32 * shift`, the substitute character, and the five shift records (R1, R12). -/
structure Translator where
  table : List CodeEntry
  substitute : Chr
  tx : Pair ShiftRecord
  rx : Pair ShiftRecord
  tape : ShiftRecord
  deriving DecidableEq, Repr

/-! ## Line units (chapter 3) -/

inductive LineType where
  | switched | privateLine
  deriving DecidableEq, Repr, Inhabited

inductive StopLength where
  | one | oneAndHalf | two
  deriving DecidableEq, Repr, Inhabited

inductive Duplex where
  | full | half
  deriving DecidableEq, Repr, Inhabited

/-- A line's configuration record (R32). -/
structure LineConfig where
  lineType : LineType
  enable : Bool
  rate : Nat
  stop : StopLength
  duplex : Duplex
  usos : Bool
  turnaroundMs : Nat
  alarmThreshold : Nat
  deriving DecidableEq, Repr

/-- The transmitter's state (R36, R37): a character with its stop length in ticks and the tick it is at; the position
`384 + stop` is the tick after its last, on which its end is due. -/
inductive TxState where
  | idle
  | sending (comb : Comb) (stop : Nat) (pos : Nat)
  deriving DecidableEq, Repr, Inhabited

structure Transmitter where
  state : TxState
  pin : Level
  ordered : Level
  deriving DecidableEq, Repr

/-- A character being framed (R41, R42, R45): ticks since t0, whether the start check has passed, the data samples
taken so far in order, and the largest displacement seen. -/
structure Frame where
  pos : Nat
  started : Bool
  samples : List Level
  peak : Nat
  deriving DecidableEq, Repr

/-- Receiver sub-states of FRAMING (section 3.5). `resume` marks that the next tick is the one on which hunting resumes
(R41); `seen` marks that the present tick is a t0. -/
inductive RxSub where
  | hunting (resume : Bool) (seen : Bool)
  | character (f : Frame)
  | spaceHeld (marks : Nat)
  | blanked
  deriving DecidableEq, Repr

inductive RxMode where
  | off | condition | framing | watch
  deriving DecidableEq, Repr, Inhabited

/-- The receiver (R39 to R44): its mode and sub-state, the level on the RX pin, the level last sampled, the known
condition of CONDITION mode, a WATCH transition not yet taken, and the receive age. -/
structure Receiver where
  mode : RxMode
  sub : RxSub
  pin : Level
  last : Level
  known : Level
  watchSeen : Bool
  age : Nat
  deriving DecidableEq, Repr

/-- The counters and peaks of R46 and the alarm arming of R47. -/
structure LineStats where
  chars : Nat
  framing : Nat
  falseStart : Nat
  undefinedCount : Nat
  untranslatable : Nat
  breaks : Nat
  lostInStandby : Nat
  alarmCount : Nat
  lastPeak : Nat
  runPeak : Nat
  armed : Bool
  deriving DecidableEq, Repr

structure LineUnit where
  cfg : LineConfig
  acc : BitVec 24
  tx : Transmitter
  rx : Receiver
  stats : LineStats
  deriving DecidableEq, Repr

/-! ## Station exchange (chapter 7) -/

/-- A set of the four abilities (R121). -/
structure Abilities where
  limit : Bool
  urgent : Bool
  numbering : Bool
  half : Bool
  deriving DecidableEq, Repr, Inhabited

inductive ExchSub where
  | none | offerWait | offered | awaitPage0 | awaitPage1 | awaitClose | closing | done | plain | abandoned
  deriving DecidableEq, Repr, Inhabited

inductive PlainCause where
  | none | noOffer | noPage | notAPage | wrongNumber | wrongAck | framing
  deriving DecidableEq, Repr, Inhabited

/-- A line's exchange record (R120), the half duplex agreed for the connection in progress (R35, R129), the engine's two
timers (R123, R125, R126), and `together`: the offer was placed on an expiry with a character's stop sample due at the
same moment, the model's own (R123, log entry 55). -/
structure Exchange where
  sub : ExchSub
  own : Option Abilities
  remoteAb : Option Abilities
  agreed : Abilities
  ownAccept : Option Nat
  remoteAccept : Option Nat
  lastSent : Option (List Comb)
  lastReceived : Option (List Comb)
  cause : PlainCause
  blankRun : Nat
  held : List Comb
  pageTwo : Bool
  half : Bool
  offerTimer : Option Nat
  pageTimer : Option Nat
  together : Bool
  deriving DecidableEq, Repr

inductive PageTimer where
  | ms100 | ms200 | ms500 | ms1000
  deriving DecidableEq, Repr, Inhabited

/-- The part's exchange configuration (R121). -/
structure ExchangeConfig where
  override : Bool
  abilities : Abilities
  offerWaitMs : Nat
  pageTimer : PageTimer
  maxAccept : Nat
  keepReserve : Nat
  deriving DecidableEq, Repr

/-! ## Call supervisors (chapter 6) -/

/-- Supervision values (R96). -/
structure SupValues where
  answerEnable : Bool
  acceptMin : Nat
  callRecognizeMs : Nat
  clearRecognizeMs : Nat
  confirmMs : Nat
  clearConfirmMs : Nat
  guardMs : Nat
  prepMs : Nat
  callConfirmS : Nat
  proceedS : Nat
  connectS : Nat
  idleTimeoutS : Nat
  endWru : Bool
  deriving DecidableEq, Repr

/-- Supervisor states (section 6.4): eleven of a switched line and, with DISABLED, three of a private line. -/
inductive SupState where
  | disabled | free | incoming | answering | refusing | calling | selecting | awaitConnect | connected | clearing
  | guard | running | fault
  deriving DecidableEq, Repr, Inhabited

inductive Direction where
  | none | incoming | outgoing
  deriving DecidableEq, Repr, Inhabited

inductive Acceptance where
  | unlimited
  | blocks (n : Nat)
  deriving DecidableEq, Repr, Inhabited

/-- Clear reasons (R116), after NONE. -/
inductive ClearReason where
  | none | remoteClear | localClear | confirmTimeout | proceedTimeout | connectTimeout | wrongStation | storeFull
  | idle | done | restart
  deriving DecidableEq, Repr, Inhabited

inductive RefusalCause where
  | none | noIdentity | answerOff | storeLow | noIndex
  deriving DecidableEq, Repr, Inhabited

/-- A character delivered by the code translator, with its errored mark (R8). -/
structure RxChar where
  chr : Chr
  errored : Bool
  deriving DecidableEq, Repr, Inhabited

/-- Phases inside CALLING (R112), AWAIT_CONNECT (R114), the end of an outgoing call (R108) and CLEARING. `progress` says
whether a character has arrived; `asking` is the supervisor's WRU on its way; `capturing` is R115, and `captureFull` the
clear begun by a capture of 20 characters (R115, log entry 54). -/
inductive CallPhase where
  | none
  | confirmWait
  | proceedWait
  | progress (any : Bool)
  | asking
  | capturing
  | captureFull
  deriving DecidableEq, Repr, Inhabited

/-- The supervisor's timers (R101 to R117) and its two prestarts (R103). -/
structure SupTimers where
  recognize : Option Nat
  clearRecognize : Option Nat
  confirm : Option Nat
  clearConfirm : Option Nat
  guard : Option Nat
  callConfirm : Option Nat
  proceed : Option Nat
  connect : Option Nat
  quiet : Option Nat
  capture : Option Nat
  idle : Option Nat
  fault : Option Nat
  recovery : Option Nat
  prepPrint : Option Nat
  prepPunch : Option Nat
  deriving DecidableEq, Repr

/-- A line's call supervisor: supervision values, connection record (R97), phase, capture and timers. -/
structure Supervisor where
  values : SupValues
  state : SupState
  direction : Direction
  callCount : Nat
  digits : List Chr
  expected : Option (List Chr)
  matchLen : Nat
  remote : Option (List Chr)
  progress : List Chr
  exch : Exchange
  remaining : Acceptance
  lastClear : ClearReason
  refusal : RefusalCause
  abActive : Bool
  ending : Bool
  phase : CallPhase
  captured : List RxChar
  timers : SupTimers
  deriving DecidableEq, Repr

/-! ## Traffic store (chapter 4) -/

/-- The four destinations that have a deliverer and a queue. -/
inductive Deliv where
  | print | punch | sendA | sendB
  deriving DecidableEq, Repr, Inhabited

/-- One thing for each deliverer. -/
structure Four (α : Type) where
  print : α
  punch : α
  sendA : α
  sendB : α
  deriving DecidableEq, Repr, Inhabited

/-- A destination set: the four delivered destinations, and HOLD. -/
structure DestSet where
  out : Four Bool
  hold : Bool
  deriving DecidableEq, Repr, Inhabited

inductive Origin where
  | keyboard | console | lineA | lineB
  deriving DecidableEq, Repr, Inhabited

inductive RecState where
  | opened | closed | cancelled
  deriving DecidableEq, Repr, Inhabited

/-- The flags of a message record (R55). -/
structure RecFlags where
  truncated : Bool
  errored : Bool
  split : Bool
  continuation : Bool
  liveA : Bool
  liveB : Bool
  printResume : Bool
  punchSpoiled : Bool
  deriving DecidableEq, Repr, Inhabited

/-- A message record that is not FREE (R55). -/
structure Rec where
  state : RecState
  origin : Origin
  number : Nat
  urgent : Bool
  length : Nat
  chain : List Nat
  dests : DestSet
  cursor : Four Nat
  attempts : Pair Nat
  charged : Pair Bool
  flags : RecFlags
  sender : Option (List Chr)
  remoteNumber : Option Nat
  serial : Option Nat
  stamp : Four (Option Nat)
  grants : Four Bool
  stops : Four Bool
  deriving DecidableEq, Repr

/-- What a writer gives STM to open a record (R56), and what STM keeps for an owed continuation (R59). -/
structure OpenSpec where
  urgent : Bool
  dests : DestSet
  continuation : Bool
  liveA : Bool
  liveB : Bool
  sender : Option (List Chr)
  serial : Option Nat
  deriving DecidableEq, Repr

/-- The next message number of each origin (R56). -/
structure NextNumbers where
  keyboard : Nat
  console : Nat
  lineA : Nat
  lineB : Nat
  deriving DecidableEq, Repr

/-- The store's configuration (R70). -/
structure StoreConfig where
  maxMsgLen : Nat
  storeLow : Nat
  clearOnFull : Bool
  deriving DecidableEq, Repr

/-- The store manager: the cells of the 512 blocks, the free list, the directory (`none` is FREE), reservations, low
condition, numbering, the writers' links and owed continuations, discard episodes and counters (R51 to R71). -/
structure Store where
  cells : List Host.Cell
  free : List Nat
  recs : List (Option Rec)
  reservation : Pair Nat
  low : Bool
  nextNum : NextNumbers
  lineLink : Pair (Option Nat)
  kbLink : Option Nat
  lineOwed : Pair (Option OpenSpec)
  kbOwed : Option OpenSpec
  episode : Pair Bool
  discarded : Pair Nat
  cfg : StoreConfig
  deriving DecidableEq, Repr

/-! ## Framer and queue manager (chapter 5) -/

/-- The routing entries of one origin in the two attendance modes (R75). -/
structure ByMode where
  attended : DestSet
  unattended : DestSet
  deriving DecidableEq, Repr

structure Routes where
  keyboard : ByMode
  lineA : ByMode
  lineB : ByMode
  deriving DecidableEq, Repr

/-- A line's framing configuration (R81). -/
structure FramingConfig where
  som : List Chr
  eom : List Chr
  gapS : Nat
  sendOnIncoming : Bool
  deriving DecidableEq, Repr

inductive HeadStage where
  | som | urgent | number
  deriving DecidableEq, Repr, Inhabited

/-- Phases of a line's incoming framer (R82); HEAD holds the stages still to examine, the present one first. -/
inductive FramerPhase where
  | idle
  | head (stages : List HeadStage)
  | text
  deriving DecidableEq, Repr

structure Framer where
  phase : FramerPhase
  held : List RxChar
  gap : Option Nat
  deriving DecidableEq, Repr

/-- An item of a supervisory or exchange sequence (R88, R113, R122): a raw combination, an internal character, or the
SELECT_END function. -/
inductive TxItem where
  | raw (comb : Comb)
  | chr (c : Chr)
  | selectEnd
  deriving DecidableEq, Repr

inductive SeqKind where
  | selection | wru | offer | page | close
  deriving DecidableEq, Repr, Inhabited

/-- A placed sequence with the items not yet handed. -/
structure TxSeq where
  kind : SeqKind
  items : List TxItem
  deriving DecidableEq, Repr

/-- What the character on the transmitter belongs to (R37, R88). -/
inductive Flight where
  | seq | answerback | cutoff | recordLead | recordText | recordTail
  deriving DecidableEq, Repr, Inhabited

/-- The character owed after a shift combination (R12, R88): its combination, whether it is a translated SP (R13), and
what it belongs to. -/
structure Companion where
  comb : Comb
  space : Bool
  flight : Flight
  deriving DecidableEq, Repr

/-- An answerback in progress (R104): the characters left, and whether its forced first shift is still to come (R12). -/
structure Answerback where
  rest : List Chr
  forced : Bool
  deriving DecidableEq, Repr

/-- The SEND grant (R88, R89): the record, whether the grant is live, the head parts left (R87 parts 1 to 3), the closing
parts left once they have begun (parts 5 and 6), and whether any character of the record has been handed (R92). -/
structure SendGrant where
  index : Nat
  live : Bool
  lead : List Chr
  tail : Option (List Chr)
  handed : Bool
  deriving DecidableEq, Repr

/-- A line's transmit selector (section 5.6). `flight` tells what the character on the transmitter belongs to;
a shift combination belongs to what its companion belongs to. -/
structure Selector where
  grant : Option SendGrant
  cutoff : Option (List Chr)
  deferral : Bool
  companion : Option Companion
  seqs : List TxSeq
  answerback : Option Answerback
  flight : Option Flight
  deriving DecidableEq, Repr

structure Fqm where
  attended : Bool
  routes : Routes
  seq : Nat
  framing : Pair FramingConfig
  framer : Pair Framer
  sel : Pair Selector
  deriving DecidableEq, Repr

/-! ## Keyboard (chapter 8) -/

inductive KeyKind where
  | none | char | shift | msgEnd | hereIs | wruKey | urgent | repeatKey | modeLocal | modeDirectA | modeDirectB
  deriving DecidableEq, Repr, Inhabited

structure KeyEntry where
  kind : KeyKind
  plain : Chr
  shifted : Chr
  deriving DecidableEq, Repr, Inhabited

/-- A position's debounced state and its count of disagreeing scans (R133). -/
structure KeyState where
  down : Bool
  count : Nat
  deriving DecidableEq, Repr, Inhabited

inductive KbMode where
  | localMode | directA | directB
  deriving DecidableEq, Repr, Inhabited

/-- Actions of the key FIFO (R135, R136). -/
inductive KeyAction where
  | chr (c : Chr)
  | msgEnd
  | hereIs
  | wru
  | urgent
  | mode (m : KbMode)
  deriving DecidableEq, Repr

inductive KeyRefusal where
  | none | fifoFull | storeFull | noIdentity | wrongMode
  deriving DecidableEq, Repr, Inhabited

structure Keyboard where
  keymap : List KeyEntry
  keys : List KeyState
  debounce : Nat
  fifo : List KeyAction
  mode : KbMode
  urgentPending : Bool
  storeFull : Bool
  inputAge : Nat
  repeatKey : Option Nat
  repeatTimer : Option Nat
  repeatSpent : Bool
  refusals : Nat
  lastRefusal : KeyRefusal
  bell : Option Nat
  scanTimer : Nat
  deriving DecidableEq, Repr

/-! ## Printer (chapter 9) and punch (chapter 10) -/

/-- A level input with its qualified level and the ticks for which the pin has held the other level (R149). -/
structure Sensor where
  pin : Bool
  level : Bool
  count : Nat
  deriving DecidableEq, Repr, Inhabited

inductive PrintKind where
  | strike | space | cr | lf | bell
  deriving DecidableEq, Repr, Inhabited

/-- A printer operation (R145). The last LF of a line feed or page feed carries the line it leads to and whether it
crosses to a new page (R155). -/
inductive PrintOp where
  | strike (c : Chr)
  | space
  | cr
  | lf (arrives : Option (Nat × Bool))
  | bell
  deriving DecidableEq, Repr

inductive Margin where
  | wrap | overprint
  deriving DecidableEq, Repr, Inhabited

/-- The printer configuration (R158). -/
structure PrinterConfig where
  lineLength : Nat
  pageLength : Nat
  top : Nat
  bottom : Nat
  crImpliesLf : Bool
  lfImpliesCr : Bool
  margin : Margin
  headers : Bool
  opTimeoutMs : Nat
  crTimeoutMs : Nat
  yieldS : Nat
  strikeHeat : Nat
  decayMs : Nat
  hHi : Nat
  hLo : Nat
  deriving DecidableEq, Repr

/-- An item of a header, trailer or yield: a character printed through the layout rules, or a CR and a line feed, always
or only with the count above 0 (R151, R153, R156). -/
inductive Script where
  | chr (c : Chr)
  | cr
  | lineFeed
  | crLfIfCount
  deriving DecidableEq, Repr

/-- Phases of a printer grant (R151, R153, R160). `script` is `none` until the phase's first operation is chosen. -/
inductive PrintPhase where
  | lead | header | text | yielding | trailer
  deriving DecidableEq, Repr, Inhabited

structure PrintGrant where
  index : Nat
  phase : PrintPhase
  script : Option (List Script)
  ops : List PrintOp
  deriving DecidableEq, Repr

structure Printer where
  fault : Bool
  lastFault : Option (PrintKind × Option Nat)
  owedCr : Bool
  op : Option (PrintOp × Nat)
  abandoned : Option Nat
  pdata : BitVec 7
  pop : BitVec 3
  papLow : Sensor
  papOut : Sensor
  cover : Sensor
  hold : Bool
  release : Option Nat
  grant : Option PrintGrant
  yieldTimer : Option (Nat × Nat)
  starved : Bool
  passOver : Option Nat
  lastServed : Origin
  count : Nat
  line : Nat
  page : Nat
  heat : Nat
  heatHold : Bool
  decay : Nat
  cfg : PrinterConfig
  deriving DecidableEq, Repr

inductive PunchOp where
  | punch (comb : Comb)
  | feed
  | backspace
  deriving DecidableEq, Repr

inductive PunchKind where
  | punch | feed | backspace
  deriving DecidableEq, Repr, Inhabited

/-- The last fault of the punch (R165, R172): cause, with the stalled operation's kind for TIMEOUT, and the record. -/
inductive PunchCause where
  | timeout (kind : PunchKind)
  | repair
  | retryLimit
  deriving DecidableEq, Repr

structure PunchConfig where
  leader : Nat
  trailer : Nat
  eom : List Chr
  verify : Bool
  retryLimit : Nat
  timeoutMs : Nat
  tapeReserve : Nat
  deriving DecidableEq, Repr

/-- Phases of a tape section (R170). -/
inductive PunchPhase where
  | erase | leader | openShift | text | close | trailer
  deriving DecidableEq, Repr, Inhabited

/-- What a frame is (R164): an erase frame, the opening shift, a shift of shift insertion with the combination owed after
it, or a character. -/
inductive FrameKind where
  | erase
  | openShift
  | shift (s : Shift) (owed : Comb)
  | char
  deriving DecidableEq, Repr

/-- Steps of a repair (R172). -/
inductive RepairStep where
  | back | erase | figs | again
  deriving DecidableEq, Repr, Inhabited

/-- The frame in hand: kind, combination, retry count, and the repair steps still to be completed. -/
structure PunchFrame where
  kind : FrameKind
  comb : Comb
  retry : Nat
  steps : List RepairStep
  deriving DecidableEq, Repr

/-- The punch's grant: record, phase, frames or FEEDs done in the phase, closing characters left, the combination owed
after a shift frame, and the frame in hand. -/
structure PunchGrant where
  index : Nat
  phase : PunchPhase
  done : Nat
  closing : List Chr
  owed : Option Comb
  frame : Option PunchFrame
  deriving DecidableEq, Repr

structure Punch where
  fault : Bool
  lastFault : Option (PunchCause × Option Nat)
  op : Option (PunchOp × Nat)
  abandoned : Option Nat
  udata : BitVec 5
  uop : BitVec 2
  tapLow : Sensor
  tapOut : Sensor
  chad : Sensor
  hold : Bool
  release : Option Nat
  tape : Option Nat
  tapeHold : Bool
  grant : Option PunchGrant
  lastServed : Origin
  untranslatable : Nat
  repairs : Nat
  cfg : PunchConfig
  deriving DecidableEq, Repr

/-! ## Motors (chapter 11) -/

inductive MotorState where
  | stopped | starting | running | low | fault
  deriving DecidableEq, Repr, Inhabited

inductive MotorCause where
  | none | startLimit | speedLost
  deriving DecidableEq, Repr, Inhabited

/-- A motor record (R176) and its configuration (R182). `lowS` and `stopS` are the thresholds in force, which take new
values of the configuration at the next millisecond tick (R182). -/
structure Motor where
  state : MotorState
  demand : Bool
  prestartA : Bool
  prestartB : Bool
  hold : Bool
  speed : Sensor
  start : Option Nat
  idle : Option Nat
  lastFault : MotorCause
  faults : Nat
  startLimitMs : Nat
  idleLowS : Nat
  idleStopS : Nat
  lowS : Nat
  stopS : Nat
  deriving DecidableEq, Repr

structure Motors where
  print : Motor
  punch : Motor
  deriving DecidableEq, Repr

/-! ## Console port and events (chapter 12) -/

/-- The console commands, in the order of their codes (R185). -/
inductive Command where
  | identify | restart | readEvents | setEventMask | standby | setTimebase | timebaseStatus
  | setCodeTable | setLine | lineStatus | lineStatistics
  | setIdentity | setSupervision | call | clearCall | callStatus | setExchange
  | msgCreate | msgAppend | msgClose | msgRead | msgInfo | msgDelete | msgReroute | queueList
  | storeStatus | storeClear | setStore
  | setAttendance | setRoute | setFraming | setKeymap | setKeyboard | keyboardStatus
  | setPrinter | printerSetTop | printerStatus | mechResume | setPunch | punchStatus
  | setMotors | motorHold | motorStatus
  deriving DecidableEq, Repr, Inhabited

/-- Response statuses (R183). -/
inductive Status where
  | ok | badCommand | badArgument | wrongState | noRecord | storeFull | notReady | none
  deriving DecidableEq, Repr, Inhabited

/-- The port state (R185), with the command held or the response waiting. -/
inductive Port where
  | empty
  | executing (cmd : Command) (payload : List Byte)
  | response (status : Status) (payload : List Byte)
  deriving DecidableEq, Repr

/-- The events, in the order of their bits (R188). -/
inductive Event where
  | timebase | wake | lineAState | lineBState | lineAAlarm | lineBAlarm | wrongStation | storeLow | storeFull
  | msgArrived | holdReady | sendDeferred | printerAttn | punchAttn | motorFault | keyRefused | commandOverrun
  deriving DecidableEq, Repr, Inhabited

structure Console where
  port : Port
  latches : BitVec 17
  mask : BitVec 17
  straps : BitVec 5
  resetLow : Bool
  miso : List Byte
  deriving DecidableEq, Repr

end Sys2Proof.Machine

namespace Sys2Proof.Machine

/-- The state of the part, one field a block, and the queue of commands waiting, oldest first. -/
structure State where
  tbu : Timebase
  ctr : Translator
  lu : Pair LineUnit
  identity : Option (List Chr)
  xcfg : ExchangeConfig
  sup : Pair Supervisor
  stm : Store
  fqm : Fqm
  kbs : Keyboard
  prc : Printer
  puc : Punch
  mtc : Motors
  cpe : Console
  pending : List Instr
  deriving DecidableEq, Repr

/-- The part has no fault that stops it: FAULT of a mechanism, a motor or a private line is a state (R117, R146, R165,
R180). So there is no constructor, and no step ends in a fault. -/
inductive Fault where
  deriving DecidableEq, Repr

/-- Why a command has no outcome. -/
inductive Refusal where
  /-- Raised by the dispatcher alone, for a row that has no meaning yet; safe, since the machine stops. No arm raises
  it. -/
  | notModelled (mnemonic : String)
  deriving DecidableEq, Repr

/-! ## Power-on values -/

/-- The twelve fixed entries of the code table; the other 52 are NONE (R1). -/
def powerOnTable : List CodeEntry :=
  let half : List CodeEntry :=
    (List.range 32).map fun k =>
      if k = 2 then ⟨.char, 10⟩ else if k = 4 then ⟨.char, 32⟩ else if k = 8 then ⟨.char, 13⟩
      else if k = 27 then ⟨.figs, 0⟩ else if k = 31 then ⟨.ltrs, 0⟩ else ⟨.none, 0⟩
  half ++ half

def Timebase.powerOn : Timebase where
  state := .internal
  fRef := 0
  exitSource := .internal
  reason := .none
  lastCount := 0
  fIntEst := Config.fIntNominal
  calKept := 0
  calDiscarded := 0
  tickDivisor := Config.fastDivisor
  wakeCause := .none
  calActive := false
  calTimer := none
  wakeTimer := none
  inc := ⟨3277, 3277⟩
  rateError := ⟨61, 61⟩

def Translator.powerOn : Translator where
  table := powerOnTable
  substitute := 63
  tx := ⟨.unknown, .unknown⟩
  rx := ⟨.unknown, .unknown⟩
  tape := .unknown

def LineStats.zero : LineStats := ⟨0, 0, 0, 0, 0, 0, 0, 0, 0, 0, true⟩

/-- R32, R50. The levels of `pin`, `last` and `known` before the first sample are a DESIGN CHOICE (entry 5), unsafe. -/
def LineUnit.powerOn (t : LineType) : LineUnit where
  cfg := ⟨t, false, 5000, .oneAndHalf, .full, false, 200, 20⟩
  acc := 0
  tx := ⟨.idle, .space, .space⟩
  rx := ⟨.off, .hunting false false, .space, .space, .space, false, Config.counterMax⟩
  stats := .zero

def Exchange.start : Exchange where
  sub := .none
  own := none
  remoteAb := none
  agreed := ⟨false, false, false, false⟩
  ownAccept := none
  remoteAccept := none
  lastSent := none
  lastReceived := none
  cause := .none
  blankRun := 0
  held := []
  pageTwo := false
  half := false
  offerTimer := none
  pageTimer := none
  together := false

def SupTimers.stopped : SupTimers :=
  ⟨none, none, none, none, none, none, none, none, none, none, none, none, none, none, none⟩

/-- R96, R97, R118. -/
def Supervisor.powerOn : Supervisor where
  values := ⟨true, 32, 50, 500, 150, 2000, 1000, 10000, 5, 10, 60, 120, true⟩
  state := .disabled
  direction := .none
  callCount := 0
  digits := []
  expected := none
  matchLen := 0
  remote := none
  progress := []
  exch := .start
  remaining := .unlimited
  lastClear := .none
  refusal := .none
  abActive := false
  ending := false
  phase := .none
  captured := []
  timers := .stopped

/-- R51, R70, R73. No cell is written; an unwritten cell reads 0, a DESIGN CHOICE (entry 7), unsafe. -/
def Store.powerOn : Store where
  cells := []
  free := List.range Config.blocks
  recs := List.replicate Config.records none
  reservation := ⟨0, 0⟩
  low := false
  nextNum := ⟨1, 1, 1, 1⟩
  lineLink := ⟨none, none⟩
  kbLink := none
  lineOwed := ⟨none, none⟩
  kbOwed := none
  episode := ⟨false, false⟩
  discarded := ⟨0, 0⟩
  cfg := ⟨4096, 64, true⟩

def DestSet.empty : DestSet := ⟨⟨false, false, false, false⟩, false⟩
/-- "NNNN" (R81, R173). -/
def nnnn : List Chr := [78, 78, 78, 78]

def Routes.powerOn : Routes :=
  let line : ByMode := ⟨⟨⟨true, true, false, false⟩, false⟩, ⟨⟨false, true, false, false⟩, true⟩⟩
  ⟨⟨⟨⟨true, false, false, false⟩, false⟩, ⟨⟨true, false, false, false⟩, false⟩⟩, line, line⟩

def Framer.idle : Framer := ⟨.idle, [], none⟩
def Selector.idle : Selector := ⟨none, none, false, none, [], none, none⟩

/-- R94. -/
def Fqm.powerOn (attended : Bool) : Fqm where
  attended := attended
  routes := .powerOn
  seq := 0
  framing := ⟨⟨[], nnnn, 10, false⟩, ⟨[], nnnn, 10, false⟩⟩
  framer := ⟨.idle, .idle⟩
  sel := ⟨.idle, .idle⟩

/-- R144. The first scan comes on the fourth tick, a DESIGN CHOICE (entry 11), unsafe. -/
def Keyboard.powerOn : Keyboard where
  keymap := List.replicate 64 ⟨.none, 0, 0⟩
  keys := List.replicate 64 ⟨false, 0⟩
  debounce := 3
  fifo := []
  mode := .localMode
  urgentPending := false
  storeFull := false
  inputAge := Config.counterMax
  repeatKey := none
  repeatTimer := none
  repeatSpent := false
  refusals := 0
  lastRefusal := .none
  bell := none
  scanTimer := 4

def Sensor.clear : Sensor := ⟨false, false, 0⟩

/-- R161; PDATA and POP are a DESIGN CHOICE (entry 11), unsafe. -/
def Printer.powerOn : Printer where
  fault := false
  lastFault := none
  owedCr := false
  op := none
  abandoned := none
  pdata := 0
  pop := 0
  papLow := .clear
  papOut := .clear
  cover := .clear
  hold := false
  release := none
  grant := none
  yieldTimer := none
  starved := false
  passOver := none
  lastServed := .lineB
  count := 0
  line := 4
  page := 0
  heat := 0
  heatHold := false
  decay := 10
  cfg := ⟨72, 66, 3, 3, false, false, .wrap, true, 300, 1500, 3, 8, 10, 400, 250⟩

/-- R175; UDATA and UOP are a DESIGN CHOICE (entry 11), unsafe. -/
def Punch.powerOn : Punch where
  fault := false
  lastFault := none
  op := none
  abandoned := none
  udata := 0
  uop := 0
  tapLow := .clear
  tapOut := .clear
  chad := .clear
  hold := false
  release := none
  tape := none
  tapeHold := false
  grant := none
  lastServed := .lineB
  untranslatable := 0
  repairs := 0
  cfg := ⟨12, 12, nnnn, true, 2, 200, 2000⟩

/-- R176, R182; the at-speed pin as last sampled is low (log entry 63). -/
def Motor.powerOn : Motor where
  state := .stopped
  demand := false
  prestartA := false
  prestartB := false
  hold := false
  speed := .clear
  start := none
  idle := none
  lastFault := .none
  faults := 0
  startLimitMs := 2000
  idleLowS := 5
  idleStopS := 60
  lowS := 5
  stopS := 60

/-- R185, R188, R189, R191, R192; MISO before the first transfer is a DESIGN CHOICE (entry 11), unsafe. -/
def Console.powerOn (straps : BitVec 5) : Console where
  port := .empty
  latches := 0
  mask := BitVec.allOnes 17
  straps := straps
  resetLow := false
  miso := []

/-- The state after RESETN goes high with the straps at these levels (R191, R192), with nothing queued. -/
def State.powerOn (straps : BitVec 5) : State where
  tbu := .powerOn
  ctr := .powerOn
  lu := ⟨.powerOn .switched, .powerOn .privateLine⟩
  identity := none
  xcfg := ⟨false, ⟨false, false, false, false⟩, 2000, .ms500, 256, 64⟩
  sup := ⟨.powerOn, .powerOn⟩
  stm := .powerOn
  fqm := .powerOn (straps.getLsbD 4)
  kbs := .powerOn
  prc := .powerOn
  puc := .powerOn
  mtc := ⟨.powerOn, .powerOn⟩
  cpe := .powerOn straps
  pending := []

/-- The state after power-on with every strap sampled low: a DESIGN CHOICE (entry 6), unsafe. -/
def State.reset : State := State.powerOn 0

end Sys2Proof.Machine
end

