-- ==== Sys2Proof/Machine/Ops.lean ====
section
/-! DEFINITION. The operations every block uses: saturating counters, timers, rounding, access to the state's parts,
event latches, the cells of the traffic store, line increments, wake requests and ordered conditions. -/

namespace Sys2Proof.Machine

open Sys2Proof

/-! ## Counters, timers, rounding -/

/-- One more, saturating at 65,535 (introduction, section 6.5). -/
def bump (n : Nat) : Nat := min (n + 1) Config.counterMax

/-- `k` more, saturating at 65,535. -/
def bumpBy (k n : Nat) : Nat := min (n + k) Config.counterMax

/-- A running timer loses one tick; one that has run out waits (R21, log entry 2). -/
def tickDown : Option Nat → Option Nat
  | some (n + 1) => some n
  | some 0 => some 0
  | none => none

/-- The timer has run out and its row is due. -/
def isDue : Option Nat → Bool
  | some 0 => true
  | _ => false

/-- Round half up (introduction, section 6.5). -/
def roundDiv (num den : Nat) : Nat := (2 * num + den) / (2 * den)

/-- Round half away from zero (introduction, section 6.5). -/
def roundDivInt (num : Int) (den : Nat) : Int :=
  if num < 0 then -(roundDiv num.natAbs den : Int) else (roundDiv num.natAbs den : Int)

/-- ⌈n / 32⌉, at least one: the blocks of a record of length n (R58). -/
def blocksFor (n : Nat) : Nat := max 1 ((n + 31) / 32)

/-! ## Access to the state's parts -/

def State.unit (s : State) (l : LineId) : LineUnit := s.lu.get l
def State.csv (s : State) (l : LineId) : Supervisor := s.sup.get l
def State.selector (s : State) (l : LineId) : Selector := s.fqm.sel.get l
def State.framerOf (s : State) (l : LineId) : Framer := s.fqm.framer.get l
def State.framingOf (s : State) (l : LineId) : FramingConfig := s.fqm.framing.get l

def State.setUnit (s : State) (l : LineId) (u : LineUnit) : State := { s with lu := s.lu.set l u }
def State.setCsv (s : State) (l : LineId) (c : Supervisor) : State := { s with sup := s.sup.set l c }
def State.setSelector (s : State) (l : LineId) (x : Selector) : State :=
  { s with fqm := { s.fqm with sel := s.fqm.sel.set l x } }
def State.setFramer (s : State) (l : LineId) (x : Framer) : State :=
  { s with fqm := { s.fqm with framer := s.fqm.framer.set l x } }

def State.onUnit (s : State) (l : LineId) (f : LineUnit → LineUnit) : State := s.setUnit l (f (s.unit l))
def State.onRx (s : State) (l : LineId) (f : Receiver → Receiver) : State :=
  s.onUnit l fun u => { u with rx := f u.rx }
def State.onTx (s : State) (l : LineId) (f : Transmitter → Transmitter) : State :=
  s.onUnit l fun u => { u with tx := f u.tx }
def State.onStats (s : State) (l : LineId) (f : LineStats → LineStats) : State :=
  s.onUnit l fun u => { u with stats := f u.stats }
def State.onCsv (s : State) (l : LineId) (f : Supervisor → Supervisor) : State := s.setCsv l (f (s.csv l))
def State.onTimers (s : State) (l : LineId) (f : SupTimers → SupTimers) : State :=
  s.onCsv l fun c => { c with timers := f c.timers }
def State.onExch (s : State) (l : LineId) (f : Exchange → Exchange) : State :=
  s.onCsv l fun c => { c with exch := f c.exch }
def State.onSelector (s : State) (l : LineId) (f : Selector → Selector) : State := s.setSelector l (f (s.selector l))
def State.onFramer (s : State) (l : LineId) (f : Framer → Framer) : State := s.setFramer l (f (s.framerOf l))

/-- The record at an index; `none` for FREE (R55). -/
def State.record (s : State) (i : Nat) : Option Rec := (s.stm.recs[i]?).join
def State.setRecord (s : State) (i : Nat) (r : Option Rec) : State :=
  { s with stm := { s.stm with recs := s.stm.recs.set i r } }
/-- Change a record that is not FREE. -/
def State.onRecord (s : State) (i : Nat) (f : Rec → Rec) : State :=
  match s.record i with
  | some r => s.setRecord i (some (f r))
  | none => s

def Four.get {α : Type} (x : Four α) : Deliv → α
  | .print => x.print
  | .punch => x.punch
  | .sendA => x.sendA
  | .sendB => x.sendB

def Four.set {α : Type} (x : Four α) (d : Deliv) (v : α) : Four α :=
  match d with
  | .print => { x with print := v }
  | .punch => { x with punch := v }
  | .sendA => { x with sendA := v }
  | .sendB => { x with sendB := v }

def Four.no : Four Bool := ⟨false, false, false, false⟩
def Four.all {α : Type} (v : α) : Four α := ⟨v, v, v, v⟩
def Four.any (x : Four Bool) : Bool := x.print || x.punch || x.sendA || x.sendB
def DestSet.isEmpty (d : DestSet) : Bool := !(d.out.any || d.hold)
def DestSet.off (d : DestSet) (q : Deliv) : DestSet := { d with out := d.out.set q false }
def DestSet.on (d : DestSet) (q : Deliv) : DestSet := { d with out := d.out.set q true }

/-- The SEND destination of a line. -/
def sendOf : LineId → Deliv
  | .A => .sendA
  | .B => .sendB

def originOf : LineId → Origin
  | .A => .lineA
  | .B => .lineB

def Motors.get (m : Motors) : Mech → Motor
  | .print => m.print
  | .punch => m.punch
def Motors.set (m : Motors) (k : Mech) (x : Motor) : Motors :=
  match k with
  | .print => { m with print := x }
  | .punch => { m with punch := x }
def State.motor (s : State) (k : Mech) : Motor := s.mtc.get k
def State.onMotor (s : State) (k : Mech) (f : Motor → Motor) : State :=
  { s with mtc := s.mtc.set k (f (s.mtc.get k)) }

/-! ## Events (R188) -/

def Event.bit : Event → Nat
  | .timebase => 0 | .wake => 1 | .lineAState => 2 | .lineBState => 3 | .lineAAlarm => 4 | .lineBAlarm => 5
  | .wrongStation => 6 | .storeLow => 7 | .storeFull => 8 | .msgArrived => 9 | .holdReady => 10
  | .sendDeferred => 11 | .printerAttn => 12 | .punchAttn => 13 | .motorFault => 14 | .keyRefused => 15
  | .commandOverrun => 16

/-- Latch an event flag; a flag already latched stays (R188). -/
def State.latch (s : State) (e : Event) : State :=
  { s with cpe := { s.cpe with latches := s.cpe.latches ||| BitVec.twoPow 17 e.bit } }

def stateEvent : LineId → Event
  | .A => .lineAState
  | .B => .lineBState

def alarmEvent : LineId → Event
  | .A => .lineAAlarm
  | .B => .lineBAlarm

/-! ## The cells of the traffic store (R51)

Address `32 * block + cell`. An unlisted cell reads 0 (log entry 7). -/

/-- What an unlisted cell reads as. -/
def unlisted : BitVec 8 := 0

/-- The canonical form: addresses strictly rising, no entry equal to what an unlisted cell reads as. -/
def Memory.wf : List Host.Cell → Bool
  | [] => true
  | [c] => c.2 != unlisted
  | c :: d :: m => c.2 != unlisted && decide (c.1 < d.1) && Memory.wf (d :: m)

def Memory.read : List Host.Cell → Nat → BitVec 8
  | [], _ => unlisted
  | c :: m, a => if c.1 = a then c.2 else Memory.read m a

/-- Write one cell, keeping the canonical form. -/
def Memory.write : List Host.Cell → Nat → BitVec 8 → List Host.Cell
  | [], a, v => if v = unlisted then [] else [(a, v)]
  | c :: m, a, v =>
    if a < c.1 then (if v = unlisted then c :: m else (a, v) :: c :: m)
    else if a = c.1 then (if v = unlisted then m else (a, v) :: m)
    else c :: Memory.write m a v

/-- The address of the cell that holds character `n` of a record (R58). -/
def cellAddr (r : Rec) (n : Nat) : Nat := 32 * (r.chain[n / 32]?).getD 0 + n % 32

/-- Character `n` of a record. -/
def readChar (s : State) (r : Rec) (n : Nat) : Chr := (Memory.read s.stm.cells (cellAddr r n)).setWidth 7

/-! ## Timebase (chapter 2) -/

/-- The part is in a running timebase state (section 2.2). -/
def TbState.isRunning : TbState → Bool
  | .standby | .waking => false
  | .internal | .qualifying | .reference | .degraded => true

def State.running (s : State) : Bool := s.tbu.state.isRunning

/-- F, the frequency the timebase believes its source to have (R14). -/
def Timebase.believedF (t : Timebase) : Nat := if t.state = .reference then t.fRef else t.fIntEst

/-- N = round(2^24 * 64 * Q / (100 * F)) (R22). -/
def increment (q f : Nat) : Nat := roundDiv (2 ^ 24 * 64 * q) (100 * f)

/-- The reported rate error in ppm, clamped (R24): f_t - 0.64 Q over 0.64 Q is (100 N F - 64 Q 2^24) / (64 Q 2^24). -/
def rateErrorOf (q f n : Nat) : Int :=
  let den : Nat := 64 * q * 2 ^ 24
  let e := roundDivInt (1000000 * (((100 * n * f : Nat) : Int) - (den : Int))) den
  max (-32767) (min 32767 e)

/-- Recompute one line's increment and rate error (R25). -/
def State.recompute (s : State) (l : LineId) : State :=
  let q := (s.unit l).cfg.rate
  let n := increment q s.tbu.believedF
  let e := rateErrorOf q s.tbu.believedF n
  { s with tbu := { s.tbu with inc := s.tbu.inc.set l n, rateError := s.tbu.rateError.set l e } }

def State.recomputeBoth (s : State) : State := (s.recompute .A).recompute .B

/-- The first wake request in STANDBY records its cause and moves to WAKING; in any other state it does nothing here
(R29, R30). -/
def State.requestWake (s : State) (c : WakeCause) : State :=
  if s.tbu.state = .standby then
    { s with tbu := { s.tbu with state := .waking, wakeCause := c, wakeTimer := some Config.wakeTicks } }
  else s

/-! ## Ordered condition (R36) -/

/-- The supervisor orders a condition; an IDLE transmitter's pin takes it at once. -/
def State.order (s : State) (l : LineId) (lv : Level) : State :=
  s.onTx l fun t =>
    match t.state with
    | .idle => { t with ordered := lv, pin := lv }
    | .sending _ _ _ => { t with ordered := lv }

/-- Both of a line's shift records become UNKNOWN (section 1.5). -/
def State.forgetShifts (s : State) (l : LineId) : State :=
  { s with ctr := { s.ctr with tx := s.ctr.tx.set l .unknown, rx := s.ctr.rx.set l .unknown } }

/-- A character in SENDING is abandoned: the transmitter is IDLE on the ordered condition, and the transmit shift record
is UNKNOWN (R38). -/
def State.abandonTx (s : State) (l : LineId) : State :=
  match (s.unit l).tx.state with
  | .idle => s
  | .sending _ _ _ =>
    let s := s.onTx l fun t => { t with state := .idle, pin := t.ordered }
    { s with ctr := { s.ctr with tx := s.ctr.tx.set l .unknown } }

end Sys2Proof.Machine
end

