-- ==== Sys2Proof/Machine/Flags.lean ====
section
/-! DEFINITION. What the rules define as a condition of the state: duplex, receive-busy, the low figure, exchange over,
lock causes, keyboard idle, the output pins and the console's RDY and ATTN. -/

namespace Sys2Proof.Machine

open Sys2Proof

/-- The line runs half duplex (R35). -/
def halfDuplex (s : State) (l : LineId) : Bool :=
  decide ((s.unit l).cfg.duplex = .half) || (s.csv l).exch.half

/-- The receiver is in CHARACTER (section 3.5). -/
def inCharacter (r : Receiver) : Bool :=
  match r.sub with
  | .character _ => decide (r.mode = .framing)
  | _ => false

/-- The frame in hand, in FRAMING. -/
def Receiver.frameInHand (r : Receiver) : Option Frame :=
  match r.mode, r.sub with
  | .framing, .character f => some f
  | .framing, .hunting _ _ | .framing, .spaceHeld _ | .framing, .blanked | .off, _ | .condition, _ | .watch, _ => none

/-- The stop sample of the character in hand is due (R42). -/
def Receiver.stopDue (r : Receiver) : Bool :=
  match r.frameInHand with
  | some f => decide (416 ≤ f.pos) && f.started
  | none => false

/-- Receive-busy (R44). -/
def receiveBusy (s : State) (l : LineId) : Bool :=
  let u := s.unit l
  inCharacter u.rx || decide (u.rx.age < u.cfg.turnaroundMs)

/-- U, the unreserved free count (section 4.2). -/
def unreserved (m : Store) : Nat := m.free.length - (m.reservation.a + m.reservation.b)

/-- The exchange is over (R120). -/
def ExchSub.isOver : ExchSub → Bool
  | .done | .plain => true
  | .none | .offerWait | .offered | .awaitPage0 | .awaitPage1 | .awaitClose | .closing | .abandoned => false

/-- The engine is paging (R120). -/
def ExchSub.isPaging : ExchSub → Bool
  | .offered | .awaitPage0 | .awaitPage1 | .awaitClose => true
  | .none | .offerWait | .closing | .done | .plain | .abandoned => false

/-- An exchange that has begun and is not over (R131). -/
def ExchSub.isOpen : ExchSub → Bool
  | .offerWait | .offered | .awaitPage0 | .awaitPage1 | .awaitClose | .closing => true
  | .none | .done | .plain | .abandoned => false

/-- The line is CONNECTED with its exchange over, or RUNNING (R88, R89). -/
def lineReady (s : State) (l : LineId) : Bool :=
  match (s.csv l).state with
  | .running => true
  | .connected => (s.csv l).exch.sub.isOver
  | .disabled | .free | .incoming | .answering | .refusing | .calling | .selecting | .awaitConnect | .clearing
  | .guard | .fault => false

/-- The line of a direct mode. -/
def KbMode.line : KbMode → Option LineId
  | .localMode => none
  | .directA => some .A
  | .directB => some .B

/-- The lock causes of the keyboard (R138). -/
def lockLineDown (s : State) : Bool :=
  match s.kbs.mode.line with
  | some l => decide ((s.csv l).state ≠ .connected) && decide ((s.csv l).state ≠ .running)
  | none => false
def lockExchange (s : State) : Bool :=
  match s.kbs.mode.line with
  | some l => decide ((s.csv l).state = .connected) && !(s.csv l).exch.sub.isOver
  | none => false
def lockTurnaround (s : State) : Bool :=
  match s.kbs.mode.line with
  | some l => halfDuplex s l && receiveBusy s l
  | none => false

/-- The keyboard is locked, and KLOCK asserted (R138). -/
def kbLocked (s : State) : Bool := lockLineDown s || lockExchange s || lockTurnaround s || s.kbs.storeFull

/-- BELLOUT is high (R137). -/
def bellOut (s : State) : Bool := s.kbs.bell.isSome

/-- Keyboard input counts as idle for stored grants (R141). -/
def inputIdle (s : State) : Bool := s.kbs.fifo.isEmpty && decide (Config.inputIdleMs ≤ s.kbs.inputAge)

/-- Motor outputs (R176). -/
def MotorState.runOut : MotorState → Bool
  | .starting | .running | .low => true
  | .stopped | .fault => false
def MotorState.lowOut : MotorState → Bool
  | .low => true
  | .stopped | .starting | .running | .fault => false

/-- A motor has a run request while its set of request sources is not empty (R177). -/
def Motor.request (m : Motor) : Bool := m.demand || m.prestartA || m.prestartB || m.hold

/-- RDY (R185, R192). -/
def rdy (s : State) : Bool :=
  match s.cpe.port with
  | .response _ _ => !s.cpe.resetLow
  | .empty | .executing _ _ => false

/-- ATTN (R189, R192). -/
def attn (s : State) : Bool := !s.cpe.resetLow && decide (s.cpe.latches &&& s.cpe.mask ≠ 0)

end Sys2Proof.Machine
end

