-- ==== Sys2Proof/Machine/Operands.lean ====
section
/-! DEFINITION. Every operand form of the console commands (R184): the number of each enumerated value, the encoding of
quantities, sets and strings, and the reading of each command's payload, which answers `none` exactly where the owning
rule refuses the payload with BAD_ARGUMENT by itself. Absent fields of responses follow log entry 8. -/

namespace Sys2Proof.Machine

open Sys2Proof

/-! ## Numbers of enumerated values: the order in which the owning rule lists them (R184) -/

def TbState.code : TbState → Nat
  | .internal => 0 | .qualifying => 1 | .reference => 2 | .degraded => 3 | .standby => 4 | .waking => 5
def TbSource.code : TbSource → Nat
  | .internal => 0 | .reference => 1
def TbReason.code : TbReason → Nat
  | .none => 0 | .accepted => 1 | .rejected => 2 | .lost => 3
def WakeCause.code : WakeCause → Nat
  | .none => 0 | .callA => 1 | .callB => 2 | .spaceA => 3 | .spaceB => 4 | .key => 5 | .console => 6
def ShiftRecord.code : ShiftRecord → Nat
  | .held .letters => 0 | .held .figures => 1 | .unknown => 2
/-- The order is log entry 44. -/
def Level.code : Level → Nat
  | .space => 0 | .mark => 1
def LineType.code : LineType → Nat
  | .switched => 0 | .privateLine => 1
def StopLength.code : StopLength → Nat
  | .one => 0 | .oneAndHalf => 1 | .two => 2
/-- The stop length in line ticks (R32). -/
def StopLength.ticks : StopLength → Nat
  | .one => 64 | .oneAndHalf => 96 | .two => 128
def Duplex.code : Duplex → Nat
  | .full => 0 | .half => 1
def RxMode.code : RxMode → Nat
  | .off => 0 | .condition => 1 | .framing => 2 | .watch => 3
def RxSub.code : RxSub → Nat
  | .hunting _ _ => 0 | .character _ => 1 | .spaceHeld _ => 2 | .blanked => 3
def SupState.code : SupState → Nat
  | .disabled => 0 | .free => 1 | .incoming => 2 | .answering => 3 | .refusing => 4 | .calling => 5
  | .selecting => 6 | .awaitConnect => 7 | .connected => 8 | .clearing => 9 | .guard => 10 | .running => 11
  | .fault => 12
def Direction.code : Direction → Nat
  | .none => 0 | .incoming => 1 | .outgoing => 2
def ClearReason.code : ClearReason → Nat
  | .none => 0 | .remoteClear => 1 | .localClear => 2 | .confirmTimeout => 3 | .proceedTimeout => 4
  | .connectTimeout => 5 | .wrongStation => 6 | .storeFull => 7 | .idle => 8 | .done => 9 | .restart => 10
def RefusalCause.code : RefusalCause → Nat
  | .none => 0 | .noIdentity => 1 | .answerOff => 2 | .storeLow => 3 | .noIndex => 4
def ExchSub.code : ExchSub → Nat
  | .none => 0 | .offerWait => 1 | .offered => 2 | .awaitPage0 => 3 | .awaitPage1 => 4 | .awaitClose => 5
  | .closing => 6 | .done => 7 | .plain => 8 | .abandoned => 9
def PlainCause.code : PlainCause → Nat
  | .none => 0 | .noOffer => 1 | .noPage => 2 | .notAPage => 3 | .wrongNumber => 4 | .wrongAck => 5
  | .framing => 6
def Origin.code : Origin → Nat
  | .keyboard => 0 | .console => 1 | .lineA => 2 | .lineB => 3
def RecState.code : RecState → Nat
  | .opened => 1 | .closed => 2 | .cancelled => 3
def KeyKind.code : KeyKind → Nat
  | .none => 0 | .char => 1 | .shift => 2 | .msgEnd => 3 | .hereIs => 4 | .wruKey => 5 | .urgent => 6
  | .repeatKey => 7 | .modeLocal => 8 | .modeDirectA => 9 | .modeDirectB => 10
def KbMode.code : KbMode → Nat
  | .localMode => 0 | .directA => 1 | .directB => 2
/-- NONE comes first (log entry 51). -/
def KeyRefusal.code : KeyRefusal → Nat
  | .none => 0 | .fifoFull => 1 | .storeFull => 2 | .noIdentity => 3 | .wrongMode => 4
/-- An action's kind byte and character byte, by the keymap's kind codes (R136, R184). -/
def KeyAction.code : KeyAction → Nat × Nat
  | .chr c => (1, c.toNat) | .msgEnd => (3, 0) | .hereIs => (4, 0) | .wru => (5, 0) | .urgent => (6, 0)
  | .mode .localMode => (8, 0) | .mode .directA => (9, 0) | .mode .directB => (10, 0)
def PrintOp.kind : PrintOp → PrintKind
  | .strike _ => .strike | .space => .space | .cr => .cr | .lf _ => .lf | .bell => .bell
def PrintKind.code : PrintKind → Nat
  | .strike => 0 | .space => 1 | .cr => 2 | .lf => 3 | .bell => 4
/-- Printer operation codes on the POP pins (R145). -/
def PrintKind.pop : PrintKind → Nat
  | .strike => 1 | .space => 2 | .cr => 3 | .lf => 4 | .bell => 5
def Margin.code : Margin → Nat
  | .wrap => 0 | .overprint => 1
def PrintPhase.code : PrintPhase → Nat
  | .lead => 0 | .header => 1 | .text => 2 | .yielding => 3 | .trailer => 4
def PunchOp.kind : PunchOp → PunchKind
  | .punch _ => .punch | .feed => .feed | .backspace => .backspace
def PunchKind.code : PunchKind → Nat
  | .punch => 0 | .feed => 1 | .backspace => 2
/-- Punch operation codes on the UOP pins (R164). -/
def PunchKind.uop : PunchKind → Nat
  | .punch => 1 | .feed => 2 | .backspace => 3
def PunchPhase.code : PunchPhase → Nat
  | .erase => 0 | .leader => 1 | .openShift => 2 | .text => 3 | .close => 4 | .trailer => 5
def RepairStep.code : RepairStep → Nat
  | .back => 1 | .erase => 2 | .figs => 3 | .again => 4
def MotorState.code : MotorState → Nat
  | .stopped => 0 | .starting => 1 | .running => 2 | .low => 3 | .fault => 4
def MotorCause.code : MotorCause → Nat
  | .none => 0 | .startLimit => 1 | .speedLost => 2
def Status.code : Status → Nat
  | .ok => 0 | .badCommand => 1 | .badArgument => 2 | .wrongState => 3 | .noRecord => 4 | .storeFull => 5
  | .notReady => 6 | .none => 7
def PageTimer.code : PageTimer → Nat
  | .ms100 => 0 | .ms200 => 1 | .ms500 => 2 | .ms1000 => 3
def PageTimer.ms : PageTimer → Nat
  | .ms100 => 100 | .ms200 => 200 | .ms500 => 500 | .ms1000 => 1000

/-! ## Encoding of response fields (R184) -/

def e1 (n : Nat) : List Byte := [BitVec.ofNat 8 n]
def e2 (n : Nat) : List Byte := [BitVec.ofNat 8 n, BitVec.ofNat 8 (n / 256)]
def e4 (n : Nat) : List Byte :=
  [BitVec.ofNat 8 n, BitVec.ofNat 8 (n / 256), BitVec.ofNat 8 (n / 65536), BitVec.ofNat 8 (n / 16777216)]
def eBool (b : Bool) : List Byte := e1 b.toNat
/-- A signed quantity of two bytes, in two's complement. -/
def eInt2 (i : Int) : List Byte := e2 (BitVec.ofInt 16 i).toNat
def eText (t : List Chr) : List Byte := BitVec.ofNat 8 t.length :: t.map (·.setWidth 8)
/-- An absent text is the empty string (log entry 8). -/
def eOptText (t : Option (List Chr)) : List Byte := eText (t.getD [])
/-- An optional quantity: a presence byte, then the value if present (log entry 8). -/
def eOpt (enc : Nat → List Byte) : Option Nat → List Byte
  | some n => e1 1 ++ enc n
  | none => e1 0
/-- An optional field with its presence (log entry 8). -/
def eField : Option (List Byte) → List Byte
  | some b => e1 1 ++ b
  | none => e1 0
def bits (bs : List Bool) : Nat := bs.foldr (fun b n => b.toNat + 2 * n) 0
def eSet (bs : List Bool) : List Byte := e1 (bits bs)
def Four.flags (x : Four Bool) : List Bool := [x.print, x.punch, x.sendA, x.sendB]
def eDests (d : DestSet) : List Byte := eSet (d.out.flags ++ [d.hold])
def eFour (x : Four Bool) : List Byte := eSet x.flags
def Abilities.flags (a : Abilities) : List Bool := [a.limit, a.urgent, a.numbering, a.half]
def eAbilities (a : Abilities) : List Byte := eSet a.flags
def eList (enc : Nat → List Byte) (xs : List Nat) : List Byte := e1 xs.length ++ xs.flatMap enc
/-- The three-byte field of R188. -/
def eEvents (b : BitVec 17) : List Byte :=
  [BitVec.ofNat 8 b.toNat, BitVec.ofNat 8 (b.toNat / 256), BitVec.ofNat 8 (b.toNat / 65536)]

/-! ## Reading payload fields (R184) -/

def u16 (a b : Byte) : Nat := a.toNat + 256 * b.toNat
def u32 (a b c d : Byte) : Nat := a.toNat + 256 * b.toNat + 65536 * c.toNat + 16777216 * d.toNat

def readBool (b : Byte) : Option Bool :=
  if b = 0 then some false else if b = 1 then some true else none
def readLine (b : Byte) : Option LineId :=
  if b = 0 then some .A else if b = 1 then some .B else none
def readMech (b : Byte) : Option Mech :=
  if b = 0 then some .print else if b = 1 then some .punch else none
def readSource (b : Byte) : Option TbSource :=
  if b = 0 then some .internal else if b = 1 then some .reference else none
def readLineType (b : Byte) : Option LineType :=
  if b = 0 then some .switched else if b = 1 then some .privateLine else none
def readStop (b : Byte) : Option StopLength :=
  if b = 0 then some .one else if b = 1 then some .oneAndHalf else if b = 2 then some .two else none
def readDuplex (b : Byte) : Option Duplex :=
  if b = 0 then some .full else if b = 1 then some .half else none
def readMargin (b : Byte) : Option Margin :=
  if b = 0 then some .wrap else if b = 1 then some .overprint else none
def readPageTimer (b : Byte) : Option PageTimer :=
  if b = 0 then some .ms100 else if b = 1 then some .ms200 else if b = 2 then some .ms500
  else if b = 3 then some .ms1000 else none

/-- A quantity within its range, both ends included. -/
def inRange (lo hi n : Nat) : Option Nat := if lo ≤ n ∧ n ≤ hi then some n else none

/-- A destination set; a bit above HOLD names something outside the set. -/
def readDests (b : Byte) : Option DestSet :=
  if b.toNat < 32 then
    some ⟨⟨b.getLsbD 0, b.getLsbD 1, b.getLsbD 2, b.getLsbD 3⟩, b.getLsbD 4⟩
  else none

def readAbilities (b : Byte) : Option Abilities :=
  if b.toNat < 16 then some ⟨b.getLsbD 0, b.getLsbD 1, b.getLsbD 2, b.getLsbD 3⟩ else none

/-- Text whose every character is at most 127 and passes `ok`. -/
def readText (ok : Chr → Bool) (bs : List Byte) : Option (List Chr) :=
  if bs.all fun b => decide (b.toNat ≤ 127) && ok (b.setWidth 7) then some (bs.map (·.setWidth 7)) else none

/-- A string: a count byte, then that many bytes. -/
def takeString : List Byte → Option (List Byte × List Byte)
  | [] => none
  | n :: rest => if n.toNat ≤ rest.length then some (rest.take n.toNat, rest.drop n.toNat) else none

/-- Characters of an answerback: not 0 and not 5 (R95, R111). -/
def answerbackChr (c : Chr) : Bool := decide (c ≠ 0) && decide (c ≠ 5)
/-- Characters of SOM, EOM and TAPE_EOM: 1 to 127 except 5, 10 and 13 (R81, R173). -/
def endChr (c : Chr) : Bool := decide (c ≠ 0) && decide (c ≠ 5) && decide (c ≠ 10) && decide (c ≠ 13)
/-- '0' to '9'. -/
def digitChr (c : Chr) : Bool := decide (48 ≤ c.toNat) && decide (c.toNat ≤ 57)

/-! ## The payload of each command -/

/-- No payload. -/
def readNone : List Byte → Option Unit
  | [] => some ()
  | _ => none

/-- One line (R47, R48, R97, R116). -/
def readOneLine : List Byte → Option LineId
  | [l] => readLine l
  | _ => none

/-- SET_EVENT_MASK: three bytes with bits 17 to 23 clear (R189). -/
def readMask : List Byte → Option (BitVec 17)
  | [a, b, c] => if c.toNat < 2 then some (BitVec.ofNat 17 (u32 a b c 0)) else none
  | _ => none

/-- STANDBY: the exit source (R26). -/
def readStandby : List Byte → Option TbSource
  | [x] => readSource x
  | _ => none

/-- SET_TIMEBASE: source and F_REF (R17). -/
def readTimebase : List Byte → Option (TbSource × Nat)
  | [x, a, b, c, d] => do
    let src ← readSource x
    let f := u32 a b c d
    if (src = .internal ∧ f = 0) ∨ (Config.fRefLow ≤ f ∧ f ≤ Config.fRefHigh) then some (src, f) else none
  | _ => none

/-- A loaded entry of the code table: its index `comb + 32 * shift`, and the entry. -/
abbrev CodeLoad := Nat × CodeEntry

/-- The combinations whose entries are fixed (R1). -/
def fixedComb (k : Nat) : Bool := k == 0 || k == 2 || k == 4 || k == 8 || k == 27 || k == 31

/-- The kinds that can be loaded, by their codes (R1, R2). -/
def readCodeKind (b : Byte) : Option CodeKind :=
  if b = 0 then some .none else if b = 1 then some .char else if b = 4 then some .wru
  else if b = 5 then some .bell else if b = 6 then some .proceed else if b = 7 then some .selectEnd else none

def readCodeEntry (comb shift kind chr : Byte) : Option CodeLoad := do
  let k ← readCodeKind kind
  let okChr := if k = .char then decide (1 ≤ chr.toNat ∧ chr.toNat ≤ 127 ∧ chr ≠ 5 ∧ chr ≠ 7) else decide (chr = 0)
  if comb.toNat ≤ 31 ∧ shift.toNat ≤ 1 ∧ fixedComb comb.toNat = false ∧ okChr = true then
    some (comb.toNat + 32 * shift.toNat, ⟨k, chr.setWidth 7⟩)
  else none

def readCodeEntries : List Byte → Option (List CodeLoad)
  | [] => some []
  | comb :: shift :: kind :: chr :: rest => do
    let e ← readCodeEntry comb shift kind chr
    let es ← readCodeEntries rest
    if es.any (fun x => x.1 == e.1) then none else some (e :: es)
  | _ => none

/-- The substitute byte: 0, or 1 to 127 except 5, 7, 10, 12, 13 and 32 (R2). -/
def substituteOk (b : Byte) : Bool :=
  decide (b.toNat ≤ 127) && !([5, 7, 10, 12, 13, 32].contains b.toNat)

/-- SET_CODE_TABLE: substitute and entries (R2). -/
def readCodeTable : List Byte → Option (Byte × List CodeLoad)
  | sub :: n :: rest => do
    if substituteOk sub = true ∧ 1 ≤ n.toNat ∧ n.toNat ≤ 52 ∧ rest.length = 4 * n.toNat then
      let es ← readCodeEntries rest
      some (sub, es)
    else none
  | _ => none

/-- SET_LINE: line and every field of R32 (R33). -/
def readSetLine : List Byte → Option (LineId × LineConfig)
  | [l, ty, en, r0, r1, st, du, us, t0, t1, al] => do
    let l ← readLine l
    let ty ← readLineType ty
    let en ← readBool en
    let rate ← inRange 4500 30000 (u16 r0 r1)
    let st ← readStop st
    let du ← readDuplex du
    let us ← readBool us
    let turn ← inRange 50 1000 (u16 t0 t1)
    let al ← inRange 4 32 al.toNat
    some (l, ⟨ty, en, rate, st, du, us, turn, al⟩)
  | _ => none

/-- SET_IDENTITY: a count of 0 to 20 and that many characters (R95). -/
def readIdentity (p : List Byte) : Option (List Chr) := do
  let (t, rest) ← takeString p
  if rest = [] ∧ t.length ≤ 20 then readText answerbackChr t else none

/-- SET_SUPERVISION: line and every value of R96. -/
def readSupervision : List Byte → Option (LineId × SupValues)
  | [l, ae, am0, am1, cr, cl0, cl1, co0, co1, cc0, cc1, g0, g1, p0, p1, ca, pr, cn0, cn1, i0, i1, ew] => do
    let l ← readLine l
    let ae ← readBool ae
    let am ← inRange 0 511 (u16 am0 am1)
    let cr ← inRange 10 250 cr.toNat
    let cl ← inRange 200 3000 (u16 cl0 cl1)
    let co ← inRange 50 1000 (u16 co0 co1)
    let cc ← inRange 500 10000 (u16 cc0 cc1)
    let g ← inRange 200 5000 (u16 g0 g1)
    let pp ← inRange 1000 60000 (u16 p0 p1)
    let ca ← inRange 1 30 ca.toNat
    let pr ← inRange 1 60 pr.toNat
    let cn ← inRange 10 300 (u16 cn0 cn1)
    let i ← if u16 i0 i1 = 0 then some 0 else inRange 10 600 (u16 i0 i1)
    let ew ← readBool ew
    some (l, ⟨ae, am, cr, cl, co, cc, g, pp, ca, pr, cn, i, ew⟩)
  | _ => none

/-- What CALL carries (R111). -/
structure CallArgs where
  line : LineId
  digits : List Chr
  expected : List Chr
  matchLen : Nat
  deriving DecidableEq, Repr

/-- CALL: line, digits, expected answerback and match length (R111). -/
def readCall : List Byte → Option CallArgs
  | [] => none
  | l :: p => do
    let l ← readLine l
    let (ds, p) ← takeString p
    let (ex, p) ← takeString p
    let m ← match p with
      | [m] => inRange 1 20 m.toNat
      | _ => none
    if 1 ≤ ds.length ∧ ds.length ≤ 16 ∧ ex.length ≤ 20 ∧ (ex.length = 0 ∨ m ≤ ex.length) then
      let ds ← readText digitChr ds
      let ex ← readText answerbackChr ex
      some ⟨l, ds, ex, m⟩
    else none

/-- SET_EXCHANGE (R121). -/
def readExchange : List Byte → Option ExchangeConfig
  | [ov, ab, o0, o1, pt, a0, a1, k0, k1] => do
    let ov ← readBool ov
    let ab ← readAbilities ab
    let ow ← inRange 500 10000 (u16 o0 o1)
    let pt ← readPageTimer pt
    let ma ← inRange 0 4095 (u16 a0 a1)
    let kr ← inRange 0 511 (u16 k0 k1)
    some ⟨ov, ab, ow, pt, ma, kr⟩
  | _ => none

/-- A record index, 0 to 47 (section 4.6). -/
def readIndex (b : Byte) : Option Nat := inRange 0 47 b.toNat

def readOneIndex : List Byte → Option Nat
  | [i] => readIndex i
  | _ => none

/-- MSG_CREATE: a destination set that is not empty, and a priority (R66). -/
def readCreate : List Byte → Option (DestSet × Bool)
  | [d, p] => do
    let d ← readDests d
    let p ← readBool p
    if d.isEmpty then none else some (d, p)
  | _ => none

/-- MSG_APPEND: index and 1 to 240 characters (R67). -/
def readAppend : List Byte → Option (Nat × List Chr)
  | [] => none
  | i :: p => do
    let i ← readIndex i
    let (t, rest) ← takeString p
    if rest = [] ∧ 1 ≤ t.length ∧ t.length ≤ 240 then
      let t ← readText (fun _ => true) t
      some (i, t)
    else none

/-- MSG_READ: index, offset, count from 1 to 240 (R69). -/
def readRead : List Byte → Option (Nat × Nat × Nat)
  | [i, o0, o1, n] => do
    let i ← readIndex i
    let n ← inRange 1 240 n.toNat
    some (i, u16 o0 o1, n)
  | _ => none

def DestSet.overlaps (a b : DestSet) : Bool :=
  (a.out.print && b.out.print) || (a.out.punch && b.out.punch) || (a.out.sendA && b.out.sendA)
    || (a.out.sendB && b.out.sendB) || (a.hold && b.hold)

/-- MSG_REROUTE: index, add set, remove set (R80). -/
def readReroute : List Byte → Option (Nat × DestSet × DestSet)
  | [i, a, r] => do
    let i ← readIndex i
    let a ← readDests a
    let r ← readDests r
    if (a.isEmpty && r.isEmpty) || a.overlaps r then none else some (i, a, r)
  | _ => none

/-- QUEUE_LIST: one destination, `none` for HOLD (R79). -/
def readQueue : List Byte → Option (Option Deliv)
  | [d] =>
    if d = 0 then some (some .print) else if d = 1 then some (some .punch) else if d = 2 then some (some .sendA)
    else if d = 3 then some (some .sendB) else if d = 4 then some none else none
  | _ => none

/-- SET_STORE (R70). -/
def readSetStore : List Byte → Option StoreConfig
  | [m0, m1, l0, l1, c] => do
    let m ← inRange 512 8192 (u16 m0 m1)
    let l ← inRange 0 511 (u16 l0 l1)
    let c ← readBool c
    some ⟨m, l, c⟩
  | _ => none

/-- SET_ATTENDANCE: ATTENDED 0, UNATTENDED 1 (R74); the answer is whether the mode is ATTENDED. -/
def readAttendance : List Byte → Option Bool
  | [m] => do
    let u ← readBool m
    some (!u)
  | _ => none

/-- SET_ROUTE: origin KEYBOARD, LINE_A or LINE_B, mode, and a set that is not empty and does not send a line's traffic
back to it (R75). -/
def readRoute : List Byte → Option (Origin × Bool × DestSet)
  | [o, m, d] => do
    let o ← if o = 0 then some Origin.keyboard else if o = 2 then some Origin.lineA
      else if o = 3 then some Origin.lineB else none
    let u ← readBool m
    let d ← readDests d
    if d.isEmpty || (decide (o = .lineA) && d.out.sendA) || (decide (o = .lineB) && d.out.sendB) then none
    else some (o, !u, d)
  | _ => none

/-- SET_FRAMING: line, SOM, EOM, MESSAGE_GAP_S, SEND_ON_INCOMING (R81). -/
def readFraming : List Byte → Option (LineId × FramingConfig)
  | [] => none
  | l :: p => do
    let l ← readLine l
    let (som, p) ← takeString p
    let (eom, p) ← takeString p
    match p with
    | [g0, g1, so] =>
      if som.length ≤ 8 ∧ 2 ≤ eom.length ∧ eom.length ≤ 6 then
        let som ← readText endChr som
        let eom ← readText endChr eom
        let g ← inRange 0 3600 (u16 g0 g1)
        let so ← readBool so
        some (l, ⟨som, eom, g, so⟩)
      else none
    | _ => none

/-- The keymap kinds by their codes (R184). -/
def readKeyKind (n : Nat) : Option KeyKind :=
  match n with
  | 0 => some .none | 1 => some .char | 2 => some .shift | 3 => some .msgEnd | 4 => some .hereIs
  | 5 => some .wruKey | 6 => some .urgent | 7 => some .repeatKey | 8 => some .modeLocal
  | 9 => some .modeDirectA | 10 => some .modeDirectB | _ => none

/-- A packed keymap entry of three bytes (R184), with the checks of R134 on its kind and values. -/
def readKeyEntry (a b c : Byte) : Option (Nat × KeyEntry) := do
  let pos := a.toNat % 64
  let k ← readKeyKind (a.toNat / 64 + 4 * (b.toNat / 128) + 8 * (c.toNat / 128))
  let v : Chr := b.setWidth 7
  let w : Chr := c.setWidth 7
  let okValues := if k = .char then decide (v ≠ 5 ∧ w ≠ 5 ∧ ¬(v = 0 ∧ w = 0)) else decide (v = 0 ∧ w = 0)
  if okValues then some (pos, ⟨k, v, w⟩) else none

def readKeyEntries : List Byte → Option (List (Nat × KeyEntry))
  | [] => some []
  | a :: b :: c :: rest => do
    let e ← readKeyEntry a b c
    let es ← readKeyEntries rest
    if es.any (fun x => x.1 == e.1) then none else some (e :: es)
  | _ => none

/-- SET_KEYMAP: 1 to 64 entries of three bytes (R134, R184). -/
def readKeymap : List Byte → Option (List (Nat × KeyEntry))
  | [] => none
  | n :: rest =>
    if 1 ≤ n.toNat ∧ n.toNat ≤ 64 ∧ rest.length = 3 * n.toNat then readKeyEntries rest else none

/-- SET_KEYBOARD: DEBOUNCE (R143). -/
def readKeyboard : List Byte → Option Nat
  | [d] => inRange 2 8 d.toNat
  | _ => none

/-- SET_PRINTER: every value of R158. -/
def readPrinter : List Byte → Option PrinterConfig
  | [ll, pl, tp, bm, cr, lf, mg, hd, o0, o1, c0, c1, ys, sh, dm, hh0, hh1, hl0, hl1] => do
    let ll ← inRange 40 80 ll.toNat
    let pl ← if pl.toNat = 0 then some 0 else inRange 20 99 pl.toNat
    let tp ← inRange 0 40 tp.toNat
    let bm ← inRange 0 40 bm.toNat
    let cr ← readBool cr
    let lf ← readBool lf
    let mg ← readMargin mg
    let hd ← readBool hd
    let op ← inRange 100 2000 (u16 o0 o1)
    let ct ← inRange 200 4000 (u16 c0 c1)
    let ys ← inRange 1 30 ys.toNat
    let sh ← inRange 1 63 sh.toNat
    let dm ← inRange 1 50 dm.toNat
    let hh ← inRange 1 960 (u16 hh0 hh1)
    let hl ← inRange 0 959 (u16 hl0 hl1)
    if (pl ≠ 0 ∧ pl < tp + bm + 10) ∨ hh ≤ hl then none
    else some ⟨ll, pl, tp, bm, cr, lf, mg, hd, op, ct, ys, sh, dm, hh, hl⟩
  | _ => none

/-- MECH_RESUME: PRINTER 0 or PUNCH 1 (R147). -/
def readResume : List Byte → Option Mech
  | [m] => readMech m
  | _ => none

/-- SET_PUNCH: every value of R173. -/
def readPunch : List Byte → Option PunchConfig
  | ld :: tr :: p => do
    let ld ← inRange 0 120 ld.toNat
    let tr ← inRange 0 120 tr.toNat
    let (eom, p) ← takeString p
    match p with
    | [vf, rl, t0, t1, r0, r1] =>
      if 2 ≤ eom.length ∧ eom.length ≤ 6 then
        let eom ← readText endChr eom
        let vf ← readBool vf
        let rl ← inRange 1 4 rl.toNat
        let tm ← inRange 50 1000 (u16 t0 t1)
        let rs ← inRange 0 10000 (u16 r0 r1)
        some ⟨ld, tr, eom, vf, rl, tm, rs⟩
      else none
    | _ => none
  | _ => none

/-- SET_MOTORS: motor, START_LIMIT_MS, IDLE_LOW_S, IDLE_STOP_S (R182). -/
def readMotors : List Byte → Option (Mech × Nat × Nat × Nat)
  | [m, s0, s1, l0, l1, p0, p1] => do
    let m ← readMech m
    let st ← inRange 200 5000 (u16 s0 s1)
    let lo ← inRange 1 600 (u16 l0 l1)
    let sp ← inRange 1 3600 (u16 p0 p1)
    if sp < lo then none else some (m, st, lo, sp)
  | _ => none

/-- MOTOR_HOLD: motor and setting (R177). -/
def readHold : List Byte → Option (Mech × Bool)
  | [m, h] => do
    let m ← readMech m
    let h ← readBool h
    some (m, h)
  | _ => none

end Sys2Proof.Machine
end

