-- ==== Sys2Proof/Machine/StoreOps.lean ====
section
/-! DEFINITION. The shared operations of the traffic store and the delivery queues: taking blocks, opening, appending to,
splitting, closing and releasing records, joining and leaving queues, the queue order, and the end of a delivery or of a
grant (chapters 4 and 5). -/

namespace Sys2Proof.Machine

open Sys2Proof

/-! ## The low condition (R54) -/

/-- Evaluate the low condition; its becoming true latches STORE_LOW. -/
def evalLow (s : State) : State :=
  let now := decide (unreserved s.stm < s.stm.cfg.storeLow)
  let s := if now && !s.stm.low then s.latch .storeLow else s
  { s with stm := { s.stm with low := now } }

/-- STM reports that U has risen: the keyboard's store-full flag clears (R139), and the low condition is evaluated. -/
def unreservedRose (s : State) : State :=
  evalLow { s with kbs := { s.kbs with storeFull := false } }

/-- Set a line's reservation, with what follows from U's change (R53, R54, R139). -/
def setReservation (s : State) (l : LineId) (n : Nat) : State :=
  let old := s.stm.reservation.get l
  let s := { s with stm := { s.stm with reservation := s.stm.reservation.set l n } }
  if n < old then unreservedRose s else evalLow s

/-! ## Delivery queues (R77, R78) -/

def Rec.queued (r : Rec) (d : Deliv) : Bool := (r.stamp.get d).isSome

/-- A record joins a queue with the sequence's value as its stamp; one already there stays (R77). -/
def enqueue (s : State) (d : Deliv) (i : Nat) : State :=
  match s.record i with
  | none => s
  | some r =>
    if r.queued d then s
    else
      let s := s.setRecord i (some { r with stamp := r.stamp.set d (some s.fqm.seq) })
      { s with fqm := { s.fqm with seq := min (s.fqm.seq + 1) Config.lastStamp } }

/-- Whenever all four queues are empty the arrival sequence is 0 (R77). -/
def settleSequence (s : State) : State :=
  if s.stm.recs.all (fun x => match x with
      | none => true
      | some r => !(r.queued .print || r.queued .punch || r.queued .sendA || r.queued .sendB)) then
    { s with fqm := { s.fqm with seq := 0 } }
  else s

/-- A record leaves a queue (R78). -/
def dequeue (s : State) (d : Deliv) (i : Nat) : State :=
  settleSequence (s.onRecord i fun r => { r with stamp := r.stamp.set d none })

/-- The queue order of R77: URGENT first, then the smaller stamp, then the lower index. -/
def before (a b : Nat × Rec) (d : Deliv) : Bool :=
  if a.2.urgent ≠ b.2.urgent then a.2.urgent
  else
    let x := (a.2.stamp.get d).getD 0
    let y := (b.2.stamp.get d).getD 0
    decide (x < y) || (decide (x = y) && decide (a.1 < b.1))

def insertInOrder (d : Deliv) (a : Nat × Rec) : List (Nat × Rec) → List (Nat × Rec)
  | [] => [a]
  | b :: xs => if before a b d then a :: b :: xs else b :: insertInOrder d a xs

/-- The records that are not FREE, with their indices, in index order. -/
def entriesFrom : Nat → List (Option Rec) → List (Nat × Rec)
  | _, [] => []
  | i, none :: xs => entriesFrom (i + 1) xs
  | i, some r :: xs => (i, r) :: entriesFrom (i + 1) xs

def State.entries (s : State) : List (Nat × Rec) := entriesFrom 0 s.stm.recs

/-- A delivery queue in queue order (R77). -/
def queueOf (s : State) (d : Deliv) : List (Nat × Rec) :=
  (s.entries.filter fun e => e.2.queued d).foldr (insertInOrder d) []

/-! ## Taking blocks (R52) -/

inductive Writer where
  | line (l : LineId)
  | keyboard
  | console
  deriving DecidableEq, Repr

/-- The head of the free list leaves it as R52 allows for the writer: a line's writer draws on its reservation first. -/
def takeBlock (s : State) (w : Writer) : Option (Nat × State) :=
  match s.stm.free with
  | [] => none
  | b :: rest =>
    let taken : State := { s with stm := { s.stm with free := rest } }
    match w with
    | .line l =>
      if 0 < s.stm.reservation.get l then
        some (b, { taken with stm := { taken.stm with
          reservation := s.stm.reservation.set l (s.stm.reservation.get l - 1) } })
      else if 0 < unreserved s.stm then some (b, evalLow taken) else none
    | .keyboard | .console => if 0 < unreserved s.stm then some (b, evalLow taken) else none

/-! ## Opening a record (R56) -/

def Writer.origin : Writer → Origin
  | .line l => originOf l
  | .keyboard => .keyboard
  | .console => .console

def NextNumbers.get (n : NextNumbers) : Origin → Nat
  | .keyboard => n.keyboard
  | .console => n.console
  | .lineA => n.lineA
  | .lineB => n.lineB
def NextNumbers.set (n : NextNumbers) (o : Origin) (v : Nat) : NextNumbers :=
  match o with
  | .keyboard => { n with keyboard := v }
  | .console => { n with console := v }
  | .lineA => { n with lineA := v }
  | .lineB => { n with lineB := v }

/-- The number after n, from 9999 to 1 (R56). -/
def nextNumber (n : Nat) : Nat := if n < 9999 then n + 1 else 1

/-- The lowest-numbered FREE index. -/
def freeIndex (s : State) : Option Nat := s.stm.recs.findIdx? (·.isNone)

def newRecord (o : Origin) (number block : Nat) (spec : OpenSpec) : Rec where
  state := .opened
  origin := o
  number := number
  urgent := spec.urgent
  length := 0
  chain := [block]
  dests := spec.dests
  cursor := Four.all 0
  attempts := ⟨0, 0⟩
  charged := ⟨false, false⟩
  flags := ⟨false, false, false, spec.continuation, spec.liveA, spec.liveB, false, false⟩
  sender := spec.sender
  remoteNumber := none
  serial := spec.serial
  stamp := Four.all none
  grants := Four.no
  stops := Four.no

/-- Link a writer to its open record, its owed continuation being opened by it (R56, R59). -/
def linkWriter (s : State) (w : Writer) (i : Option Nat) : State :=
  match w with
  | .line l => { s with stm := { s.stm with lineLink := s.stm.lineLink.set l i, lineOwed := s.stm.lineOwed.set l none } }
  | .keyboard => { s with stm := { s.stm with kbLink := i, kbOwed := none } }
  | .console => s

/-- Join the cut-through queues at the open, and a live record's SEND queue, in the order of the destinations (R78, log
entry 48). -/
def enqueueAtOpen (s : State) (i : Nat) (spec : OpenSpec) : State :=
  let s := if spec.dests.out.print then enqueue s .print i else s
  let s := if spec.dests.out.punch then enqueue s .punch i else s
  let s := if spec.dests.out.sendA && spec.liveA then enqueue s .sendA i else s
  if spec.dests.out.sendB && spec.liveB then enqueue s .sendB i else s

/-- Open a record as one step; the answer is its index, or none when no index is FREE or the take fails (R56). -/
def openRecord (s : State) (w : Writer) (spec : OpenSpec) : Option (Nat × State) :=
  match freeIndex s with
  | none => none
  | some i =>
    match takeBlock s w with
    | none => none
    | some (b, s) =>
      let o := w.origin
      let n := s.stm.nextNum.get o
      let s := s.setRecord i (some (newRecord o n b spec))
      let s := { s with stm := { s.stm with nextNum := s.stm.nextNum.set o (nextNumber n) } }
      some (i, enqueueAtOpen (linkWriter s w (some i)) i spec)

/-! ## Releasing and closing (R61, R64) -/

/-- Release: the chain joins the free list's tail in chain order, and the record becomes FREE (R64). -/
def releaseRecord (s : State) (i : Nat) : State :=
  match s.record i with
  | none => s
  | some r =>
    let s := s.setRecord i none
    unreservedRose (settleSequence { s with stm := { s.stm with free := s.stm.free ++ r.chain } })

/-- A CLOSED record with an empty pending set is released or becomes CANCELLED; a CANCELLED one with no grant is
released (R64). -/
def releaseIfDone (s : State) (i : Nat) : State :=
  match s.record i with
  | none => s
  | some r =>
    match r.state with
    | .opened => s
    | .closed =>
      if r.dests.isEmpty then
        (if r.grants.any then s.setRecord i (some { r with state := .cancelled }) else releaseRecord s i)
      else s
    | .cancelled => if r.grants.any then s else releaseRecord s i

/-- End the link of whichever writer holds record i. -/
def unlink (s : State) (i : Nat) : State :=
  let drop (x : Option Nat) : Option Nat := if x = some i then none else x
  { s with stm := { s.stm with
      lineLink := ⟨drop s.stm.lineLink.a, drop s.stm.lineLink.b⟩
      kbLink := drop s.stm.kbLink } }

/-- A record goes from OPEN to CLOSED, joins its SEND queues, and, unless RESTART closes it, latches its events (R61,
R78). -/
def closeRecord (s : State) (i : Nat) (announce : Bool) : State :=
  match s.record i with
  | none => s
  | some r =>
    match r.state with
    | .closed | .cancelled => s
    | .opened =>
      let s := unlink (s.setRecord i (some { r with state := .closed })) i
      let s := if r.dests.out.sendA then enqueue s .sendA i else s
      let s := if r.dests.out.sendB then enqueue s .sendB i else s
      let s := if announce && decide (r.origin ≠ .console) then s.latch .msgArrived else s
      let s := if announce && r.dests.hold then s.latch .holdReady else s
      releaseIfDone s i

/-! ## Appending (R58, R59) -/

/-- What a continuation of a split record opens with (R59). -/
def continuationOf (r : Rec) : OpenSpec :=
  ⟨r.urgent, r.dests, true, r.flags.liveA, r.flags.liveB, r.sender, r.serial⟩

/-- STM holds a continuation owed for the writer (R59). The console's is held by its own command. -/
def oweTo (s : State) (w : Writer) (spec : Option OpenSpec) : State :=
  match w with
  | .line l => { s with stm := { s.stm with lineOwed := s.stm.lineOwed.set l spec } }
  | .keyboard => { s with stm := { s.stm with kbOwed := spec } }
  | .console => s

/-- Close record i with SPLIT set, its writer being owed a continuation (R59). -/
def splitRecord (s : State) (w : Writer) (i : Nat) : State :=
  match s.record i with
  | none => s
  | some r =>
    oweTo (closeRecord (s.setRecord i (some { r with flags := { r.flags with split := true } })) i true) w
      (some (continuationOf r))

/-- Write character c, taking a block when the last one is full; none when the take fails (R58). -/
def appendRaw (s : State) (w : Writer) (i : Nat) (c : Chr) (errored : Bool) : Option State :=
  match s.record i with
  | none => none
  | some r =>
    let grown : Option (Rec × State) :=
      if 0 < r.length ∧ r.length % 32 = 0 then
        match takeBlock s w with
        | none => none
        | some (b, s) => some ({ r with chain := r.chain ++ [b] }, s)
      else some (r, s)
    match grown with
    | none => none
    | some (r, s) =>
      let cells := Memory.write s.stm.cells (cellAddr r r.length) (c.setWidth 8)
      let r := { r with length := r.length + 1, flags := { r.flags with errored := r.flags.errored || errored } }
      some { (s.setRecord i (some r)) with stm := { (s.setRecord i (some r)).stm with cells := cells } }

/-- The record is at or above MAX_MSG_LEN (R59). -/
def atLimit (s : State) (i : Nat) : Bool :=
  match s.record i with
  | some r => decide (s.stm.cfg.maxMsgLen ≤ r.length)
  | none => false

/-- Append to an open record that is below the limit, and split it right after the character that reaches the limit
(R59). -/
def appendAndSplit (s : State) (w : Writer) (i : Nat) (c : Chr) (errored : Bool) : Option State :=
  match appendRaw s w i c errored with
  | none => none
  | some s => some (if atLimit s i then splitRecord s w i else s)

def writerLink (s : State) : Writer → Option Nat
  | .line l => s.stm.lineLink.get l
  | .keyboard => s.stm.kbLink
  | .console => none

def owedTo (s : State) : Writer → Option OpenSpec
  | .line l => s.stm.lineOwed.get l
  | .keyboard => s.stm.kbOwed
  | .console => none

/-- What came of offering a character: the state, whether it was stored, and whether a record was opened for it. -/
structure Offered where
  st : State
  stored : Bool
  opened : Bool

/-- A linked writer offers one character: the split check of R59, the open of a continuation or of a fresh record when
none is open, then the append (R58, R59). -/
def offerChar (s : State) (w : Writer) (fresh : OpenSpec) (c : Chr) (errored : Bool) : Offered :=
  let s := match writerLink s w with
    | some i => if atLimit s i then splitRecord s w i else s
    | none => s
  match writerLink s w with
  | some i =>
    match appendAndSplit s w i c errored with
    | some s' => ⟨s', true, false⟩
    | none => ⟨s, false, false⟩
  | none =>
    match openRecord s w ((owedTo s w).getD fresh) with
    | none => ⟨s, false, false⟩
    | some (i, s') =>
      match appendAndSplit s' w i c errored with
      | some s'' => ⟨s'', true, true⟩
      | none => ⟨s', false, true⟩

/-! ## Delivery and grants (R62, R63, R64) -/

/-- A deliverer's grant on a record ends: its destination leaves the grant set and the stop set, and a CANCELLED record
with no grant left is released (R63, R64). -/
def endGrant (s : State) (d : Deliv) (i : Nat) : State :=
  releaseIfDone (s.onRecord i fun r => { r with grants := r.grants.set d false, stops := r.stops.set d false }) i

/-- A delivery completes: the destination leaves the pending set, the record leaves the queue and the grant ends, as one
step (R62). -/
def completeDelivery (s : State) (d : Deliv) (i : Nat) : State :=
  endGrant (dequeue (s.onRecord i fun r => { r with dests := r.dests.off d }) d i) d i

/-- A grant starts: the destination joins the record's grant set (R63). -/
def startGrant (s : State) (d : Deliv) (i : Nat) : State :=
  s.onRecord i fun r => { r with grants := r.grants.set d true }

/-- The deliverer has been asked to stop (R63). -/
def stopAsked (s : State) (d : Deliv) (i : Nat) : Bool :=
  match s.record i with
  | some r => r.stops.get d
  | none => true

/-- Move a deliverer's cursor by one, under a stop request too (R63, R171, log entry 32). -/
def advanceCursor (s : State) (d : Deliv) (i : Nat) : State :=
  s.onRecord i fun r => { r with cursor := r.cursor.set d (r.cursor.get d + 1) }

/-- A candidate for the printer or the punch (R150, R169). -/
def isCandidate (d : Deliv) (r : Rec) : Bool :=
  r.queued d &&
    match r.state with
    | .closed => true
    | .opened => decide (r.cursor.get d < r.length)
    | .cancelled => false

def candidates (s : State) (d : Deliv) : List (Nat × Rec) := (queueOf s d).filter fun e => isCandidate d e.2

/-- The rotation of origins after the last served one (R150). -/
def rotation : Origin → List Origin
  | .lineB => [.keyboard, .console, .lineA, .lineB]
  | .keyboard => [.console, .lineA, .lineB, .keyboard]
  | .console => [.lineA, .lineB, .keyboard, .console]
  | .lineA => [.lineB, .keyboard, .console, .lineA]

/-- The choice of R150 and R169 among candidates in queue order: the first URGENT one, else the first origin of the
rotation that has one, and its first in queue order, which is its smallest stamp. -/
def chooseGrant (served : Origin) (cs : List (Nat × Rec)) : Option Nat :=
  match cs.find? fun e => e.2.urgent with
  | some e => some e.1
  | none =>
    ((rotation served).findSome? fun o => cs.find? fun e => decide (e.2.origin = o)).map (·.1)

/-! ## Line writers (R57, R60) -/

/-- The routing entry of a writer in the attendance mode of this moment (R76). -/
def routeOf (s : State) (o : Origin) : DestSet :=
  let e := match o with
    | .lineA => s.fqm.routes.lineA
    | .lineB => s.fqm.routes.lineB
    | .keyboard | .console => s.fqm.routes.keyboard
  if s.fqm.attended then e.attended else e.unattended

/-- The answerback captured on this connection; a private line captures none (R55, R82, R117). -/
def Supervisor.capturedOnLine (c : Supervisor) : Option (List Chr) :=
  if c.direction = .none then none else c.remote

/-- What a line's framer opens a record with (R76, R82). -/
def lineSpec (s : State) (l : LineId) : OpenSpec :=
  ⟨false, routeOf s (originOf l), false, false, false, (s.csv l).capturedOnLine, some (s.csv l).callCount⟩

/-- A discard episode begins: STORE_FULL is latched, and an open record receives TRUNCATED. The failing character is
counted when it was one to append (R60, log entry 14). -/
def beginEpisode (s : State) (l : LineId) (counted : Bool) : State :=
  let n := s.stm.discarded.get l
  let s := { s with stm := { s.stm with
      episode := s.stm.episode.set l true
      discarded := s.stm.discarded.set l (if counted then bump n else n) } }
  let s := match s.stm.lineLink.get l with
    | some i => s.onRecord i fun r => { r with flags := { r.flags with truncated := true } }
    | none => s
  s.latch .storeFull

/-- The framer asks for a record when a message begins; a failed open begins a discard episode (R57, R82). -/
def openLineRecord (s : State) (l : LineId) : State :=
  match openRecord s (.line l) (lineSpec s l) with
  | some (_, s) => s
  | none => beginEpisode s l false

/-- The framer passes one character to the store: appended, or discarded and counted during an episode (R58, R60). -/
def storeLineChar (s : State) (l : LineId) (x : RxChar) : State :=
  if s.stm.episode.get l then
    { s with stm := { s.stm with discarded := s.stm.discarded.set l (bump (s.stm.discarded.get l)) } }
  else
    let o := offerChar s (.line l) (lineSpec s l) x.chr x.errored
    if o.stored then o.st else beginEpisode o.st l true

def storeLineChars (s : State) (l : LineId) (xs : List RxChar) : State :=
  xs.foldl (fun s x => storeLineChar s l x) s

/-- The framer closes the line's message: the record closes, the episode ends and an owed continuation is dropped (R59,
R60, R61, R86). -/
def closeLineMessage (s : State) (l : LineId) : State :=
  let s := match s.stm.lineLink.get l with
    | some i => closeRecord s i true
    | none => s
  { s with stm := { s.stm with episode := s.stm.episode.set l false, lineOwed := s.stm.lineOwed.set l none } }

end Sys2Proof.Machine
end

