-- ==== Sys2Proof/Machine/Translate.lean ====
section
/-! DEFINITION. The code translator (chapter 1): the code table's lookups, the transmit translation and shift insertion,
and the shift combinations. -/

namespace Sys2Proof.Machine

open Sys2Proof

def Shift.code : Shift → Nat
  | .letters => 0 | .figures => 1

/-- The combination of a shift: 31 for LETTERS, 27 for FIGURES (R1, R12). -/
def Shift.comb : Shift → Comb
  | .letters => 31 | .figures => 27

/-- The code table's entry at a combination and shift (R1). -/
def tableEntry (t : List CodeEntry) (comb : Nat) (sh : Shift) : CodeEntry :=
  (t[comb + 32 * sh.code]?).getD ⟨.none, 0⟩

/-- The answer of the transmit translation: combination and needed shift, `none` for EITHER (R4). -/
structure Sending where
  comb : Comb
  need : Option Shift
  deriving DecidableEq, Repr

/-- The lowest combination whose entry in this shift passes. -/
def findComb (t : List CodeEntry) (want : CodeEntry → Bool) (sh : Shift) : Option Nat :=
  (List.range 32).find? fun k => want (tableEntry t k sh)

/-- LETTERS entries first, then FIGURES; EITHER when both entries of the combination pass (R4, R5). -/
def searchTable (t : List CodeEntry) (want : CodeEntry → Bool) : Option Sending :=
  match findComb t want .letters with
  | some k => some ⟨BitVec.ofNat 5 k, if want (tableEntry t k .figures) then none else some .letters⟩
  | none =>
    match findComb t want .figures with
    | some k => some ⟨BitVec.ofNat 5 k, some .figures⟩
    | none => none

/-- The entries that carry an internal character: WRU and BEL by kind, the others by CHAR (R4, R5). -/
def carries (c : Chr) (e : CodeEntry) : Bool :=
  if c = 0 then false
  else if c = 5 then decide (e.kind = .wru)
  else if c = 7 then decide (e.kind = .bell)
  else decide (e.kind = .char) && decide (e.chr = c)

/-- Transmit translation of an internal character; none when it is untranslatable (R4, R5, R6). LF, SP and CR are searched
for like the rest (log entry 41). -/
def translateChr (t : List CodeEntry) (c : Chr) : Option Sending := searchTable t (carries c)

/-- Transmit translation of the end of selection (R5). -/
def translateSelectEnd (t : List CodeEntry) : Option Sending := searchTable t fun e => decide (e.kind = .selectEnd)

/-- Transmit translation of an item of a sequence; raw combinations are sent as they are (R5). -/
def translateItem (t : List CodeEntry) : TxItem → Option Sending
  | .raw b => some ⟨b, none⟩
  | .chr c => translateChr t c
  | .selectEnd => translateSelectEnd t

/-- The shift combination to emit first, if the sink's record does not hold the needed shift (R12). -/
def shiftBefore (rec : ShiftRecord) (x : Sending) : Option Shift :=
  match x.need with
  | none => none
  | some sh => if rec = .held sh then none else some sh

/-- The entry that a received combination reads, UNKNOWN being read as LETTERS (R7). -/
def readComb (t : List CodeEntry) (rec : ShiftRecord) (comb : Comb) : CodeEntry :=
  match rec with
  | .held sh => tableEntry t comb.toNat sh
  | .unknown => tableEntry t comb.toNat .letters

def State.setTxShift (s : State) (l : LineId) (r : ShiftRecord) : State :=
  { s with ctr := { s.ctr with tx := s.ctr.tx.set l r } }
def State.setRxShift (s : State) (l : LineId) (r : ShiftRecord) : State :=
  { s with ctr := { s.ctr with rx := s.ctr.rx.set l r } }
def State.setTape (s : State) (r : ShiftRecord) : State := { s with ctr := { s.ctr with tape := r } }

/-- Load entries of a command into the table, the rest keeping their contents (R2). -/
def loadEntries (t : List CodeEntry) (es : List CodeLoad) : List CodeEntry := es.foldl (fun t e => t.set e.1 e.2) t

end Sys2Proof.Machine
end

