-- ==== Sys2Proof/Machine/MechOps.lean ====
section
/-! DEFINITION. The mechanisms: sensors, motors, the printer's layout and its sequence of operations, the punch's section
and its repair, the ends of their grants, and the motor requests that follow (chapters 9 to 11). -/

namespace Sys2Proof.Machine

open Sys2Proof

/-! ## Sensors (R149, R176) -/

/-- One sample of a level input; a level held for `n` samples waits for its row (R149, log entry 2). -/
def Sensor.sample (n : Nat) (x : Sensor) (pin : Bool) : Sensor :=
  if n ≤ x.count then { x with pin := pin }
  else if pin = x.level then ⟨pin, x.level, 0⟩
  else ⟨pin, x.level, x.count + 1⟩

/-- The pin has held a new level for `n` samples. -/
def Sensor.ripe (n : Nat) (x : Sensor) : Bool := decide (n ≤ x.count)

/-- The qualified level takes the new level. -/
def Sensor.flip (x : Sensor) : Sensor := ⟨x.pin, !x.level, 0⟩

/-! ## Motors (chapter 11) -/

/-- Enter STARTING, and RUNNING in the same step when the qualified speed is ASSERTED (R178). -/
def Motor.begin (m : Motor) : Motor :=
  if m.speed.level then { m with state := .running, start := none, idle := none }
  else { m with state := .starting, start := some m.startLimitMs, idle := none }

/-- What a motor does with its request: STOPPED and LOW start, RUNNING runs its idle timer while there is none (R178,
R179). -/
def Motor.follow (running : Bool) (m : Motor) : Motor :=
  match m.state with
  | .stopped | .low => if running && m.request then m.begin else m
  | .running => { m with idle := if m.request then none else some (m.idle.getD 0) }
  | .starting | .fault => m

/-- Forced to STOPPED with its timers stopped (R181). -/
def Motor.forced (m : Motor) : Motor := { m with state := .stopped, start := none, idle := none }

/-- Enter FAULT (R180); MOTOR_FAULT is latched by the row. -/
def Motor.fail (m : Motor) (c : MotorCause) : Motor :=
  { m with state := .fault, start := none, idle := none, lastFault := c, faults := bump m.faults }

/-! ## Layout (R154, R155) -/

/-- The LF operations of a line feed; the last one carries the line it leads to (R155, log entry 52). -/
def lineFeed (p : Printer) : List PrintOp :=
  let c := p.cfg
  if c.pageLength = 0 then [.lf none]
  else if p.line + c.bottom < c.pageLength then [.lf (some (p.line + 1, false))]
  else List.replicate (c.top + c.bottom) (.lf none) ++ [.lf (some (c.top + 1, true))]

/-- The LF operations of a page feed (R155). -/
def pageFeed (p : Printer) : List PrintOp :=
  let c := p.cfg
  if c.pageLength = 0 then [.lf none]
  else List.replicate (c.pageLength - p.line + c.top) (.lf none) ++ [.lf (some (c.top + 1, true))]

/-- The operations of a record character (R154). -/
def charOps (p : Printer) (c : Chr) : List PrintOp :=
  let room := decide (p.count < p.cfg.lineLength)
  let margin : List PrintOp := match p.cfg.margin with
    | .wrap => .cr :: lineFeed p
    | .overprint => []
  let back : List PrintOp := if p.cfg.lfImpliesCr && decide (0 < p.count) then [.cr] else []
  if c = 0 ∨ c = 5 then []
  else if c = 7 then [.bell]
  else if c = 13 then .cr :: (if p.cfg.crImpliesLf then lineFeed p else [])
  else if c = 10 then back ++ lineFeed p
  else if c = 12 then back ++ pageFeed p
  else if c = 32 then (if room then [.space] else margin)
  else if room then [.strike c]
  else margin ++ [.strike c]

/-- The operations of an item of a lead, header, yield or trailer. -/
def scriptOps (p : Printer) : Script → List PrintOp
  | .chr c => charOps p c
  | .cr => [.cr]
  | .lineFeed => lineFeed p
  | .crLfIfCount => if 0 < p.count then .cr :: lineFeed p else []

/-! ## Header and trailer (R156) -/

/-- A number as four decimal digits with leading zeros. -/
def fourDigits (n : Nat) : List Chr :=
  [n / 1000 % 10, n / 100 % 10, n / 10 % 10, n % 10].map fun d => BitVec.ofNat 7 (48 + d)

def Origin.tag : Origin → Chr
  | .keyboard => 75 | .console => 67 | .lineA => 65 | .lineB => 66

/-- "URGENT", "CONT", "*TRUNCATED*" and "*ERRORED*". -/
def urgentText : List Chr := [85, 82, 71, 69, 78, 84]
def contText : List Chr := [67, 79, 78, 84]
def truncatedText : List Chr := [42, 84, 82, 85, 78, 67, 65, 84, 69, 68, 42]
def erroredText : List Chr := [42, 69, 82, 82, 79, 82, 69, 68, 42]

/-- Characters of the sender answerback that the header leaves out (R156). -/
def headerChr (c : Chr) : Bool := !([5, 7, 10, 12, 13].contains c.toNat)

def headerText (r : Rec) : List Chr :=
  [r.origin.tag, 32] ++ fourDigits r.number
    ++ (if r.urgent then 32 :: urgentText else [])
    ++ (match r.sender with
        | some t => 32 :: t.filter headerChr
        | none => [])
    ++ (if r.flags.printResume then 32 :: contText else [])

def headerScript (r : Rec) : List Script := (headerText r).map .chr ++ [.cr, .lineFeed]

def trailerScript (r : Rec) : List Script :=
  (if r.flags.truncated then .crLfIfCount :: truncatedText.map .chr else [])
    ++ (if r.flags.errored then .crLfIfCount :: erroredText.map .chr else [])
    ++ [.cr, .lineFeed, .lineFeed]

/-! ## The printer's sequence (R148, R151) -/

/-- What a phase prints, as of this moment. -/
def phaseScript (p : Printer) (r : Rec) : PrintPhase → List Script
  | .lead | .yielding => [.crLfIfCount]
  | .header => if p.cfg.headers then headerScript r else []
  | .trailer => if p.cfg.headers then trailerScript r else []
  | .text => []

/-- The items of the phase still to print; they are fixed when the phase's first operation is chosen (R156). -/
def PrintGrant.items (g : PrintGrant) (p : Printer) (r : Rec) : List Script := g.script.getD (phaseScript p r g.phase)

/-- The operations of the next item or character of the grant, none when it waits or when the next one needs none. -/
def nextItemOps (s : State) (g : PrintGrant) : List PrintOp :=
  match s.record g.index with
  | none => []
  | some r =>
    match g.phase with
    | .text => if r.cursor.print < r.length then charOps s.prc (readChar s r r.cursor.print) else []
    | .lead | .header | .yielding | .trailer =>
      match g.items s.prc r with
      | [] => []
      | x :: _ => scriptOps s.prc x

/-- The operations of the grant that are still to issue: those of the character or item in hand, else the next one's. -/
def grantOps (s : State) (g : PrintGrant) : List PrintOp :=
  match g.ops with
  | [] => nextItemOps s g
  | o :: os => o :: os

/-- The next operation of the printer: the owed CR, else the grant's (R148). -/
def nextPrintOp (s : State) : Option PrintOp :=
  if s.prc.owedCr then some .cr
  else
    match s.prc.grant with
    | some g => (grantOps s g).head?
    | none => none

def State.setPrintGrant (s : State) (g : Option PrintGrant) : State := { s with prc := { s.prc with grant := g } }

/-- The printer's grant ends; the yield timer is cleared with it (R152, R153). -/
def endPrintGrant (s : State) : State :=
  match s.prc.grant with
  | none => s
  | some g =>
    endGrant { s with prc := { s.prc with grant := none, yieldTimer := none, starved := false } } .print g.index

def clearPrintResume (s : State) (i : Nat) : State :=
  s.onRecord i fun r => { r with flags := { r.flags with printResume := false } }

/-- The record receives PRINT_RESUME while PRINT is still pending (R146, R153, log entry 28). -/
def markPrintResume (s : State) (i : Nat) : State :=
  s.onRecord i fun r =>
    if r.dests.out.print then { r with flags := { r.flags with printResume := true } } else r

/-- A candidate of the PRINT queue other than record i exists (R153). -/
def otherCandidate (s : State) (i : Nat) : Bool := (candidates s .print).any fun e => decide (e.1 ≠ i)

/-- The end of a yield: PRINT_RESUME, the grant ends, and the record is passed over at the choice of this moment (R153). -/
def endYield (s : State) (g : PrintGrant) : State :=
  let s := endPrintGrant (markPrintResume s g.index)
  { s with prc := { s.prc with passOver := if otherCandidate s g.index then some g.index else none } }

/-- The phase has nothing left (R151). -/
def endPhase (s : State) (g : PrintGrant) (r : Rec) : Option State :=
  match g.phase with
  | .lead => some (s.setPrintGrant (some { g with phase := .header, script := none }))
  | .header => some (s.setPrintGrant (some { g with phase := .text, script := none }))
  | .text =>
    match r.state with
    | .opened => none
    | .closed | .cancelled => some (s.setPrintGrant (some { g with phase := .trailer, script := none }))
  | .yielding => some (endYield s g)
  | .trailer =>
    some (completeDelivery { s with prc := { s.prc with grant := none, yieldTimer := none, starved := false } } .print
      g.index)

/-- One step of the grant that needs no operation (log entry 16): a stop with nothing in flight, a character or item
without operations, the end of a phase. None when the next thing is an operation or a wait. -/
def printStep (s : State) : Option State :=
  match s.prc.grant, s.prc.op with
  | none, _ => none
  | some _, some _ => none
  | some g, none =>
    if stopAsked s .print g.index then some (endPrintGrant s)
    else if s.prc.owedCr then none
    else
      match g.ops, s.record g.index with
      | _ :: _, _ => none
      | [], none => none
      | [], some r =>
        match nextItemOps s g with
        | _ :: _ => none
        | [] =>
          match g.phase with
          | .text => if r.cursor.print < r.length then some (advanceCursor s .print g.index) else endPhase s g r
          | .lead | .header | .yielding | .trailer =>
            match g.items s.prc r with
            | [] => endPhase s g r
            | _ :: xs => some (s.setPrintGrant (some { g with script := some xs }))

/-- Enough for a record of 8,192 characters none of which needs an operation. -/
def sweepFuel : Nat := 9000

def printSweep : Nat → State → State
  | 0, s => s
  | n + 1, s =>
    match printStep s with
    | none => s
    | some s => printSweep n s

/-- The yield timer runs while the granted record is OPEN, the grant is in TEXT at the length and nothing is in flight
(R153). -/
def yieldRuns (s : State) : Bool :=
  match s.prc.grant with
  | none => false
  | some g =>
    match s.record g.index with
    | none => false
    | some r =>
      decide (g.phase = .text) && decide (r.state = .opened) && decide (r.cursor.print = r.length)
        && g.ops.isEmpty && s.prc.op.isNone

/-- A yield timer whose conditions have failed stops and is cleared, and the record is no longer starved (R153). -/
def stopYield (s : State) : State :=
  if yieldRuns s then s else { s with prc := { s.prc with yieldTimer := none, starved := false } }

/-- Start or keep the yield timer while it runs, and begin the yield of a starved record once another candidate exists
(R153). -/
def followYield (s : State) : State :=
  if yieldRuns s then
    let p := { s.prc with yieldTimer := some (s.prc.yieldTimer.getD (0, 1000 * s.prc.cfg.yieldS)) }
    match p.grant with
    | some g =>
      if p.starved && otherCandidate s g.index then
        { s with prc := { p with grant := some { g with phase := .yielding, script := none },
                                 yieldTimer := none, starved := false } }
      else { s with prc := p }
    | none => { s with prc := p }
  else stopYield s

/-- The heat hold is set when the next operation is a STRIKE, none being in flight, and H is at or above H_HI (R157, log
entry 62). -/
def followHeat (s : State) : State :=
  match s.prc.op, nextPrintOp s with
  | none, some (.strike _) =>
    if s.prc.cfg.hHi ≤ s.prc.heat then { s with prc := { s.prc with heatHold := true } } else s
  | none, some .space | none, some .cr | none, some (.lf _) | none, some .bell | none, none | some _, _ => s

/-- The printer asks for its motor (R148, log entry 12). -/
def printDemand (s : State) : Bool :=
  !s.prc.fault && !s.prc.hold && (s.prc.op.isSome || (nextPrintOp s).isSome)

/-- Printer states (R148). -/
inductive MechState where
  | fault | busy | suspended | off | heatWait | ready
  deriving DecidableEq, Repr, Inhabited

def printState (s : State) : MechState :=
  if s.prc.fault then .fault
  else if s.prc.op.isSome || s.prc.abandoned.isSome then .busy
  else if s.prc.hold then .suspended
  else if s.mtc.print.state ≠ .running then .off
  else
    match nextPrintOp s with
    | some (.strike _) => if s.prc.heatHold then .heatWait else .ready
    | some .space | some .cr | some (.lf _) | some .bell | none => .ready

/-! ## The punch's section (R166, R170, R172) -/

/-- Punch states (R166). -/
def punchState (s : State) : MechState :=
  if s.puc.fault then .fault
  else if s.puc.op.isSome || s.puc.abandoned.isSome then .busy
  else if s.puc.hold || s.puc.tapeHold then .suspended
  else if s.mtc.punch.state ≠ .running then .off
  else .ready

def State.setPunchGrant (s : State) (g : Option PunchGrant) : State := { s with puc := { s.puc with grant := g } }

/-- The character the section takes next: of the record in TEXT, of the closing sequence in CLOSE. -/
def sectionChar (s : State) (g : PunchGrant) : Option Chr :=
  match g.phase with
  | .text =>
    match s.record g.index with
    | some r => if r.cursor.punch < r.length then some (readChar s r r.cursor.punch) else none
    | none => none
  | .close => g.closing.head?
  | .erase | .leader | .openShift | .trailer => none

/-- The operation of a repair step (R172). -/
def RepairStep.op (f : PunchFrame) : RepairStep → PunchOp
  | .back => .backspace
  | .erase => .punch 31
  | .figs => .punch 27
  | .again => .punch f.comb

/-- The next frame or FEED of the section, with no frame in hand: the operation, and the frame it begins. -/
def nextSection (s : State) (g : PunchGrant) : Option (PunchOp × Option PunchFrame) :=
  let framed (k : FrameKind) (b : Comb) : Option (PunchOp × Option PunchFrame) := some (.punch b, some ⟨k, b, 0, []⟩)
  match g.owed with
  | some b => framed .char b
  | none =>
    match g.phase with
    | .erase => if g.done < Config.eraseFrames then framed .erase 31 else none
    | .leader => if g.done < s.puc.cfg.leader then some (.feed, none) else none
    | .openShift => if g.done = 0 then framed .openShift 31 else none
    | .trailer => if g.done < s.puc.cfg.trailer then some (.feed, none) else none
    | .text | .close =>
      match sectionChar s g with
      | none => none
      | some c =>
        match translateChr s.ctr.table c with
        | none => none
        | some x =>
          match shiftBefore s.ctr.tape x with
          | some sh => framed (.shift sh x.comb) sh.comb
          | none => framed .char x.comb

/-- The next operation of the punch (R166): the next step of a repair, else the section's. -/
def nextPunchOp (s : State) : Option PunchOp :=
  match s.puc.grant with
  | none => none
  | some g =>
    match g.frame with
    | some f =>
      match f.steps with
      | x :: _ => some (x.op f)
      | [] => none
    | none => (nextSection s g).map (·.1)

def endPunchGrant (s : State) : State :=
  match s.puc.grant with
  | none => s
  | some g => endGrant (s.setPunchGrant none) .punch g.index

/-- A repair between two of its operations, in READY: a stop request waits for the frame (R171, log entry 20). -/
def midRepair (s : State) (g : PunchGrant) : Bool := g.frame.isSome && decide (punchState s = .ready)

/-- One step of the section that needs no operation: a stop, a skipped character, the end of a phase (R170, R171). -/
def punchStep (s : State) : Option State :=
  match s.puc.grant, s.puc.op with
  | none, _ => none
  | some _, some _ => none
  | some g, none =>
    if stopAsked s .punch g.index then (if midRepair s g then none else some (endPunchGrant s))
    else if g.frame.isSome || (nextSection s g).isSome then none
    else
      let move (p : PunchPhase) (cs : List Chr) : Option State :=
        some (s.setPunchGrant (some { g with phase := p, done := 0, closing := cs }))
      let skipped : State := { s with puc := { s.puc with untranslatable := bump s.puc.untranslatable } }
      match g.phase with
      | .erase => move .leader []
      | .leader => move .openShift []
      | .openShift => move .text []
      | .text =>
        match s.record g.index with
        | none => none
        | some r =>
          if r.cursor.punch < r.length then some (advanceCursor skipped .punch g.index)
          else
            match r.state with
            | .opened => none
            | .closed | .cancelled => move .close ([13, 10] ++ s.puc.cfg.eom)
      | .close =>
        match g.closing with
        | [] => move .trailer []
        | _ :: cs => some (skipped.setPunchGrant (some { g with closing := cs }))
      | .trailer => some (completeDelivery (s.setPunchGrant none) .punch g.index)

def punchSweep : Nat → State → State
  | 0, s => s
  | n + 1, s =>
    match punchStep s with
    | none => s
    | some s => punchSweep n s

/-- The punch asks for its motor (R166, log entry 12). -/
def punchDemand (s : State) : Bool :=
  !s.puc.fault && !s.puc.hold && !s.puc.tapeHold && (s.puc.op.isSome || (nextPunchOp s).isSome)

/-- The punch enters FAULT: the grant ends, and the record is spoiled while PUNCH is still pending (R165, R172). -/
def punchFault (s : State) (c : PunchCause) : State :=
  let i := s.puc.grant.map (·.index)
  let s := { s with puc := { s.puc with fault := true, lastFault := some (c, i), op := none } }
  let s := match i with
    | none => s
    | some i =>
      endPunchGrant (s.onRecord i fun r =>
        if r.dests.out.punch then
          { r with flags := { r.flags with punchSpoiled := true }, cursor := { r.cursor with punch := 0 } }
        else r)
  s.latch .punchAttn

/-! ## What follows a step -/

/-- The motors follow their requests, DEMAND among them (R148, R166, R177, R178, R179). -/
def followMotors (s : State) : State :=
  let p := { s.mtc.print with demand := printDemand s }
  let u := { s.mtc.punch with demand := punchDemand s }
  { s with mtc := ⟨p.follow s.running, u.follow s.running⟩ }

/-- What the mechanisms do in the same step as any step that can concern them: the end of a yield timer, by the rise of
the length among others, then the parts of a grant that need no operation, the yield, the heat hold and the motor
requests. -/
def settle (s : State) : State :=
  let s := punchSweep sweepFuel (printSweep sweepFuel (stopYield s))
  let s := followYield s
  let s := printSweep sweepFuel s
  followMotors (followHeat s)

end Sys2Proof.Machine
end

