-- ==== Sys2Proof/Machine/LineOps.lean ====
section
/-! DEFINITION. The shared operations of the call supervisors: receiver modes, the end of a message and of a connection,
the entries into each supervisor state, and what a reported condition does (chapters 3, 5, 6). -/

namespace Sys2Proof.Machine

open Sys2Proof

/-! ## Receiver modes (R39) -/

/-- Entry to CONDITION takes the present level as the known condition; a receiver already in CONDITION stays as it is. -/
def enterCondition (s : State) (l : LineId) : State :=
  s.onRx l fun r =>
    if r.mode = .condition then r
    else { r with mode := .condition, sub := .hunting false false, last := r.pin, known := r.pin, watchSeen := false }

/-- Entry to FRAMING looks at the line: at mark it hunts, while the transmitter sends too (log entry 45), and at space it
is in the space condition. A receiver already in FRAMING stays as it is. -/
def Receiver.frame (r : Receiver) : Receiver :=
  if r.mode = .framing then r
  else
    { r with mode := .framing, last := r.pin, watchSeen := false
             sub := match r.pin with
               | .mark => .hunting false false
               | .space => .spaceHeld 0 }

/-- RUNNING private lines are in WATCH while the part is in STANDBY or WAKING (R39, R49). -/
def Receiver.watch (r : Receiver) : Receiver :=
  { r with mode := .watch, sub := .hunting false false, last := r.pin, watchSeen := false }

/-- The receiver is in the space condition. -/
def Receiver.inSpace (r : Receiver) : Bool :=
  decide (r.mode = .framing) &&
    match r.sub with
    | .spaceHeld _ => true
    | .hunting _ _ | .character _ | .blanked => false

/-! ## Records of the directory taken together -/

def mapRecs (f : Nat → Rec → Rec) : Nat → List (Option Rec) → List (Option Rec)
  | _, [] => []
  | i, none :: xs => none :: mapRecs f (i + 1) xs
  | i, some r :: xs => some (f i r) :: mapRecs f (i + 1) xs

def State.onRecords (s : State) (f : Nat → Rec → Rec) : State :=
  { s with stm := { s.stm with recs := mapRecs f 0 s.stm.recs } }

/-- Every record's live charge for the line becomes no (R92). -/
def dropCharges (s : State) (l : LineId) : State :=
  s.onRecords fun _ r => { r with charged := r.charged.set l false }

/-! ## The end of a message and of a connection -/

/-- The framer ends the line's message: held characters are released, the record closes, the phase is IDLE (R86). -/
def framerEnd (s : State) (l : LineId) : State :=
  let f := s.framerOf l
  match f.phase with
  | .idle => s
  | .head _ | .text => (closeLineMessage (storeLineChars s l f.held) l).setFramer l .idle

/-- A connection ends under the selector: the grant ends, the send cursors of the records begun return to 0 with one
attempt counted, and the cut-off sequence, the companion and the deferral flag go (R93). -/
def endSendOnConnection (s : State) (l : LineId) : State :=
  let d := sendOf l
  let i := (s.selector l).grant.map (·.index)
  let s := s.onRecords fun k r =>
    if i = some k ∨ (r.queued d = true ∧ 0 < r.cursor.get d) then
      { r with cursor := r.cursor.set d 0, attempts := r.attempts.set l (min (r.attempts.get l + 1) 255) }
    else r
  let s := s.onSelector l fun x => { x with grant := none, cutoff := none, companion := none, deferral := false }
  match i with
  | some i => endGrant s d i
  | none => s

/-- Drop what the supervisor and the exchange engine have placed with the selector (R104, R131, log entry 13). -/
def dropPlaced (s : State) (l : LineId) : State :=
  s.onSelector l fun x => { x with seqs := [], answerback := none }

/-- An exchange that has begun and is not over is ABANDONED; its engine's timers stop (R131). -/
def abandonExchange (s : State) (l : LineId) : State :=
  s.onExch l fun e =>
    if e.sub.isOpen then
      { e with sub := .abandoned, held := [], blankRun := 0, offerTimer := none, pageTimer := none, together := false }
    else e

/-- The connection ends, as one step (R99). -/
def connectionEnd (s : State) (l : LineId) : State :=
  let s := framerEnd s l
  let s := setReservation s l 0
  let s := endSendOnConnection s l
  let s := abandonExchange (dropPlaced s l) l
  s.onCsv l fun c => { c with exch := { c.exch with half := false }, ending := false, abActive := false }

/-! ## Entries into supervisor states -/

/-- Every timer of the supervisor stops but the prestarts, which run their full length (R103, R109). -/
def SupTimers.onlyPrestarts (t : SupTimers) : SupTimers :=
  { SupTimers.stopped with prepPrint := t.prepPrint, prepPunch := t.prepPunch }

/-- Enter a state with its timers stopped and no phase. -/
def State.enterSup (s : State) (l : LineId) (st : SupState) : State :=
  s.onCsv l fun c => { c with state := st, phase := .none, captured := [], timers := c.timers.onlyPrestarts }

/-- Enter GUARD (R110). -/
def enterGuard (s : State) (l : LineId) : State :=
  let s := s.enterSup l .guard
  let s := s.onTimers l fun t => { t with guard := some (s.csv l).values.guardMs }
  ((enterCondition s l).order l .space).latch (stateEvent l)

/-- The remote's space, or the timer, confirms the clear: the connection ends and the line enters GUARD (R109). -/
def clearConfirmed (s : State) (l : LineId) : State := enterGuard (connectionEnd s l) l

/-- Enter INCOMING, requesting a wake (R29, R101). -/
def enterIncoming (s : State) (l : LineId) : State :=
  let s := s.enterSup l .incoming
  let s := s.onTimers l fun t => { t with recognize := some (s.csv l).values.callRecognizeMs }
  s.requestWake (match l with | .A => .callA | .B => .callB)

/-- Enter FREE; a known mark then counts as a received mark (R101, R110). -/
def enterFree (s : State) (l : LineId) : State :=
  let s := (enterCondition (s.enterSup l .free) l).order l .space
  if (s.unit l).rx.known = .mark then enterIncoming s l else s

/-- Enter CLEARING with a reason; a receiver already in the space condition confirms it at once (R109). -/
def enterClearing (s : State) (l : LineId) (why : ClearReason) : State :=
  let s := s.enterSup l .clearing
  let s := s.onCsv l fun c =>
    { c with lastClear := why, abActive := false
             timers := { c.timers with clearConfirm := some c.values.clearConfirmMs } }
  let s := abandonExchange (dropPlaced s l) l
  let s := (s.order l .space).onRx l Receiver.frame
  if (s.unit l).rx.inSpace then clearConfirmed s l else s

/-- The call count after n (R97). -/
def nextCall (n : Nat) : Nat := if n < 65535 then n + 1 else 1

/-- A connection starts, as one step; the match length is as given, absent answerback or not (R98, log entry 58). -/
def connectionStart (s : State) (l : LineId) (dir : Direction) (digits : List Chr) (expected : Option (List Chr))
    (matchLen : Nat) : State :=
  let s := s.onCsv l fun c =>
    { c with callCount := nextCall c.callCount, direction := dir, digits := digits, expected := expected
             matchLen := matchLen, remote := none, progress := [], exch := .start, remaining := .unlimited
             ending := false, abActive := false }
  let s := s.onSelector l fun x => { x with deferral := false }
  dropCharges (s.forgetShifts l) l

/-- The call confirm: mark is ordered and CONFIRM_MS starts once the timebase is running (R103). -/
def confirmCall (s : State) (l : LineId) : State :=
  if s.running && decide ((s.csv l).state = .answering) then
    (s.order l .mark).onTimers l fun t => { t with confirm := some (s.csv l).values.confirmMs }
  else s

def Motor.setPrestart (m : Motor) (l : LineId) (v : Bool) : Motor :=
  match l with
  | .A => { m with prestartA := v }
  | .B => { m with prestartB := v }

/-- Prestart of the mechanisms in the line's routing entry (R103, R177). -/
def prestart (s : State) (l : LineId) : State :=
  let d := routeOf s (originOf l)
  let ms := (s.csv l).values.prepMs
  let s := if d.out.print then
      (s.onTimers l fun t => { t with prepPrint := some ms }).onMotor .print fun m => m.setPrestart l true
    else s
  if d.out.punch then
    (s.onTimers l fun t => { t with prepPunch := some ms }).onMotor .punch fun m => m.setPrestart l true
  else s

/-- Enter ANSWERING (R103). -/
def enterAnswering (s : State) (l : LineId) : State :=
  let s := connectionStart (s.enterSup l .answering) l .incoming [] none 0
  confirmCall (prestart s l) l

/-- The idle timer starts again on a connected line; with IDLE_TIMEOUT_S at 0 it stops (R106). -/
def restartIdle (s : State) (l : LineId) : State :=
  let c := s.csv l
  if c.state = .connected then
    s.onTimers l fun t =>
      { t with idle := if c.values.idleTimeoutS = 0 then none else some (1000 * c.values.idleTimeoutS) }
  else s

/-- The exchange engine waits for the offer, or to send it, with OFFER_WAIT_MS running (R123, R125). -/
def startOfferWait (s : State) (l : LineId) : State :=
  s.onExch l fun e => { e with offerTimer := some s.xcfg.offerWaitMs }

/-- Enter RUNNING (R117); under a standing space the fault timer starts at once. -/
def enterRunning (s : State) (l : LineId) : State :=
  let s := s.enterSup l .running
  let s := s.onCsv l fun c =>
    { c with callCount := nextCall c.callCount, direction := .none, remaining := .unlimited, ending := false
             abActive := false }
  let s := (setReservation s l 0).forgetShifts l
  let s := dropCharges (s.onSelector l fun x => { x with deferral := false }) l
  let s := s.order l .mark
  let s := s.onRx l fun r => if s.running then r.frame else r.watch
  if (s.unit l).rx.inSpace then s.onTimers l fun t => { t with fault := some Config.privateFaultMs } else s

/-- Enter FAULT: the connection ends, and a mark already present starts the recovery timer (R117). -/
def enterFault (s : State) (l : LineId) : State :=
  let s := (connectionEnd s l).enterSup l .fault
  let s := enterCondition (s.order l .mark) l
  let s := if (s.unit l).rx.known = .mark then
      s.onTimers l fun t => { t with recovery := some Config.privateRecoveryMs }
    else s
  s.latch (stateEvent l)

/-- Enter DISABLED: shift records UNKNOWN, receiver off, a character in flight abandoned (R34). -/
def enterDisabled (s : State) (l : LineId) : State :=
  let s := (s.abandonTx l).forgetShifts l
  let s := s.onSelector l fun x => { x with companion := none, flight := none }
  let s := s.onRx l fun r => { r with mode := .off, sub := .hunting false false, watchSeen := false }
  s.enterSup l .disabled

/-! ## Reported conditions (R40, R42, R101, R102, R105, R109, R112, R117) -/

def startClear (s : State) (l : LineId) : State :=
  s.onTimers l fun t => { t with clearRecognize := some (s.csv l).values.clearRecognizeMs }
def stopClear (s : State) (l : LineId) : State := s.onTimers l fun t => { t with clearRecognize := none }

/-- SPACE_BEGIN reported to the supervisor. -/
def reportSpace (s : State) (l : LineId) : State :=
  match (s.csv l).state with
  | .incoming => s.enterSup l .free
  | .answering | .refusing | .selecting | .awaitConnect | .connected => startClear s l
  | .calling => if (s.csv l).phase = .proceedWait then startClear s l else s
  | .clearing => clearConfirmed s l
  | .running => s.onTimers l fun t => { t with fault := some Config.privateFaultMs }
  | .fault => s.onTimers l fun t => { t with recovery := none }
  | .disabled | .free | .guard => s

/-- The exchange's call confirmation: PROCEED_S starts (R112). -/
def callConfirmed (s : State) (l : LineId) : State :=
  s.onCsv l fun c =>
    { c with phase := .proceedWait
             timers := { c.timers with callConfirm := none, proceed := some (1000 * c.values.proceedS) } }

/-- MARK_RESUMED reported to the supervisor. -/
def reportMark (s : State) (l : LineId) : State :=
  match (s.csv l).state with
  | .free => enterIncoming s l
  | .answering | .refusing | .selecting | .awaitConnect | .connected => stopClear s l
  | .calling => if (s.csv l).phase = .confirmWait then callConfirmed s l else stopClear s l
  | .running => s.onTimers l fun t => { t with fault := none }
  | .fault => s.onTimers l fun t => { t with recovery := some Config.privateRecoveryMs }
  | .disabled | .incoming | .clearing | .guard => s

def report (s : State) (l : LineId) : Level → State
  | .space => reportSpace s l
  | .mark => reportMark s l

/-- The line enters FRAMING, reporting SPACE_BEGIN at once on a line at space (R39). -/
def enterFraming (s : State) (l : LineId) : State :=
  if (s.unit l).rx.mode = .framing then s
  else
    let s := s.onRx l Receiver.frame
    if (s.unit l).rx.inSpace then reportSpace s l else s

/-- Enter CONNECTED (R103, R114). -/
def enterConnected (s : State) (l : LineId) (answering : Bool) : State :=
  let keep := (s.csv l).timers.clearRecognize
  let s := s.enterSup l .connected
  let s := restartIdle s l
  if answering then
    let s := startOfferWait (s.onExch l fun e => { e with sub := .offerWait }) l
    enterFraming (s.latch (stateEvent l)) l
  else
    let s := s.onTimers l fun t => { t with clearRecognize := keep }
    let s := if (s.csv l).exch.sub = .offerWait then startOfferWait s l else s
    s.latch (stateEvent l)

end Sys2Proof.Machine
end

