-- ==== Sys2Proof/Machine/TrafficOps.lean ====
section
/-! DEFINITION. What a received combination does: the incoming framer, the consumers of characters, who-are-you requests,
the station exchange, and the handling by kind (chapters 1, 5, 6, 7). -/

namespace Sys2Proof.Machine

open Sys2Proof

/-! ## The incoming framer (R82 to R86) -/

/-- The abilities agreed on the connection; a private line agrees none (R117, R129). -/
def agreedOn (s : State) (l : LineId) : Abilities :=
  if (s.csv l).state = .running then ⟨false, false, false, false⟩ else (s.csv l).exch.agreed

/-- A head stage applies (R83). -/
def stageApplies (s : State) (l : LineId) : HeadStage → Bool
  | .som => !(s.framingOf l).som.isEmpty
  | .urgent => (agreedOn s l).urgent
  | .number => (agreedOn s l).numbering

/-- What became of a stage's held sequence. -/
inductive StageResult where
  | hold | success | fail
  deriving DecidableEq, Repr

/-- A held sequence against a fixed pattern; an errored character matches no pattern (R83). -/
def matchText (pattern : List Chr) (held : List RxChar) : StageResult :=
  if held.any (·.errored) then .fail
  else if held.map (·.chr) = pattern then .success
  else if (held.map (·.chr)).isPrefixOf pattern then .hold
  else .fail

/-- The value of a string of digits. -/
def digitsValue (ds : List Chr) : Nat := ds.foldl (fun n d => 10 * n + (d.toNat - 48)) 0

/-- A held sequence against the number line: four digits of value 1 to 9999, CR, LF. Four digits of value 0 begin no
number line, so the fourth 0 fails (R83, R84). -/
def matchNumber (held : List RxChar) : StageResult :=
  let cs := held.map (·.chr)
  let ds := cs.take 4
  let valued := decide (cs.length < 4) || decide (1 ≤ digitsValue ds)
  if held.any (·.errored) then .fail
  else if ds.all digitChr && valued && (cs.drop 4).isPrefixOf [13, 10] then
    (if cs.length = 6 then .success else .hold)
  else .fail

def matchStage (s : State) (l : LineId) (held : List RxChar) : HeadStage → StageResult
  | .som => matchText (s.framingOf l).som held
  | .urgent => matchText [7, 7, 7] held
  | .number => matchNumber held

/-- The effect of a stage that succeeds on the framer's record (R83, R84). -/
def stageEffect (s : State) (l : LineId) (held : List RxChar) : HeadStage → State
  | .som => s
  | .urgent =>
    match s.stm.lineLink.get l with
    | some i => s.onRecord i fun r => { r with urgent := true }
    | none => s
  | .number =>
    match s.stm.lineLink.get l with
    | some i => s.onRecord i fun r => { r with remoteNumber := some (digitsValue ((held.map (·.chr)).take 4)) }
    | none => s

/-- Release from the front until what remains is a prefix of the end sequence or nothing (R85). -/
def releaseFront (eom : List Chr) : List RxChar → List RxChar × List RxChar
  | [] => ([], [])
  | x :: xs =>
    match matchText eom (x :: xs) with
    | .hold | .success => ([], x :: xs)
    | .fail =>
      let (out, rest) := releaseFront eom xs
      (x :: out, rest)

/-- One character at the framer: the state, and the characters it offers again as though newly received. -/
def framerChar (s : State) (l : LineId) (x : RxChar) : State × List RxChar :=
  let f := s.framerOf l
  match f.phase with
  | .idle =>
    let s := openLineRecord s l
    (s.onFramer l fun f => { f with phase := .head [.som, .urgent, .number], held := [] }, [x])
  | .head [] => (s.onFramer l fun f => { f with phase := .text, held := [] }, [x])
  | .head (st :: rest) =>
    let next : FramerPhase := if rest = [] then .text else .head rest
    if !stageApplies s l st then (s.onFramer l fun f => { f with phase := next }, [x])
    else
      let held := f.held ++ [x]
      match matchStage s l held st with
      | .hold => (s.onFramer l fun f => { f with held := held }, [])
      | .success => ((stageEffect s l held st).onFramer l fun f => { f with phase := next, held := [] }, [])
      | .fail => (s.onFramer l fun f => { f with phase := next, held := [] }, held)
  | .text =>
    let eom := (s.framingOf l).eom
    let held := f.held ++ [x]
    match matchText eom held with
    | .success => ((closeLineMessage s l).setFramer l .idle, [])
    | .hold => (s.onFramer l fun f => { f with held := held }, [])
    | .fail =>
      let (out, rest) := releaseFront eom held
      (storeLineChars (s.onFramer l fun f => { f with held := rest }) l out, [])

/-- A discard episode begins between two states (R60). -/
def episodeBegins (before after : State) (l : LineId) : Bool := !before.stm.episode.get l && after.stm.episode.get l

/-- The framer works through characters in order; the answer tells whether a discard episode has begun. -/
def framerRun : Nat → State → LineId → List RxChar → State × Bool
  | 0, s, _, _ => (s, false)
  | _ + 1, s, _, [] => (s, false)
  | n + 1, s, l, x :: xs =>
    let (s', again) := framerChar s l x
    let (t, began) := framerRun n s' l (again ++ xs)
    (t, episodeBegins s s' l || began)

/-- The store asks a CONNECTED line's supervisor to clear for the episode that has begun (R60, R107). The supervisor acts
once the failing character has been worked through, so that it is counted before the line's message can end. -/
def clearOnFull (s : State) (l : LineId) : State :=
  if s.stm.cfg.clearOnFull && decide ((s.csv l).state = .connected) then enterClearing s l .storeFull else s

/-- The gap timer runs on a private line while its framer is not IDLE (R86). -/
def restartGap (s : State) (l : LineId) : State :=
  let g := (s.framingOf l).gapS
  s.onFramer l fun f =>
    { f with gap := if (s.csv l).state = .running ∧ f.phase ≠ .idle ∧ g ≠ 0 then some (1000 * g) else none }

/-- Enough for a character to pass every stage with eight held before it. -/
def framerFuel : Nat := 200

/-- A character delivered to the framer (R60, R82). -/
def framerTake (s : State) (l : LineId) (x : RxChar) : State :=
  let (t, began) := framerRun framerFuel s l [x]
  restartGap (if began then clearOnFull t l else t) l

/-! ## Sequences placed with the selector (R88, R113, R114, R122) -/

def placeSeq (s : State) (l : LineId) (q : TxSeq) : State := s.onSelector l fun x => { x with seqs := x.seqs ++ [q] }

/-- The supervisor's own who-are-you (R108, R114). -/
def placeWru (s : State) (l : LineId) : State :=
  placeSeq (s.onCsv l fun c => { c with phase := .asking, timers := { c.timers with quiet := none } }) l
    ⟨.wru, [.chr 5]⟩

/-- Enter SELECTING, placing the digits and SELECT_END (R112, R113). -/
def enterSelecting (s : State) (l : LineId) : State :=
  let keep := (s.csv l).timers.clearRecognize
  let s := (s.enterSup l .selecting).onTimers l fun t => { t with clearRecognize := keep }
  placeSeq s l ⟨.selection, (s.csv l).digits.map .chr ++ [.selectEnd]⟩

/-- Enter AWAIT_CONNECT: CONNECT_S starts, and the engine watches for the offer (R114, R120). -/
def enterAwaitConnect (s : State) (l : LineId) : State :=
  let keep := (s.csv l).timers.clearRecognize
  let s := s.enterSup l .awaitConnect
  s.onCsv l fun c =>
    { c with phase := .progress false, exch := { c.exch with sub := .offerWait }
             timers := { c.timers with connect := some (1000 * c.values.connectS), clearRecognize := keep } }

/-- The capture of the remote's answerback begins (R115). -/
def beginCapture (s : State) (l : LineId) : State :=
  s.onCsv l fun c =>
    { c with phase := .capturing, captured := [], timers := { c.timers with capture := some Config.captureQuietMs } }

/-! ## Pages (R121, R122, R128) -/

/-- Own abilities: the stored set with OVERRIDE ON, else the straps (R121). -/
def ownAbilities (s : State) : Abilities :=
  if s.xcfg.override then s.xcfg.abilities
  else
    let k := s.cpe.straps
    ⟨k.getLsbD 0, k.getLsbD 1, k.getLsbD 2, k.getLsbD 3⟩

/-- A page's four combinations from its fields (R122). -/
def pageOf (number : Nat) (next ack : Bool) (content : Nat) : List Comb :=
  [BitVec.ofNat 5 (1 + 2 * number + 8 * next.toNat + 16 * ack.toNat), BitVec.ofNat 5 content,
    BitVec.ofNat 5 (content / 32), BitVec.ofNat 5 (content / 1024)]

/-- The content of a page, bits 5 to 19 (R122). -/
def pageContent : List Comb → Nat
  | [_, b, c, d] => b.toNat + 32 * c.toNat + 1024 * d.toNat
  | _ => 0

def pageNumber (p : List Comb) : Nat := (p.headD 0).toNat / 2 % 4
def pageAck (p : List Comb) : Bool := (p.headD 0).getLsbD 4

def abilitiesOf (content : Nat) : Abilities :=
  ⟨content.testBit 0, content.testBit 1, content.testBit 2, content.testBit 3⟩

def Abilities.content (a : Abilities) : Nat := bits a.flags

/-- Place a page as the last page sent, with PAGE_TIMER stopped until it has left (R122, R127). -/
def placePage (s : State) (l : LineId) (kind : SeqKind) (p : List Comb) (sub : ExchSub) : State :=
  placeSeq (s.onExch l fun e => { e with lastSent := some p, sub := sub, pageTimer := none, pageTwo := false }) l
    ⟨kind, p.map .raw⟩

/-- Build and place page 0 from the own abilities (R121, R124, R127). -/
def placePage0 (s : State) (l : LineId) (ack : Bool) (sub : ExchSub) : State :=
  let a := ownAbilities s
  placePage (s.onExch l fun e => { e with own := some a }) l .page (pageOf 0 true ack a.content) sub

/-- The ACCEPT of a page 1: min(MAX_ACCEPT, U - KEEP_RESERVE), floored at 0 and capped at 4,095 (R128). -/
def acceptOf (s : State) : Nat := min (min s.xcfg.maxAccept (unreserved s.stm - s.xcfg.keepReserve)) 4095

/-- Build and place page 1, setting the line's reservation in the same step (R53, R127, R128). -/
def placePage1 (s : State) (l : LineId) (sub : ExchSub) : State :=
  let a := acceptOf s
  let s := setReservation (s.onExch l fun e => { e with ownAccept := some a }) l a
  placePage s l .page (pageOf 1 false true a) sub

/-- Place the offer and enter OFFERED (R123). -/
def placeOffer (s : State) (l : LineId) : State :=
  placeSeq (s.onExch l fun e => { e with sub := .offered, offerTimer := none, held := [], pageTwo := false }) l
    ⟨.offer, [.raw 0, .raw 0, .raw 0]⟩

/-- An answering engine that waits to send the offer (R123). -/
def offerWaiting (s : State) (l : LineId) : Bool :=
  let c := s.csv l
  decide (c.exch.sub = .offerWait) && decide (c.direction = .incoming) && decide (c.state = .connected)

/-- The progress phase ends when an exchange is over before any character has arrived (R114). -/
def endSilentProgress (s : State) (l : LineId) : State :=
  if (s.csv l).state = .awaitConnect ∧ (s.csv l).phase = .progress false then placeWru s l else s

/-- The exchange completes: abilities, acceptance and duplex are agreed (R129). -/
def exchangeDone (s : State) (l : LineId) : State :=
  let s := s.onCsv l fun c =>
    let o := c.exch.own.getD ⟨false, false, false, false⟩
    let r := c.exch.remoteAb.getD ⟨false, false, false, false⟩
    let g : Abilities := ⟨o.limit && r.limit, o.urgent && r.urgent, o.numbering && r.numbering, o.half || r.half⟩
    { c with
      exch := { c.exch with sub := .done, agreed := g, half := g.half, pageTimer := none, offerTimer := none }
      remaining := if g.limit then .blocks (c.exch.remoteAccept.getD 0) else .unlimited }
  endSilentProgress (s.latch (stateEvent l)) l

/-! ## Answerbacks (R104) -/

/-- An answerback has ended on the transmitter, or every character of it was skipped: the engine is told (R104, R123). -/
def answerbackEnd (s : State) (l : LineId) : State :=
  let s := s.onSelector l fun x => { x with answerback := none }
  let s := s.onCsv l fun c => { c with abActive := false }
  if offerWaiting s l then placeOffer s l else s

/-- Who-are-you requests are answered in these states (R104). -/
def SupState.answers : SupState → Bool
  | .awaitConnect | .connected | .running => true
  | .disabled | .free | .incoming | .answering | .refusing | .calling | .selecting | .clearing | .guard
  | .fault => false

/-- A who-are-you request (R104, R123). -/
def wruRequest (s : State) (l : LineId) : State :=
  if (s.csv l).state.answers then
    let waiting := offerWaiting s l
    let s := if waiting then s.onExch l fun e => { e with offerTimer := none } else s
    if (s.csv l).abActive then s
    else
      match s.identity with
      | some t =>
        (s.onCsv l fun c => { c with abActive := true }).onSelector l fun x => { x with answerback := some ⟨t, true⟩ }
      | none => if waiting then placeOffer s l else s
  else s

/-! ## Captures (R108, R114, R115) -/

/-- The captured characters match the expected answerback (R115). -/
def captureMatches (c : Supervisor) : Bool :=
  match c.expected with
  | none => true
  | some e =>
    decide (c.matchLen ≤ c.captured.length) && decide (c.captured.take c.matchLen = (e.take c.matchLen).map (⟨·, false⟩))

/-- The capture ends and decides the call or its end (R108, R114, R115). -/
def captureEnd (s : State) (l : LineId) : State :=
  let c := s.csv l
  let ok := captureMatches c
  let s := s.onCsv l fun c =>
    { c with remote := if c.captured = [] then none else some (c.captured.map (·.chr))
             phase := .none, captured := [], timers := { c.timers with capture := none } }
  let s := if ok then s else s.latch .wrongStation
  match c.state with
  | .awaitConnect => if ok then enterConnected s l false else enterClearing s l .wrongStation
  | .connected => enterClearing s l .done
  | .disabled | .free | .incoming | .answering | .refusing | .calling | .selecting | .clearing | .guard | .running
  | .fault => s

/-- After a capture that its 20th character has ended, no one takes the characters of the clear that it began (R115, log
entry 54). -/
def captureFull (s : State) (l : LineId) : State :=
  s.onCsv l fun c => { c with phase := if c.state = .clearing then .captureFull else c.phase }

/-- A character kept by the capture, which ends at the 20th (R115). -/
def captureChar (s : State) (l : LineId) (x : RxChar) : State :=
  let s := s.onCsv l fun c =>
    { c with captured := c.captured ++ [x], timers := { c.timers with capture := some Config.captureQuietMs } }
  if Config.captureMax ≤ (s.csv l).captured.length then captureFull (captureEnd s l) l else s

/-- A character added to the call-progress text (R114). -/
def progressChar (s : State) (l : LineId) (x : RxChar) : State :=
  s.onCsv l fun c =>
    { c with progress := if c.progress.length < Config.progressMax then c.progress ++ [x.chr] else c.progress
             phase := .progress true, timers := { c.timers with quiet := some Config.progressQuietMs } }

/-- The line's current consumer takes a delivered character, or it is dropped (R7, R8, R82, R112 to R115). -/
def deliver (s : State) (l : LineId) (x : RxChar) : State :=
  let c := s.csv l
  match c.state with
  | .connected => if c.phase = .capturing then captureChar s l x else framerTake s l x
  | .clearing => if c.phase = .captureFull then s else framerTake s l x
  | .running => framerTake s l x
  | .awaitConnect =>
    match c.phase with
    | .progress _ => progressChar s l x
    | .capturing => captureChar s l x
    | .none | .confirmWait | .proceedWait | .asking | .captureFull => s
  | .disabled | .free | .incoming | .answering | .refusing | .calling | .selecting | .guard | .fault => s

/-! ## Handling by kind (R7 to R10, R124) -/

/-- A calling engine in OFFER_WAIT counts BLANKs, through the whole of AWAIT_CONNECT (R124, log entry 59). -/
def blankCounted (s : State) (l : LineId) : Bool :=
  let c := s.csv l
  decide (c.exch.sub = .offerWait) && decide (c.direction = .outgoing)
    && (decide (c.state = .awaitConnect) || decide (c.state = .connected))

/-- A BLANK indication: the third in a row makes a calling engine place its page 0 (R9, R124). -/
def blankIndication (s : State) (l : LineId) : State :=
  if blankCounted s l then
    let n := (s.csv l).exch.blankRun + 1
    if n < 3 then s.onExch l fun e => { e with blankRun := n }
    else placePage0 (s.onExch l fun e => { e with blankRun := 0, offerTimer := none, held := [] }) l false .awaitPage0
  else s

/-- Any other combination ends the run of BLANKs (R124). -/
def endBlankRun (s : State) (l : LineId) : State := s.onExch l fun e => { e with blankRun := 0 }

def countUndefined (s : State) (l : LineId) : State :=
  s.onStats l fun x => { x with undefinedCount := bump x.undefinedCount }

/-- PROCEED and SELECT_END are indications in these states (R10). -/
def SupState.settingUp : SupState → Bool
  | .calling | .selecting | .awaitConnect => true
  | .disabled | .free | .incoming | .answering | .refusing | .connected | .clearing | .guard | .running
  | .fault => false

/-- A PROCEED indication takes the second phase of CALLING to SELECTING (R112). -/
def proceedIndication (s : State) (l : LineId) : State :=
  if (s.csv l).state = .calling ∧ (s.csv l).phase = .proceedWait then enterSelecting s l else s

/-- A combination translated under the receive shift record and handled by its kind (R7, R8, R9, R10, R13). -/
def translateReceived (s : State) (l : LineId) (comb : Comb) (errored : Bool) : State :=
  if errored then deliver (endBlankRun s l) l ⟨s.ctr.substitute, true⟩
  else
    let e := readComb s.ctr.table (s.ctr.rx.get l) comb
    match e.kind with
    | .ltrs => (endBlankRun s l).setRxShift l (.held .letters)
    | .figs => (endBlankRun s l).setRxShift l (.held .figures)
    | .char =>
      let s := deliver (endBlankRun s l) l ⟨e.chr, false⟩
      if e.chr = 32 ∧ (s.unit l).cfg.usos = true then s.setRxShift l (.held .letters) else s
    | .bell => deliver (endBlankRun s l) l ⟨7, false⟩
    | .wru => wruRequest (endBlankRun s l) l
    | .none => if comb = 0 then blankIndication s l else countUndefined (endBlankRun s l) l
    | .proceed =>
      let s := endBlankRun s l
      if (s.csv l).state.settingUp then proceedIndication s l else countUndefined s l
    | .selectEnd =>
      let s := endBlankRun s l
      if (s.csv l).state.settingUp then s else countUndefined s l

/-! ## The exchange engine (R126, R127, R130) -/

/-- The exchange ends as PLAIN, and the combinations of any page not taken are handed back in order (R130). -/
def exchangePlain (s : State) (l : LineId) (why : PlainCause) (last : Option (Comb × Bool)) : State :=
  let held := (s.csv l).exch.held.map fun c => (c, false)
  let s := s.onExch l fun e =>
    { e with sub := .plain, cause := why, offerTimer := none, pageTimer := none, blankRun := 0, pageTwo := false
             held := [] }
  let s := (setReservation s l 0).latch (stateEvent l)
  let s := endSilentProgress s l
  (held ++ last.toList).foldl (fun s c => translateReceived s l c.1 c.2) s

/-- The page number and ACK awaited (R127). -/
def awaited : ExchSub → Nat × Bool
  | .offered => (0, false)
  | .awaitPage0 => (0, true)
  | .awaitPage1 => (1, true)
  | .awaitClose => (3, true)
  | .none | .offerWait | .closing | .done | .plain | .abandoned => (0, false)

/-- The engine's own offer or page is still on its way (R122, R127). -/
def sendingPage (s : State) (l : LineId) : Bool :=
  (s.selector l).seqs.any fun q => decide (q.kind = .offer) || decide (q.kind = .page)

/-- PAGE_TIMER starts, unless the engine's own sequence is still on its way (R123, R126, R127). -/
def startPageTimer (s : State) (l : LineId) : State :=
  if sendingPage s l then s else s.onExch l fun e => { e with pageTimer := some s.xcfg.pageTimer.ms }

/-- What the engine does with a page taken (R127). -/
def actOnPage (s : State) (l : LineId) (p : List Comb) : State :=
  match (s.csv l).exch.sub with
  | .offered =>
    placePage0 (s.onExch l fun e => { e with remoteAb := some (abilitiesOf (pageContent p)) }) l true .awaitPage1
  | .awaitPage0 =>
    placePage1 (s.onExch l fun e => { e with remoteAb := some (abilitiesOf (pageContent p)) }) l .awaitPage1
  | .awaitPage1 =>
    let s := s.onExch l fun e => { e with remoteAccept := some (pageContent p % 4096) }
    if (s.csv l).direction = .incoming then placePage1 s l .awaitClose
    else placePage s l .close (pageOf 3 false true 0) .closing
  | .awaitClose => exchangeDone s l
  | .none | .offerWait | .closing | .done | .plain | .abandoned => s

/-- A complete page is checked against the page awaited, its number first (R126, log entry 50). -/
def checkPage (s : State) (l : LineId) (p : List Comb) : State :=
  let e := (s.csv l).exch
  let w := awaited e.sub
  let n := pageNumber p
  let last := (p[3]?).map fun c => (c, false)
  let back := s.onExch l fun e => { e with held := p.take 3 }
  if n ≠ w.1 ∧ (n ≠ 2 ∨ e.pageTwo = true) then exchangePlain back l .wrongNumber last
  else if pageAck p ≠ w.2 then exchangePlain back l .wrongAck last
  else if n = w.1 then
    actOnPage (s.onExch l fun e => { e with lastReceived := some p, held := [], pageTwo := false, pageTimer := none })
      l p
  else startPageTimer (s.onExch l fun e => { e with held := [], pageTwo := true }) l

/-- A combination taken raw while paging (R11, R126). -/
def engineTake (s : State) (l : LineId) (comb : Comb) (errored : Bool) : State :=
  let e := (s.csv l).exch
  if errored then exchangePlain s l .framing (some (comb, true))
  else if e.held = [] ∧ comb.getLsbD 0 = false then exchangePlain s l .notAPage (some (comb, false))
  else
    let p := e.held ++ [comb]
    if p.length < 4 then startPageTimer (s.onExch l fun e => { e with held := p }) l
    else checkPage s l p

/-- The combination is a who-are-you under the receive shift record (R7, R10). -/
def readsWru (s : State) (l : LineId) (comb : Comb) : Bool :=
  decide ((readComb s.ctr.table (s.ctr.rx.get l) comb).kind = .wru)

/-- The character whose stop sample was due at the expiry has been taken, or was a space condition (R123, log entry 55). -/
def endTogether (s : State) (l : LineId) : State := s.onExch l fun e => { e with together := false }

/-- A combination from the receiver: raw to a paging engine, else translated (R7, R8, R11). The who-are-you that came with
the expiry on which the offer was placed is still a request, and its answerback follows the offer (R123, log entry 55). -/
def receiveComb (s : State) (l : LineId) (comb : Comb) (errored : Bool) : State :=
  let together := (s.csv l).exch.together
  let s := endTogether s l
  if (s.csv l).exch.sub.isPaging then
    if together && !errored && readsWru s l comb then wruRequest s l else engineTake s l comb errored
  else translateReceived s l comb errored

end Sys2Proof.Machine
end

