-- ==== Sys2Proof/Machine/SelectOps.lean ====
section
/-! DEFINITION. The transmit selector of a line (R87 to R93): what it hands next, what it skips, the ends of sequences,
answerbacks and grants, and the choice of a record to send. -/

namespace Sys2Proof.Machine

open Sys2Proof

/-- A character or companion on the transmitter that belongs to the record holding the grant. -/
def Flight.ofRecord : Flight → Bool
  | .recordLead | .recordText | .recordTail => true
  | .seq | .answerback | .cutoff => false

/-- The line character that a stop request lets complete is one of the record's own (R63, R92, log entry 56). -/
def recordUnderWay (x : Selector) : Bool :=
  (match x.flight with
    | some f => f.ofRecord
    | none => false)
  || (match x.companion with
    | some c => c.flight.ofRecord
    | none => false)

/-- A record character is handed only on a ready line that is not held back by turnaround (R88). -/
def mayHandRecord (s : State) (l : LineId) : Bool := lineReady s l && !(halfDuplex s l && receiveBusy s l)

/-- CR, LF and the line's EOM (R87, R92). -/
def closing (s : State) (l : LineId) : List Chr := [13, 10] ++ (s.framingOf l).eom

/-- One block less of acceptance, floored at 0 (R92). -/
def chargeOne (s : State) (l : LineId) : State :=
  s.onCsv l fun c =>
    { c with remaining := match c.remaining with
        | .unlimited => .unlimited
        | .blocks n => .blocks (n - 1) }

/-- The send cursor moves past one character, a live record being charged at the 33rd, 65th and so on (R92). -/
def advanceSend (s : State) (l : LineId) (g : SendGrant) : State :=
  let d := sendOf l
  match s.record g.index with
  | none => s
  | some r =>
    let n := r.cursor.get d
    let s := advanceCursor s d g.index
    if g.live ∧ 0 < n ∧ n % 32 = 0 then chargeOne s l else s

def State.onSend (s : State) (l : LineId) (f : SendGrant → SendGrant) : State :=
  s.onSelector l fun x => { x with grant := x.grant.map f }

/-- The grant ends by a stop request; a message begun on a connection that goes on is owed its cut-off sequence (R63,
R92). -/
def stopSend (s : State) (l : LineId) (g : SendGrant) : State :=
  let owed := g.handed && lineReady s l
  let s := s.onSelector l fun x => { x with grant := none, cutoff := if owed then some (closing s l) else x.cutoff }
  endGrant s (sendOf l) g.index

/-- What the end of a placed sequence brings (R108, R113, R114, R122, R123, R127). -/
def seqDone (s : State) (l : LineId) : SeqKind → State
  | .selection => if (s.csv l).state = .selecting then enterAwaitConnect s l else s
  | .wru => if (s.csv l).phase = .asking then beginCapture s l else s
  | .offer | .page => if (s.csv l).exch.sub.isPaging then startPageTimer s l else s
  | .close => if (s.csv l).exch.sub = .closing then exchangeDone s l else s

/-- The next character of the record holding the grant, with the part it belongs to (R87). -/
def grantChar (s : State) (l : LineId) (g : SendGrant) : Option (Chr × Flight) :=
  match g.lead, g.tail with
  | c :: _, _ => some (c, .recordLead)
  | [], some (c :: _) => some (c, .recordTail)
  | [], some [] => none
  | [], none =>
    match s.record g.index with
    | none => none
    | some r =>
      if r.cursor.get (sendOf l) < r.length then some (readChar s r (r.cursor.get (sendOf l)), .recordText) else none

/-- What the selector offers next when no companion is owed: the item and what it belongs to (R88). -/
def nextItem (s : State) (l : LineId) : Option (TxItem × Flight) :=
  let x := s.selector l
  match x.seqs with
  | q :: _ => q.items.head?.map (·, .seq)
  | [] =>
    match x.answerback with
    | some a => a.rest.head?.map (.chr ·, .answerback)
    | none =>
      match x.cutoff with
      | some cs => cs.head?.map (.chr ·, .cutoff)
      | none =>
        match x.grant with
        | some g => if mayHandRecord s l then (grantChar s l g).map fun c => (.chr c.1, c.2) else none
        | none => none

/-- The item leaves its source: handed, or skipped (R6, R62, R87). -/
def consumeItem (s : State) (l : LineId) : Flight → State
  | .seq => s.onSelector l fun x =>
      { x with seqs := match x.seqs with
          | [] => []
          | q :: qs => { q with items := q.items.tail } :: qs }
  | .answerback => s.onSelector l fun x => { x with answerback := x.answerback.map fun a => { a with rest := a.rest.tail } }
  | .cutoff => s.onSelector l fun x => { x with cutoff := x.cutoff.map List.tail }
  | .recordLead => s.onSend l fun g => { g with lead := g.lead.tail }
  | .recordTail => s.onSend l fun g => { g with tail := g.tail.map List.tail }
  | .recordText =>
    match (s.selector l).grant with
    | some g => advanceSend s l g
    | none => s

/-- The item has been handed to the transmitter (R92). -/
def handItem (s : State) (l : LineId) (f : Flight) : State :=
  let s := consumeItem s l f
  if f.ofRecord then s.onSend l fun g => { g with handed := true } else s

def countUntranslatable (s : State) (l : LineId) : State :=
  s.onStats l fun x => { x with untranslatable := bump x.untranslatable }

/-- One step of the selector that hands nothing (log entry 17): a stop, the end of a sequence, answerback, cut-off or
grant, the passage from text to the closing parts, a skipped character. An answerback whose characters are all skipped ends
at once, with no LTRS sent and the transmit record as it was (DESIGN CHOICE, log entry 66: R12 and R104 both speak of it). -/
def sendStep (s : State) (l : LineId) : Option State :=
  let x := s.selector l
  let busy := x.flight.isSome || x.companion.isSome
  let stop : Option State :=
    match x.grant with
    | some g =>
      if stopAsked s (sendOf l) g.index && !recordUnderWay x then some (stopSend s l g) else none
    | none => none
  let seqEnd : Option State :=
    match x.seqs with
    | ⟨k, []⟩ :: qs => some (seqDone (s.setSelector l { x with seqs := qs }) l k)
    | ⟨_, _ :: _⟩ :: _ => none
    | [] => none
  let answerEnd : Option State :=
    match x.answerback with
    | some ⟨[], _⟩ => some (answerbackEnd s l)
    | some ⟨_ :: _, _⟩ => none
    | none => none
  let cutoffEnd : Option State := if x.cutoff = some [] then some (s.setSelector l { x with cutoff := none }) else none
  let grantEnd : Option State :=
    match x.grant with
    | none => none
    | some g =>
      match g.lead, g.tail with
      | [], some [] => some (completeDelivery (s.setSelector l { x with grant := none }) (sendOf l) g.index)
      | [], none =>
        match s.record g.index with
        | none => none
        | some r =>
          if r.cursor.get (sendOf l) < r.length then none
          else if r.state = .opened then some (endGrant (s.setSelector l { x with grant := none }) (sendOf l) g.index)
          else some (s.onSend l fun g => { g with tail := some (closing s l) })
      | _ :: _, _ => none
      | [], some (_ :: _) => none
  let skip : Option State :=
    if (s.unit l).tx.ordered = .mark then
      match nextItem s l with
      | none => none
      | some (i, f) =>
        if (translateItem s.ctr.table i).isNone then some (consumeItem (countUntranslatable s l) l f) else none
    else none
  match stop with
  | some s => some s
  | none => if busy then none else seqEnd <|> answerEnd <|> cutoffEnd <|> grantEnd <|> skip

def sendSweep : Nat → State → LineId → State
  | 0, s, _ => s
  | n + 1, s, l =>
    match sendStep s l with
    | none => s
    | some s => sendSweep n s l

/-- What follows a step on a line: the selector's part, then the mechanisms'. -/
def settleLine (s : State) (l : LineId) : State := settle (sendSweep sweepFuel s l)
def settleAll (s : State) : State := settle (sendSweep sweepFuel (sendSweep sweepFuel s .A) .B)

/-! ## Handing a combination (R12, R13, R88) -/

/-- An SP translated from an internal character acts on the transmit record with USOS on (R13). -/
def spaceSent (s : State) (l : LineId) (space : Bool) : State :=
  if space && (s.unit l).cfg.usos then s.setTxShift l (.held .letters) else s

/-- Hand a translated item, its shift combination first where the record does not hold the shift, or where the shift is
forced (R12). -/
def emit (s : State) (l : LineId) (x : Sending) (space force : Bool) (f : Flight) : Comb × State :=
  match (if force then x.need else shiftBefore (s.ctr.tx.get l) x) with
  | some sh =>
    (sh.comb, (s.setTxShift l (.held sh)).onSelector l fun y => { y with companion := some ⟨x.comb, space, f⟩ })
  | none => (x.comb, spaceSent (handItem s l f) l space)

/-- Some character of the text needs a shift (R12). -/
def needsShift (t : List CodeEntry) (cs : List Chr) : Bool :=
  cs.any fun c => match translateChr t c with
    | some x => x.need.isSome
    | none => false

/-- Hand the next character of an answerback: the first that needs a shift has it forced, and an answerback that needs
none begins with LTRS (R12, R104), unless all its characters are skipped (log entry 66). While no shift has been forced, whether one is needed is looked up at each character
(log entry 42). -/
def emitAnswerback (s : State) (l : LineId) (a : Answerback) (c : Chr) (x : Sending) : Comb × State :=
  let done (s : State) : State := s.onSelector l fun y => { y with answerback := y.answerback.map fun a =>
    { a with forced := false } }
  if a.forced && !needsShift s.ctr.table a.rest then
    (Shift.letters.comb, done (s.setTxShift l (.held .letters)))
  else if a.forced && x.need.isSome then emit (done s) l x (decide (c = 32)) true .answerback
  else emit s l x (decide (c = 32)) false .answerback

/-- The combination the selector hands now, what it belongs to, and the state after handing it (R88). -/
def handNext (s : State) (l : LineId) : Option (Comb × Flight × State) :=
  let x := s.selector l
  match x.companion with
  | some c =>
    some (c.comb, c.flight, spaceSent (handItem (s.setSelector l { x with companion := none }) l c.flight) l c.space)
  | none =>
    match nextItem s l with
    | none => none
    | some (i, f) =>
      match i, translateItem s.ctr.table i with
      | _, none => none
      | .raw b, some _ => some (b, f, handItem s l f)
      | .selectEnd, some y =>
        let r := emit s l y false false f
        some (r.1, f, r.2)
      | .chr c, some y =>
        let r := match f, x.answerback with
          | .answerback, some a => emitAnswerback s l a c y
          | .answerback, none | .seq, _ | .cutoff, _ | .recordLead, _ | .recordText, _ | .recordTail, _ =>
            emit s l y (decide (c = 32)) false f
        some (r.1, f, r.2)

/-! ## The choice of a record to send (R89 to R92) -/

/-- LIVE_x of a record. -/
def Rec.live (r : Rec) : LineId → Bool
  | .A => r.flags.liveA
  | .B => r.flags.liveB

/-- A live record of the line that has work (R89). -/
def liveWork (l : LineId) (r : Rec) : Bool :=
  r.live l &&
    match r.state with
    | .opened => decide (r.cursor.get (sendOf l) < r.length)
    | .closed => true
    | .cancelled => false

/-- The first live record with work; a record that SEND_x has left holds nothing back (R89, R90, log entry 57). -/
def firstLive (s : State) (l : LineId) : Option (Nat × Rec) := (queueOf s (sendOf l)).find? fun e => liveWork l e.2

/-- The line is RUNNING, or CONNECTED with its exchange over and sending allowed by its direction (R90). -/
def storedAllowed (s : State) (l : LineId) : Bool :=
  lineReady s l
    && (decide ((s.csv l).state = .running) || decide ((s.csv l).direction = .outgoing)
      || (s.framingOf l).sendOnIncoming)

/-- A record fits the remaining acceptance (R91). -/
def fits (a : Acceptance) (r : Rec) : Bool :=
  match a with
  | .unlimited => true
  | .blocks n => decide (blocksFor r.length ≤ n)

/-- The stored records a choice walks: CLOSED, without LIVE_x, in queue order (R91). -/
def storedQueue (s : State) (l : LineId) : List (Nat × Rec) :=
  (queueOf s (sendOf l)).filter fun e => decide (e.2.state = .closed) && !e.2.live l

def firstFit (s : State) (l : LineId) : Option (Nat × Rec) :=
  (storedQueue s l).find? fun e => fits (s.csv l).remaining e.2

/-- A choice passes over a record: the first of the walk does not fit (R91). -/
def passesOver (s : State) (l : LineId) : Bool :=
  match storedQueue s l with
  | [] => false
  | e :: _ => !fits (s.csv l).remaining e.2

/-- Nothing is sendable on the line (R91). -/
def nothingSendable (s : State) (l : LineId) : Bool :=
  let x := s.selector l
  x.grant.isNone && x.cutoff.isNone && !(lineReady s l && (firstLive s l).isSome)
    && !(storedAllowed s l && (firstFit s l).isSome)

/-- The head parts of a stored record: SOM, urgent marker, number line (R87). -/
def leadOf (s : State) (l : LineId) (r : Rec) : List Chr :=
  (s.framingOf l).som ++ (if r.urgent && (agreedOn s l).urgent then [7, 7, 7] else [])
    ++ (if (agreedOn s l).numbering then fourDigits r.number ++ [13, 10] else [])

/-- A live grant starts, with no character handed under it (R89, R92, log entry 49). -/
def grantLive (s : State) (l : LineId) (i : Nat) (r : Rec) : State :=
  let s := startGrant s (sendOf l) i
  let s := if r.charged.get l then s
    else chargeOne (s.onRecord i fun r => { r with charged := r.charged.set l true }) l
  s.onSelector l fun x => { x with grant := some ⟨i, true, [], none, false⟩ }

/-- A stored grant starts, charging the record's blocks (R90, R92). -/
def grantStored (s : State) (l : LineId) (i : Nat) (r : Rec) : State :=
  let s := startGrant s (sendOf l) i
  let s := s.onCsv l fun c =>
    { c with remaining := match c.remaining with
        | .unlimited => .unlimited
        | .blocks n => .blocks (n - blocksFor r.length) }
  s.onSelector l fun x => { x with grant := some ⟨i, false, leadOf s l r, none, false⟩ }

/-- The first choice of a connection that passes over a record latches SEND_DEFERRED (R91). -/
def defer (s : State) (l : LineId) : State :=
  if passesOver s l && !(s.selector l).deferral then
    (s.onSelector l fun x => { x with deferral := true }).latch .sendDeferred
  else s

/-- The stored grant waits for keyboard input to be idle in the direct mode of its line, and for turnaround (R90). -/
def storedHeldBack (s : State) (l : LineId) : Bool :=
  (decide (s.kbs.mode.line = some l) && !inputIdle s) || (halfDuplex s l && receiveBusy s l)

end Sys2Proof.Machine
end

