-- ==== Sys2Proof/Machine/KeyOps.lean ====
section
/-! DEFINITION. The shared operations of the keyboard scanner: refusals, carrying out actions against the keyboard record,
the key FIFO, debouncing and the repeat (chapter 8). -/

namespace Sys2Proof.Machine

open Sys2Proof

def State.onKbs (s : State) (f : Keyboard → Keyboard) : State := { s with kbs := f s.kbs }

/-- A refusal: bell, counter, cause, event (R137). -/
def refuseKey (s : State) (why : KeyRefusal) : State :=
  (s.onKbs fun k => { k with bell := some Config.bellMs, refusals := bump k.refusals, lastRefusal := why }).latch
    .keyRefused

/-- What the scanner opens a record with in the present mode (R76, R139). -/
def keySpec (s : State) : OpenSpec :=
  let d := routeOf s .keyboard
  match s.kbs.mode with
  | .localMode => ⟨s.kbs.urgentPending, d, false, false, false, none, none⟩
  | .directA => ⟨s.kbs.urgentPending, d.on .sendA, false, true, false, none, none⟩
  | .directB => ⟨s.kbs.urgentPending, d.on .sendB, false, false, true, none, none⟩

/-- A pending urgent mark also reaches an owed continuation, the next record the keyboard opens (R140, log entry 15). -/
def urgeOwed (s : State) : State :=
  if s.kbs.urgentPending then
    { s with stm := { s.stm with kbOwed := s.stm.kbOwed.map fun o => { o with urgent := true } } }
  else s

/-- Append one character to the keyboard record; none, with the store-full flag set, when the open or the append fails
(R139). The answer is the state and whether the character was stored. -/
def keyAppend (s : State) (c : Chr) : State × Bool :=
  let o := offerChar (urgeOwed s) .keyboard (keySpec s) c false
  let s := if o.opened then o.st.onKbs fun k => { k with urgentPending := false } else o.st
  if o.stored then (s, true) else (refuseKey (s.onKbs fun k => { k with storeFull := true }) .storeFull, false)

/-- Append characters in order until one fails (R140). -/
def keyAppendAll : State → List Chr → State
  | s, [] => s
  | s, c :: cs =>
    match keyAppend s c with
    | (s, true) => keyAppendAll s cs
    | (s, false) => s

/-- The keyboard's message ends: its record closes, and an owed continuation is dropped (R59, R140). -/
def keyMessageEnd (s : State) : State :=
  let s := match s.stm.kbLink with
    | some i => closeRecord s i true
    | none => s
  { s with stm := { s.stm with kbOwed := none } }

/-- A mode action (R141). -/
def keyMode (s : State) (m : KbMode) : State :=
  if m = s.kbs.mode then s else (keyMessageEnd s).onKbs fun k => { k with mode := m }

/-- Carry out one action whole (R139, R140, R141). -/
def carryOut (s : State) : KeyAction → State
  | .chr c => (keyAppend s c).1
  | .msgEnd => keyMessageEnd s
  | .hereIs =>
    match s.identity with
    | none => refuseKey s .noIdentity
    | some t => keyAppendAll s t
  | .wru => if s.kbs.mode = .localMode then refuseKey s .wrongMode else (keyAppend s 5).1
  | .urgent =>
    match s.stm.kbLink with
    | some i => s.onRecord i fun r => { r with urgent := true }
    | none => s.onKbs fun k => { k with urgentPending := true }
  | .mode m => keyMode s m

/-- Take actions from the head while the keyboard is not locked (R136, R138). -/
def drainKeys : Nat → State → State
  | 0, s => s
  | n + 1, s =>
    if kbLocked s then s
    else
      match s.kbs.fifo with
      | [] => s
      | a :: rest => drainKeys n (carryOut (s.onKbs fun k => { k with fifo := rest }) a)

/-- The FIFO holds at most 16 actions. -/
def drainFuel : Nat := 17

/-- An action formed joins the FIFO, or is refused; a mode action formed while locked is carried out at once (R136,
R138). -/
def formAction (s : State) (a : KeyAction) : State :=
  let now : Option KbMode :=
    match a with
    | .mode m => if kbLocked s then some m else none
    | .chr _ | .msgEnd | .hereIs | .wru | .urgent => none
  match now with
  | some m => drainKeys drainFuel ((keyMode s m).onKbs fun k => { k with inputAge := 0 })
  | none =>
    if Config.fifoDepth ≤ s.kbs.fifo.length then refuseKey s .fifoFull
    else drainKeys drainFuel (s.onKbs fun k => { k with fifo := k.fifo ++ [a], inputAge := 0 })

/-! ## Positions (R133, R135) -/

def keyEntry (k : Keyboard) (p : Nat) : KeyEntry := (k.keymap[p]?).getD ⟨.none, 0, 0⟩
def keyDown (k : Keyboard) (p : Nat) : Bool := ((k.keys[p]?).getD ⟨false, 0⟩).down

/-- A position of this kind is DOWN. -/
def anyDown (k : Keyboard) (kind : KeyKind) : Bool :=
  (List.range 64).any fun p => keyDown k p && decide ((keyEntry k p).kind = kind)

/-- The value of a CHAR entry in the present shift state (R135). -/
def charValue (k : Keyboard) (e : KeyEntry) : Chr := if anyDown k .shift then e.shifted else e.plain

/-- The action of an entry at a debounced down (R135). -/
def entryAction (k : Keyboard) (e : KeyEntry) : Option KeyAction :=
  match e.kind with
  | .char => if charValue k e = 0 then none else some (.chr (charValue k e))
  | .msgEnd => some .msgEnd
  | .hereIs => some .hereIs
  | .wruKey => some .wru
  | .urgent => some .urgent
  | .modeLocal => some (.mode .localMode)
  | .modeDirectA => some (.mode .directA)
  | .modeDirectB => some (.mode .directB)
  | .none | .shift | .repeatKey => none

/-- One scan of a position; a sample that agrees clears a count of any size (R133, log entry 60). -/
def scanKey (debounce : Nat) (x : KeyState) (closed : Bool) : KeyState :=
  if closed = x.down then ⟨x.down, 0⟩
  else if debounce ≤ x.count + 1 then ⟨closed, 0⟩
  else ⟨x.down, x.count + 1⟩

def scanKeys (debounce : Nat) (closed : BitVec 64) : Nat → List KeyState → List KeyState
  | _, [] => []
  | p, x :: xs => scanKey debounce x (closed.getLsbD p) :: scanKeys debounce closed (p + 1) xs

/-- The repeat's two conditions: the repeat key is DOWN with a CHAR entry, and a REPEAT key is DOWN (R135). -/
def repeatHolds (k : Keyboard) : Bool :=
  (match k.repeatKey with
    | some p => keyDown k p && decide ((keyEntry k p).kind = .char)
    | none => false)
  && anyDown k .repeatKey

/-- The timer starts when both conditions first hold and stops when one ends; a repeat that has stopped is spent until a
new down (R135, log entry 31). A scan's flips are looked at together (DEDUCED, log entry 69).
DESIGN CHOICE (unsafe, log entry 67): R135's list of stops does not name a SET_KEYMAP that takes the last DOWN REPEAT
position's entry away; that repeat is spent too, so a later SET_KEYMAP that makes a DOWN position REPEAT (R134) does not
start it again. -/
def followRepeat (k : Keyboard) : Keyboard :=
  if repeatHolds k then
    (if k.repeatTimer.isNone && !k.repeatSpent then { k with repeatTimer := some Config.repeatFirstMs } else k)
  else { k with repeatTimer := none, repeatSpent := k.repeatSpent || k.repeatTimer.isSome }

/-- The repeat key is DOWN. -/
def repeatKeyDown (k : Keyboard) : Bool :=
  match k.repeatKey with
  | some p => keyDown k p
  | none => false

/-- A debounced down of a position. Any CHAR key's down lets a stopped repeat start again, one that forms no action too
(R135, log entry 31). -/
def keyWentDown (s : State) (p : Nat) : State :=
  let e := keyEntry s.kbs p
  match entryAction s.kbs e with
  | none =>
    if e.kind = .char ∨ (e.kind = .repeatKey ∧ repeatKeyDown s.kbs = true) then
      s.onKbs fun k => { k with repeatSpent := false }
    else s
  | some a =>
    if e.kind = .char then
      formAction (s.onKbs fun k => { k with repeatKey := some p, repeatTimer := none, repeatSpent := false }) a
    else formAction s a

/-- The lock causes that hold, in the order of R138. -/
def lockCauses (s : State) : List Bool := [lockLineDown s, lockExchange s, lockTurnaround s, s.kbs.storeFull]

end Sys2Proof.Machine
end

