-- ==== Sys2Proof/Machine/ConsolePort.lean ====
section
/-! DEFINITION. The console port (R183, R185, R186): what a command answers, and what the port does with a complete command
transfer. -/

namespace Sys2Proof.Machine

open Sys2Proof

/-- What a command answers: the state after it, the status and the response payload (R183). -/
structure Reply where
  st : State
  status : Status
  payload : List Byte

/-- OK with a payload. -/
def Reply.ok (s : State) (p : List Byte) : Reply := ⟨s, .ok, p⟩
/-- A refusal: nothing changes. -/
def Reply.refuse (s : State) (st : Status) : Reply := ⟨s, st, []⟩

/-- A command whose payload `read` answers; BAD_ARGUMENT where it answers none (R183, R184). -/
def withArgs {α : Type} (read : List Byte → Option α) (p : List Byte) (s : State) (f : α → Reply) : Reply :=
  match read p with
  | none => .refuse s .badArgument
  | some a => f a

def State.onCpe (s : State) (f : Console → Console) : State := { s with cpe := f s.cpe }

/-- The response is made ready: the port is in RESPONSE and RDY is asserted (R185). -/
def Reply.ready (r : Reply) : State := r.st.onCpe fun c => { c with port := .response r.status r.payload }

/-- MISO is 0x00 on every byte of a command transfer (R183). -/
def State.zeros (s : State) (n : Nat) : State := s.onCpe fun c => { c with miso := List.replicate n 0 }

/-- A good command transfer (R29, R31, R185, R186): in EMPTY it is taken, executed at once in a running timebase state and
held otherwise; in EXECUTING and RESPONSE it is discarded with COMMAND_OVERRUN latched. -/
def takeGood (c : Command) (p : List Byte) (body : State → Reply) (s : State) : State :=
  let s := s.requestWake .console
  match s.cpe.port with
  | .empty => if s.running then (body s).ready else s.onCpe fun x => { x with port := .executing c p }
  | .executing _ _ | .response _ _ => s.latch .commandOverrun

/-- An incomplete or bad command transfer: BAD_COMMAND in EMPTY, discarded otherwise (R183, R185, R186). -/
def takeBad (s : State) : State :=
  let s := s.requestWake .console
  match s.cpe.port with
  | .empty => s.onCpe fun x => { x with port := .response .badCommand [] }
  | .executing _ _ | .response _ _ => s.latch .commandOverrun

/-- A console command's row: a complete command transfer of it with this payload (log entry 1). While RESETN is low the
port ignores it (R192). A payload that no length byte can announce makes the transfer bad (R183). -/
def consoleRow (c : Command) (body : List Byte → State → Reply) (p : List Byte) (s : State) : State :=
  if s.cpe.resetLow then s
  else
    let s := s.zeros (3 + p.length)
    if p.length ≤ maxPayload then takeGood c p (body p) s else takeBad s

end Sys2Proof.Machine
end

