-- ==== Sys2Proof/Machine/CodeTable.lean ====
section
/-! DEFINITION. SET_CODE_TABLE (chapter 1). -/

namespace Sys2Proof.Machine

open Sys2Proof

/-- SET_CODE_TABLE (R2, R3). -/
def cmdSetCodeTable (p : List Byte) (s : State) : Reply :=
  withArgs readCodeTable p s fun (sub, es) =>
    let t := loadEntries s.ctr.table es
    let c := if sub = 0 then s.ctr.substitute else sub.setWidth 7
    .ok (settleAll { s with ctr := { s.ctr with table := t, substitute := c } }) []

def execSetCodeTable (p : List Byte) (s : State) : Host.Outcome State Fault Refusal :=
  .next (consoleRow .setCodeTable cmdSetCodeTable p s)

end Sys2Proof.Machine
end

