-- ==== Sys2Proof/Machine/ExchangeRows.lean ====
section
/-! DEFINITION. The station exchange's command and timers (chapter 7). -/

namespace Sys2Proof.Machine

open Sys2Proof

/-- The four strap abilities as sampled (R121, R191). -/
def strapAbilities (s : State) : Abilities :=
  ⟨s.cpe.straps.getLsbD 0, s.cpe.straps.getLsbD 1, s.cpe.straps.getLsbD 2, s.cpe.straps.getLsbD 3⟩

/-- SET_EXCHANGE (R121). -/
def cmdSetExchange (p : List Byte) (s : State) : Reply :=
  withArgs readExchange p s fun x => .ok { s with xcfg := x } (eAbilities (strapAbilities s))

def execSetExchange (p : List Byte) (s : State) : Host.Outcome State Fault Refusal :=
  .next (consoleRow .setExchange cmdSetExchange p s)

/-- OFFER_WAIT_EXPIRY_ANSWERING; a stop sample that is due came with it (R123, log entry 55). -/
def offerWaitExpiryAnswering (l : LineId) (s : State) : State :=
  if offerWaiting s l = true ∧ isDue (s.csv l).exch.offerTimer = true then
    settleLine ((placeOffer s l).onExch l fun e => { e with together := (s.unit l).rx.stopDue }) l
  else s

def execOfferWaitExpiryAnswering (l : LineId) (s : State) : Host.Outcome State Fault Refusal :=
  .next (offerWaitExpiryAnswering l s)

/-- A calling engine is still in OFFER_WAIT in CONNECTED (R125). -/
def callerWaits (s : State) (l : LineId) : Bool :=
  let c := s.csv l
  decide (c.exch.sub = .offerWait) && decide (c.direction = .outgoing) && decide (c.state = .connected)

/-- OFFER_WAIT_EXPIRY_CALLING (R125, R130). -/
def offerWaitExpiryCalling (l : LineId) (s : State) : State :=
  if callerWaits s l = true ∧ isDue (s.csv l).exch.offerTimer = true then
    settleLine (exchangePlain s l .noOffer none) l
  else s

def execOfferWaitExpiryCalling (l : LineId) (s : State) : Host.Outcome State Fault Refusal :=
  .next (offerWaitExpiryCalling l s)

/-- PAGE_TIMER_EXPIRY (R126, R130). -/
def pageTimerExpiry (l : LineId) (s : State) : State :=
  if (s.csv l).exch.sub.isPaging = true ∧ isDue (s.csv l).exch.pageTimer = true then
    settleLine (exchangePlain s l .noPage none) l
  else s

def execPageTimerExpiry (l : LineId) (s : State) : Host.Outcome State Fault Refusal := .next (pageTimerExpiry l s)

end Sys2Proof.Machine
end

