-- ==== Sys2Proof/Machine/KeyboardRows.lean ====
section
/-! DEFINITION. The keyboard scanner's commands and steps (chapter 8). -/

namespace Sys2Proof.Machine

open Sys2Proof

/-! ## Commands -/

/-- SET_KEYMAP (R134, R135). What it does to a repeat whose REPEAT entry it takes away: log entry 67. -/
def cmdSetKeymap (p : List Byte) (s : State) : Reply :=
  withArgs readKeymap p s fun es =>
    .ok (s.onKbs fun k => followRepeat { k with keymap := es.foldl (fun t e => t.set e.1 e.2) k.keymap }) []

def execSetKeymap (p : List Byte) (s : State) : Host.Outcome State Fault Refusal :=
  .next (consoleRow .setKeymap cmdSetKeymap p s)

/-- SET_KEYBOARD (R143). -/
def cmdSetKeyboard (p : List Byte) (s : State) : Reply :=
  withArgs readKeyboard p s fun d => .ok (s.onKbs fun k => { k with debounce := d }) []

def execSetKeyboard (p : List Byte) (s : State) : Host.Outcome State Fault Refusal :=
  .next (consoleRow .setKeyboard cmdSetKeyboard p s)

/-- The positions whose debounced state is DOWN, in ascending order. -/
def downPositions (k : Keyboard) : List Nat := (List.range 64).filter (keyDown k)

def eAction (a : KeyAction) : List Byte := e1 a.code.1 ++ e1 a.code.2

/-- KEYBOARD_STATUS (R143). -/
def cmdKeyboardStatus (p : List Byte) (s : State) : Reply :=
  withArgs readNone p s fun _ =>
    let k := s.kbs
    .ok (s.onKbs fun k => { k with refusals := 0 })
      (e1 k.mode.code ++ e1 k.debounce ++ eBool (kbLocked s) ++ eBool (bellOut s) ++ eSet (lockCauses s)
        ++ e1 k.fifo.length ++ k.fifo.flatMap eAction ++ eOpt e1 s.stm.kbLink ++ eBool k.urgentPending
        ++ eBool k.storeFull ++ e2 k.inputAge ++ eList e1 (downPositions k) ++ eOpt e1 k.repeatKey
        ++ eBool k.repeatTimer.isSome ++ e2 k.refusals ++ e1 k.lastRefusal.code)

def execKeyboardStatus (p : List Byte) (s : State) : Host.Outcome State Fault Refusal :=
  .next (consoleRow .keyboardStatus cmdKeyboardStatus p s)

/-! ## Steps -/

/-- The ticks between two scans (R132). -/
def scanPeriod (s : State) : Nat := if s.running then 4 else 64

/-- The positions that go from UP to DOWN, in ascending order (R133). -/
def newDowns (before after : Keyboard) : List Nat :=
  (List.range 64).filter fun p => !keyDown before p && keyDown after p

/-- KEYBOARD_SCAN (R132, R133, R135, R136, R142). -/
def keyboardScan (closed : BitVec 64) (s : State) : State :=
  if s.kbs.scanTimer = 0 then
    let t := s.onKbs fun k => { k with keys := scanKeys k.debounce closed 0 k.keys, scanTimer := scanPeriod s }
    let downs := newDowns s.kbs t.kbs
    if s.running then settleAll ((downs.foldl keyWentDown t).onKbs followRepeat)
    else if downs = [] then t
    else t.requestWake .key
  else s

def execKeyboardScan (closed : BitVec 64) (s : State) : Host.Outcome State Fault Refusal :=
  .next (keyboardScan closed s)

/-- KEY_FIFO_DRAIN (R136, R138). -/
def execKeyFifoDrain (s : State) : Host.Outcome State Fault Refusal := .next (settleAll (drainKeys drainFuel s))

/-- The repeat key's action from its present entry and shift state, none when the repeat stops (R135). -/
def repeatAction (k : Keyboard) : Option KeyAction :=
  match k.repeatKey with
  | some p => if (keyEntry k p).kind = .char then entryAction k (keyEntry k p) else none
  | none => none

/-- REPEAT_EXPIRY (R135). -/
def repeatExpiry (s : State) : State :=
  if isDue s.kbs.repeatTimer = true then
    match repeatAction s.kbs with
    | some a => settleAll (formAction (s.onKbs fun k => { k with repeatTimer := some Config.repeatNextMs }) a)
    | none => s.onKbs fun k => { k with repeatTimer := none, repeatSpent := true }
  else s

def execRepeatExpiry (s : State) : Host.Outcome State Fault Refusal := .next (repeatExpiry s)

/-- BELL_PULSE_END (R137). -/
def execBellPulseEnd (s : State) : Host.Outcome State Fault Refusal :=
  .next (if isDue s.kbs.bell = true then s.onKbs fun k => { k with bell := none } else s)

/-- KEYBOARD_IDLE: idleness is the input age and the FIFO, so its coming about stores nothing (R141, log entry 27). -/
def execKeyboardIdle (s : State) : Host.Outcome State Fault Refusal := .next s

end Sys2Proof.Machine
end

