-- ==== Sys2Proof/Machine/LineRows.lean ====
section
/-! DEFINITION. The line units' commands and steps (chapter 3). -/

namespace Sys2Proof.Machine

open Sys2Proof

/-! ## Configuration and status -/

/-- The supervisor's change of state at a taken SET_LINE (R34). -/
def setLineState (s : State) (l : LineId) (cfg : LineConfig) : State :=
  match (s.csv l).state, cfg.enable, cfg.lineType with
  | .disabled, false, _ => s
  | .free, false, _ | .fault, false, _ => enterDisabled s l
  | .disabled, true, .switched | .fault, true, .switched => enterFree s l
  | .free, true, .switched => s
  | .disabled, true, .privateLine | .free, true, .privateLine => enterRunning s l
  | .fault, true, .privateLine => s
  | .incoming, _, _ | .answering, _, _ | .refusing, _, _ | .calling, _, _ | .selecting, _, _ | .awaitConnect, _, _
  | .connected, _, _ | .clearing, _, _ | .guard, _, _ | .running, _, _ => s

/-- The line may be configured (R33). -/
def SupState.configurable : SupState → Bool
  | .disabled | .free | .fault => true
  | .incoming | .answering | .refusing | .calling | .selecting | .awaitConnect | .connected | .clearing | .guard
  | .running => false

/-- SET_LINE (R33, R34). -/
def cmdSetLine (p : List Byte) (s : State) : Reply :=
  withArgs readSetLine p s fun (l, cfg) =>
    if (s.csv l).state.configurable then
      let s := (s.onUnit l fun u => { u with cfg := cfg }).recompute l
      .ok (setLineState s l cfg) []
    else .refuse s .wrongState

def execSetLine (p : List Byte) (s : State) : Host.Outcome State Fault Refusal :=
  .next (consoleRow .setLine cmdSetLine p s)

def eLineConfig (c : LineConfig) : List Byte :=
  e1 c.lineType.code ++ eBool c.enable ++ e2 c.rate ++ e1 c.stop.code ++ e1 c.duplex.code ++ eBool c.usos
    ++ e2 c.turnaroundMs ++ e1 c.alarmThreshold

/-- LINE_STATUS (R48). -/
def cmdLineStatus (p : List Byte) (s : State) : Reply :=
  withArgs readOneLine p s fun l =>
    let u := s.unit l
    let sub : Option Nat := if u.rx.mode = .framing then some u.rx.sub.code else none
    .ok s (eLineConfig u.cfg ++ eBool (halfDuplex s l) ++ e1 (s.csv l).state.code ++ e1 u.rx.mode.code ++ eOpt e1 sub
      ++ e1 (Level.code u.rx.last) ++ e2 u.rx.age ++ eBool (receiveBusy s l)
      ++ eBool (decide (u.tx.state ≠ .idle)) ++ e1 (Level.code u.tx.ordered) ++ e4 (s.tbu.inc.get l)
      ++ eInt2 (s.tbu.rateError.get l) ++ e1 u.stats.lastPeak)

def execLineStatus (p : List Byte) (s : State) : Host.Outcome State Fault Refusal :=
  .next (consoleRow .lineStatus cmdLineStatus p s)

/-- LINE_STATISTICS (R46, R47). -/
def cmdLineStatistics (p : List Byte) (s : State) : Reply :=
  withArgs readOneLine p s fun l =>
    let x := (s.unit l).stats
    .ok (s.onStats l fun x => { LineStats.zero with lastPeak := x.lastPeak, armed := true })
      (e2 x.chars ++ e2 x.framing ++ e2 x.falseStart ++ e2 x.undefinedCount ++ e2 x.untranslatable ++ e2 x.breaks
        ++ e2 x.lostInStandby ++ e2 x.alarmCount ++ e1 x.lastPeak ++ e1 x.runPeak)

def execLineStatistics (p : List Byte) (s : State) : Host.Outcome State Fault Refusal :=
  .next (consoleRow .lineStatistics cmdLineStatistics p s)

/-! ## The line tick (R23, R37, R41, R42, R45) -/

/-- The accumulator at its next wrap past 2^24 (R23): after ⌈(2^24 - acc) / N⌉ source cycles. -/
def nextWrap (acc : BitVec 24) (n : Nat) : BitVec 24 :=
  if n = 0 then acc else BitVec.ofNat 24 (acc.toNat + (2 ^ 24 - acc.toNat + n - 1) / n * n)

/-- The condition a character holds at a tick (R37). -/
def txLevel (c : Comb) (pos : Nat) : Level :=
  if pos < 64 then .space
  else if pos < 384 then (if c.getLsbD (pos / 64 - 1) then .mark else .space)
  else .mark

/-- The tick at which the character's end is due (R37). -/
def txLast (stop : Nat) : Nat := 384 + stop

def Transmitter.tick (t : Transmitter) : Transmitter :=
  match t.state with
  | .idle => t
  | .sending c stop pos =>
    if txLast stop ≤ pos then t else { t with state := .sending c stop (pos + 1), pin := txLevel c (pos + 1) }

/-- The tick of a data sample: the one before, at and after the middle of units 1 to 5, two apart (R42). -/
def isSampleTick (t : Nat) : Bool :=
  decide (64 ≤ t) && decide (t < 384) && (t % 64 == 30 || t % 64 == 32 || t % 64 == 34)

/-- |o| of a transition at tick t (R45). -/
def displacement (t : Nat) : Nat :=
  let k := (t + 32) / 64
  ((t : Int) - 64 * (k : Int)).natAbs

/-- One tick of a character being framed (R42, R45). -/
def Frame.tick (f : Frame) (last lv : Level) : Frame :=
  let t := f.pos + 1
  { f with pos := t
           samples := if isSampleTick t then f.samples ++ [lv] else f.samples
           peak := if lv ≠ last ∧ 32 ≤ t ∧ t ≤ 415 then max f.peak (displacement t) else f.peak }

/-- The receiver waits for the row that its present tick makes due (log entry 3). -/
def Receiver.due (r : Receiver) : Bool :=
  match r.mode with
  | .off | .watch => false
  | .condition => decide (r.last ≠ r.known)
  | .framing =>
    match r.sub with
    | .hunting _ seen => seen
    | .character f => (decide (f.pos = 32) && !f.started) || decide (416 ≤ f.pos)
    | .spaceHeld m => decide (32 ≤ m)
    | .blanked => false

/-- One line tick of the receiver (R39 to R43). -/
def Receiver.tick (r : Receiver) (lv : Level) : Receiver :=
  let r := { r with pin := lv }
  if r.due then r
  else
    match r.mode with
    | .off | .watch => r
    | .condition => { r with last := lv }
    | .framing =>
      { r with last := lv
               sub := match r.sub with
                 | .hunting resume _ =>
                   .hunting false (decide (lv = .space) && (resume || decide (r.last = .mark)))
                 | .character f => .character (f.tick r.last lv)
                 | .spaceHeld m => .spaceHeld (if lv = .mark then m + 1 else 0)
                 | .blanked => .blanked }

/-- LINE_TICK: the accumulator wraps, and the line unit takes one tick; there are no line ticks in STANDBY and WAKING
(R14, R23). -/
def lineTick (l : LineId) (lv : Level) (s : State) : State :=
  if s.running then
    s.onUnit l fun u => { u with acc := nextWrap u.acc (s.tbu.inc.get l), tx := u.tx.tick, rx := u.rx.tick lv }
  else s.onRx l fun r => { r with pin := lv }

def execLineTick (l : LineId) (lv : Level) (s : State) : Host.Outcome State Fault Refusal := .next (lineTick l lv s)

/-! ## Transmitter (R36, R37, R43) -/

/-- A receiver hunting when a half-duplex line's transmitter starts a character is BLANKED (R43). -/
def blankReceiver (s : State) (l : LineId) : State :=
  if halfDuplex s l then
    s.onRx l fun r =>
      if r.mode = .framing then
        { r with sub := match r.sub with
            | .hunting _ _ => .blanked
            | .character f => .character f
            | .spaceHeld m => .spaceHeld m
            | .blanked => .blanked }
      else r
  else s

/-- The transmitter takes a combination: enabled, IDLE, mark ordered, line ticks running (R36). -/
def txTakes (s : State) (l : LineId) : Bool :=
  s.running && decide ((s.csv l).state ≠ .disabled) && decide ((s.unit l).tx.state = .idle)
    && decide ((s.unit l).tx.ordered = .mark)

/-- TX_CHARACTER_START (R12, R36, R37, R88). -/
def txCharacterStart (l : LineId) (s : State) : State :=
  if txTakes s l then
    let s := sendSweep sweepFuel s l
    if txTakes s l then
      match handNext s l with
      | none => settle s
      | some (c, f, s) =>
        let stop := (s.unit l).cfg.stop.ticks
        let s := s.onTx l fun t => { t with state := .sending c stop 0, pin := .space }
        let s := s.onSelector l fun x => { x with flight := some f }
        settle (restartIdle (blankReceiver s l) l)
    else settle s
  else s

def execTxCharacterStart (l : LineId) (s : State) : Host.Outcome State Fault Refusal := .next (txCharacterStart l s)

/-- The receiver leaves BLANKED for HUNTING; a line at space on that tick is a t0 (R41, R43). -/
def Receiver.unblank (r : Receiver) : Receiver :=
  match r.sub with
  | .blanked => { r with sub := .hunting false (decide (r.last = .space)) }
  | .hunting _ _ | .character _ | .spaceHeld _ => r

/-- TX_CHARACTER_END (R37, R92, R104, R113, R127). -/
def txCharacterEnd (l : LineId) (s : State) : State :=
  match (s.unit l).tx.state with
  | .idle => s
  | .sending _ stop pos =>
    if txLast stop ≤ pos then
      let s := s.onTx l fun t => { t with state := .idle, pin := t.ordered }
      let s := s.onSelector l fun x => { x with flight := none }
      settleLine (s.onRx l Receiver.unblank) l
    else s

def execTxCharacterEnd (l : LineId) (s : State) : Host.Outcome State Fault Refusal := .next (txCharacterEnd l s)

/-! ## Receiver (R41, R42, R45) -/

/-- HUNTING, or BLANKED while a half-duplex line's transmitter sends (R43). -/
def huntOrBlank (s : State) (l : LineId) (resume : Bool) : RxSub :=
  if halfDuplex s l && decide ((s.unit l).tx.state ≠ .idle) then .blanked else .hunting resume false

/-- RX_START_ELEMENT (R41). -/
def execRxStartElement (l : LineId) (s : State) : Host.Outcome State Fault Refusal :=
  .next (s.onRx l fun r =>
    match r.mode, r.sub with
    | .framing, .hunting _ true => { r with sub := .character ⟨0, false, [], 0⟩ }
    | .framing, .hunting _ false | .framing, .character _ | .framing, .spaceHeld _ | .framing, .blanked
    | .off, _ | .condition, _ | .watch, _ => r)

/-- START_CHECK (R41). -/
def startCheck (l : LineId) (s : State) : State :=
  match (s.unit l).rx.frameInHand with
  | none => s
  | some f =>
    if f.pos = 32 ∧ f.started = false then
      if (s.unit l).rx.last = .space then s.onRx l fun r => { r with sub := .character { f with started := true } }
      else
        (s.onRx l fun r => { r with sub := huntOrBlank s l false }).onStats l fun x =>
          { x with falseStart := bump x.falseStart }
    else s

def execStartCheck (l : LineId) (s : State) : Host.Outcome State Fault Refusal := .next (startCheck l s)

/-- The majority of the three samples of unit k, counted from 0 (R42). -/
def majority (samples : List Level) (k : Nat) : Bool :=
  decide (2 ≤ ((samples.drop (3 * k)).take 3).countP fun x => decide (x = .mark))

/-- The combination of a frame's samples (R42). -/
def combOf (samples : List Level) : Comb :=
  BitVec.ofNat 5 (bits [majority samples 0, majority samples 1, majority samples 2, majority samples 3,
    majority samples 4])

/-- The distortion figures and counters of a character, and its alarm (R42, R45, R46, R47). -/
def countChar (s : State) (l : LineId) (peak : Nat) (errored : Bool) : State :=
  let alarm := decide ((s.unit l).cfg.alarmThreshold ≤ peak)
  let rings := alarm && (s.unit l).stats.armed
  let s := s.onStats l fun x =>
    { x with chars := bump x.chars, framing := if errored then bump x.framing else x.framing, lastPeak := peak
             runPeak := max x.runPeak peak, alarmCount := if alarm then bump x.alarmCount else x.alarmCount
             armed := x.armed && !alarm }
  if rings then s.latch (alarmEvent l) else s

/-- A character leaves the receiver counted: the receive age is 0, the receiver hunts again, and the idle timer restarts
(R41 to R47, R106). -/
def frameTaken (s : State) (l : LineId) (peak : Nat) (errored : Bool) : State :=
  let s := s.onRx l fun r => { r with sub := huntOrBlank s l true, age := 0 }
  restartIdle (countChar s l peak errored) l

/-- STOP_SAMPLE (R42). -/
def stopSample (l : LineId) (s : State) : State :=
  match (s.unit l).rx.frameInHand with
  | none => s
  | some f =>
    if 416 ≤ f.pos ∧ f.started = true then
      let c := combOf f.samples
      let good := decide ((s.unit l).rx.last = .mark)
      if good || decide (c ≠ 0) then settleLine (receiveComb (frameTaken s l f.peak !good) l c !good) l
      else
        let s := (endTogether s l).onRx l fun r => { r with sub := .spaceHeld 0 }
        let s := s.onStats l fun x => { x with breaks := bump x.breaks }
        settleLine (reportSpace s l) l
    else s

def execStopSample (l : LineId) (s : State) : Host.Outcome State Fault Refusal := .next (stopSample l s)

/-- SPACE_HELD_END (R42). -/
def spaceHeldEnd (l : LineId) (s : State) : State :=
  match (s.unit l).rx.mode, (s.unit l).rx.sub with
  | .framing, .spaceHeld m =>
    if 32 ≤ m then reportMark (s.onRx l fun r => { r with sub := huntOrBlank s l false }) l else s
  | .framing, .hunting _ _ | .framing, .character _ | .framing, .blanked | .off, _ | .condition, _ | .watch, _ => s

def execSpaceHeldEnd (l : LineId) (s : State) : Host.Outcome State Fault Refusal := .next (spaceHeldEnd l s)

/-- CONDITION_CHANGE (R40). -/
def conditionChange (l : LineId) (s : State) : State :=
  let r := (s.unit l).rx
  if r.mode = .condition ∧ r.last ≠ r.known then
    report (s.onRx l fun r => { r with known := r.last }) l r.last
  else s

def execConditionChange (l : LineId) (s : State) : Host.Outcome State Fault Refusal := .next (conditionChange l s)

/-- WATCH_SPACE (R29, R49). -/
def watchSpace (l : LineId) (s : State) : State :=
  if (s.unit l).rx.mode = .watch ∧ (s.unit l).rx.watchSeen = true then
    let s := s.onRx l fun r => { r with watchSeen := false }
    let s := s.onStats l fun x => { x with lostInStandby := bump x.lostInStandby }
    s.requestWake (match l with | .A => .spaceA | .B => .spaceB)
  else s

def execWatchSpace (l : LineId) (s : State) : Host.Outcome State Fault Refusal := .next (watchSpace l s)

/-- TURNAROUND_END: receive-busy is the receive age against TURNAROUND_MS, so its end stores nothing (R44, log entry
27). -/
def execTurnaroundEnd (_l : LineId) (s : State) : Host.Outcome State Fault Refusal := .next s

end Sys2Proof.Machine
end

