-- ==== Sys2Proof/Machine/MotorRows.lean ====
section
/-! DEFINITION. The motor controller's commands and steps, and MECH_RESUME (chapter 11, R147, R165). -/

namespace Sys2Proof.Machine

open Sys2Proof

/-! ## Commands -/

/-- SET_MOTORS (R182). -/
def cmdSetMotors (p : List Byte) (s : State) : Reply :=
  withArgs readMotors p s fun (k, start, low, stop) =>
    .ok (s.onMotor k fun m => { m with startLimitMs := start, idleLowS := low, idleStopS := stop }) []

def execSetMotors (p : List Byte) (s : State) : Host.Outcome State Fault Refusal :=
  .next (consoleRow .setMotors cmdSetMotors p s)

/-- MOTOR_HOLD (R177). -/
def cmdMotorHold (p : List Byte) (s : State) : Reply :=
  withArgs readHold p s fun (k, v) => .ok (settle (s.onMotor k fun m => { m with hold := v })) []

def execMotorHold (p : List Byte) (s : State) : Host.Outcome State Fault Refusal :=
  .next (consoleRow .motorHold cmdMotorHold p s)

/-- The time left to the start limit, or the time elapsed idling, where one runs. -/
def Motor.time (m : Motor) : Option Nat := m.start <|> m.idle

/-- One motor's fields of MOTOR_STATUS (R182). The at-speed pin as last sampled is sent as 1 for high and 0 for low: R184 numbers
no pin level (DESIGN CHOICE, log entry 65). The qualified speed is numbered by R176, ASSERTED 0 and DEASSERTED 1, and an
output's level by R184, off 0 and on 1. -/
def eMotor (m : Motor) : List Byte :=
  e1 m.state.code ++ eBool m.state.runOut ++ eBool m.state.lowOut
    ++ eSet [m.demand, m.prestartA, m.prestartB, m.hold] ++ eBool (!m.speed.level) ++ eBool m.speed.pin
    ++ eOpt e4 m.time ++ e1 m.lastFault.code ++ e2 m.faults ++ e2 m.startLimitMs ++ e2 m.idleLowS ++ e2 m.idleStopS

/-- MOTOR_STATUS (R182); the qualified speed is ASSERTED 0, DEASSERTED 1, in the order of R176. -/
def cmdMotorStatus (p : List Byte) (s : State) : Reply :=
  withArgs readNone p s fun _ =>
    .ok { s with mtc := ⟨{ s.mtc.print with faults := 0 }, { s.mtc.punch with faults := 0 }⟩ }
      (eMotor s.mtc.print ++ eMotor s.mtc.punch)

def execMotorStatus (p : List Byte) (s : State) : Host.Outcome State Fault Refusal :=
  .next (consoleRow .motorStatus cmdMotorStatus p s)

/-- The named mechanism is in FAULT. -/
def mechFault (s : State) : Mech → Bool
  | .print => s.prc.fault
  | .punch => s.puc.fault

/-- The mechanism's fault flag is cleared; the printer's sets its owed CR (R147, R165). -/
def clearMechFault (s : State) : Mech → State
  | .print => if s.prc.fault then { s with prc := { s.prc with fault := false, owedCr := true } } else s
  | .punch => { s with puc := { s.puc with fault := false } }

/-- A motor in FAULT enters STOPPED (R180). -/
def Motor.resume (m : Motor) : Motor := if m.state = .fault then { m with state := .stopped } else m

/-- MECH_RESUME (R147, R165, R180). -/
def cmdMechResume (p : List Byte) (s : State) : Reply :=
  withArgs readResume p s fun k =>
    if mechFault s k || decide ((s.motor k).state = .fault) then
      .ok (settle ((clearMechFault s k).onMotor k Motor.resume)) []
    else .refuse s .wrongState

def execMechResume (p : List Byte) (s : State) : Host.Outcome State Fault Refusal :=
  .next (consoleRow .mechResume cmdMechResume p s)

/-! ## Steps -/

/-- SPEED_QUALIFIED (R176, R178, R180). -/
def speedQualified (k : Mech) (s : State) : State :=
  if (s.motor k).speed.ripe Config.speedTicks then
    let t := s.onMotor k fun m => { m with speed := m.speed.flip }
    match (t.motor k).state, (t.motor k).speed.level with
    | .starting, true => settle (t.onMotor k fun m => { m with state := .running, start := none })
    | .running, false => settle ((t.onMotor k fun m => m.fail .speedLost).latch .motorFault)
    | .starting, false | .running, true | .stopped, _ | .low, _ | .fault, _ => t
  else s

def execSpeedQualified (k : Mech) (s : State) : Host.Outcome State Fault Refusal := .next (speedQualified k s)

/-- START_LIMIT_EXPIRY (R178, R180). -/
def startLimitExpiry (k : Mech) (s : State) : State :=
  if (s.motor k).state = .starting ∧ isDue (s.motor k).start = true then
    settle ((s.onMotor k fun m => m.fail .startLimit).latch .motorFault)
  else s

def execStartLimitExpiry (k : Mech) (s : State) : Host.Outcome State Fault Refusal := .next (startLimitExpiry k s)

/-- The idle time has reached a threshold given in seconds. -/
def Motor.idled (m : Motor) (seconds : Nat) : Bool :=
  match m.idle with
  | some n => decide (1000 * seconds ≤ n)
  | none => false

/-- IDLE_LOW_EXPIRY, against the thresholds in force; a motor also past IDLE_STOP_S passes LOW over (R179, R182, log
entry 53). -/
def idleLowExpiry (k : Mech) (s : State) : State :=
  let m := s.motor k
  if m.state = .running ∧ m.idled m.lowS = true then
    settle (s.onMotor k fun m =>
      if m.idled m.stopS then { m with state := .stopped, idle := none } else { m with state := .low })
  else s

def execIdleLowExpiry (k : Mech) (s : State) : Host.Outcome State Fault Refusal := .next (idleLowExpiry k s)

/-- IDLE_STOP_EXPIRY, against the threshold in force (R179, R182). -/
def idleStopExpiry (k : Mech) (s : State) : State :=
  let m := s.motor k
  if (m.state = .low ∨ m.state = .running) ∧ m.idled m.stopS = true then
    settle (s.onMotor k fun m => { m with state := .stopped, idle := none })
  else s

def execIdleStopExpiry (k : Mech) (s : State) : Host.Outcome State Fault Refusal := .next (idleStopExpiry k s)

end Sys2Proof.Machine
end

