-- ==== Sys2Proof/Machine/PrinterRows.lean ====
section
/-! DEFINITION. The printer controller's commands and steps (chapter 9). -/

namespace Sys2Proof.Machine

open Sys2Proof

def State.onPrc (s : State) (f : Printer → Printer) : State := { s with prc := f s.prc }

/-! ## Commands -/

/-- The line on page brought within a new layout (R158). -/
def newLine (old new : PrinterConfig) (line : Nat) : Nat :=
  if new.pageLength = 0 then 0
  else if old.pageLength = 0 then new.top + 1
  else max (new.top + 1) (min line (new.pageLength - new.bottom))

/-- SET_PRINTER (R158). -/
def cmdSetPrinter (p : List Byte) (s : State) : Reply :=
  withArgs readPrinter p s fun c =>
    if s.prc.grant.isSome then .refuse s .wrongState
    else
      .ok (s.onPrc fun x =>
        { x with cfg := c, count := min x.count c.lineLength, line := newLine x.cfg c x.line
                 heatHold := x.heatHold && decide (c.hLo < x.heat) }) []

def execSetPrinter (p : List Byte) (s : State) : Host.Outcome State Fault Refusal :=
  .next (consoleRow .setPrinter cmdSetPrinter p s)

/-- PRINTER_SET_TOP (R159). -/
def cmdPrinterSetTop (p : List Byte) (s : State) : Reply :=
  withArgs readNone p s fun _ =>
    if s.prc.op.isSome then .refuse s .wrongState
    else .ok (s.onPrc fun x => if x.cfg.pageLength = 0 then x else { x with line := x.cfg.top + 1 }) []

def execPrinterSetTop (p : List Byte) (s : State) : Host.Outcome State Fault Refusal :=
  .next (consoleRow .printerSetTop cmdPrinterSetTop p s)

def ePrinterConfig (c : PrinterConfig) : List Byte :=
  e1 c.lineLength ++ e1 c.pageLength ++ e1 c.top ++ e1 c.bottom ++ eBool c.crImpliesLf ++ eBool c.lfImpliesCr
    ++ e1 c.margin.code ++ eBool c.headers ++ e2 c.opTimeoutMs ++ e2 c.crTimeoutMs ++ e1 c.yieldS ++ e1 c.strikeHeat
    ++ e1 c.decayMs ++ e2 c.hHi ++ e2 c.hLo

/-- Printer states in the order of R148. -/
def MechState.printCode : MechState → Nat
  | .fault => 0 | .busy => 1 | .suspended => 2 | .off => 3 | .heatWait => 4 | .ready => 5

def ePrintGrant (s : State) (g : PrintGrant) : List Byte :=
  e1 g.index ++ e1 g.phase.code ++ e2 (((s.record g.index).map fun r => r.cursor.print).getD 0)

/-- PRINTER_STATUS; the yield timer's time in milliseconds, two bytes (R160, log entry 61). -/
def cmdPrinterStatus (p : List Byte) (s : State) : Reply :=
  withArgs readNone p s fun _ =>
    let x := s.prc
    .ok s (e1 (printState s).printCode ++ eBool x.fault ++ eField (x.lastFault.map fun f => e1 f.1.code ++ eOpt e1 f.2)
      ++ eBool x.owedCr ++ eBool x.abandoned.isSome ++ eBool x.papLow.level ++ eBool x.papOut.level
      ++ eBool x.cover.level ++ eBool x.hold ++ eBool s.mtc.print.demand ++ eField (x.grant.map (ePrintGrant s))
      ++ e2 ((x.yieldTimer.map (·.1)).getD 0) ++ eBool x.starved ++ e1 x.lastServed.code ++ e1 x.count ++ e1 x.line
      ++ e2 x.page ++ e2 x.heat ++ eBool x.heatHold ++ ePrinterConfig x.cfg)

def execPrinterStatus (p : List Byte) (s : State) : Host.Outcome State Fault Refusal :=
  .next (consoleRow .printerStatus cmdPrinterStatus p s)

/-! ## Grant and operations -/

/-- The candidates of a choice: the record that has just yielded is passed over when another candidate exists (R153). -/
def printChoices (s : State) : List (Nat × Rec) :=
  let cs := candidates s .print
  match s.prc.passOver with
  | none => cs
  | some i => if cs.any fun e => decide (e.1 ≠ i) then cs.filter fun e => decide (e.1 ≠ i) else cs

/-- The printer takes a grant on record i (R150, R151). -/
def takePrintGrant (s : State) (i : Nat) (o : Origin) : State :=
  let s := (startGrant s .print i).onPrc fun x =>
    { x with grant := some ⟨i, .lead, none, []⟩, lastServed := o, passOver := none, yieldTimer := none, starved := false }
  if s.prc.cfg.headers then s else clearPrintResume s i

/-- PRINT_GRANT (R150, R163). -/
def printGrant (s : State) : State :=
  if s.prc.grant.isNone && !s.prc.fault && s.running then
    match chooseGrant s.prc.lastServed (printChoices s) with
    | none => s
    | some i =>
      match s.record i with
      | none => s
      | some r => settle (takePrintGrant s i r.origin)
  else s

def execPrintGrant (s : State) : Host.Outcome State Fault Refusal := .next (printGrant s)

/-- The completion time of an operation (R146). -/
def printTimeout (c : PrinterConfig) : PrintOp → Nat
  | .cr => c.crTimeoutMs
  | .strike _ | .space | .lf _ | .bell => c.opTimeoutMs

/-- PDATA (R145). -/
def printData : PrintOp → BitVec 7
  | .strike c => c
  | .space | .cr | .lf _ | .bell => 0

/-- The grant after its next operation has been chosen: the phase's text is fixed, and the rest of the character's or
item's operations wait (R151, R156). -/
def chooseOp (s : State) (g : PrintGrant) : PrintGrant :=
  { g with
    ops := (grantOps s g).tail
    script := match g.phase, s.record g.index with
      | .text, _ | _, none => g.script
      | .lead, some r | .header, some r | .yielding, some r | .trailer, some r => some (g.items s.prc r) }

/-- H after an operation is issued (R157). -/
def chargeHeat (p : Printer) : PrintOp → Nat
  | .strike _ => min (p.heat + p.cfg.strikeHeat) Config.heatMax
  | .space | .cr | .lf _ | .bell => p.heat

/-- The operation goes to the pins (R145, R146, R157). -/
def issuePrintOp (s : State) (op : PrintOp) : State :=
  s.onPrc fun x =>
    { x with op := some (op, printTimeout x.cfg op), pdata := printData op, pop := BitVec.ofNat 3 op.kind.pop
             heat := chargeHeat x op
             grant := if x.owedCr then x.grant else x.grant.map (chooseOp s) }

/-- PRINT_OPERATION_ISSUE (R145, R148, R157). -/
def printOperationIssue (s : State) : State :=
  let s := followHeat s
  if s.running && decide (printState s = .ready) then
    match nextPrintOp s with
    | some op => settle (issuePrintOp s op)
    | none => s
  else s

def execPrintOperationIssue (s : State) : Host.Outcome State Fault Refusal := .next (printOperationIssue s)

/-- The layout position after an operation completes (R145, R155). -/
def layoutAfter (x : Printer) : PrintOp → Printer
  | .strike _ | .space => { x with count := if x.count < x.cfg.lineLength then x.count + 1 else x.count }
  | .cr => { x with count := 0 }
  | .lf (some (n, crosses)) => { x with line := n, page := if crosses then bump x.page else x.page }
  | .lf none | .bell => x

/-- The last operation of the grant's character or item has completed (R151). -/
def printItemDone (s : State) (g : PrintGrant) : State :=
  match g.phase with
  | .text => advanceCursor s .print g.index
  | .lead | .yielding | .trailer => s.setPrintGrant (some { g with script := g.script.map List.tail })
  | .header =>
    let s := s.setPrintGrant (some { g with script := g.script.map List.tail })
    if g.script.map List.tail = some [] then clearPrintResume s g.index else s

/-- The operation in flight completes (R145, R147, R151). -/
def completePrintOp (s : State) (op : PrintOp) : State :=
  let owed := s.prc.owedCr
  let s := s.onPrc fun x => { layoutAfter x op with op := none, owedCr := false }
  if owed then s
  else
    match s.prc.grant with
    | some g => if g.ops = [] then printItemDone s g else s
    | none => s

/-- PRDY; with an abandoned operation awaited it completes nothing (R145, R162). -/
def prdy (s : State) : State :=
  match s.prc.op with
  | some o => settle (completePrintOp s o.1)
  | none => if s.prc.abandoned.isSome then settle (s.onPrc fun x => { x with abandoned := none }) else s

def execPrdy (s : State) : Host.Outcome State Fault Refusal := .next (prdy s)

/-- The operation in flight has stalled (R146). -/
def stallPrinter (s : State) (op : PrintOp) : State :=
  let i := s.prc.grant.map (·.index)
  let s := s.onPrc fun x => { x with fault := true, lastFault := some (op.kind, i), op := none }
  let s := match i with
    | some i => endPrintGrant (markPrintResume s i)
    | none => s
  s.latch .printerAttn

/-- PRINT_OPERATION_TIMEOUT (R146). -/
def printOperationTimeout (s : State) : State :=
  match s.prc.op with
  | some (op, 0) => settle (stallPrinter s op)
  | some (_, _ + 1) | none => s

def execPrintOperationTimeout (s : State) : Host.Outcome State Fault Refusal := .next (printOperationTimeout s)

/-- YIELD_EXPIRY (R153). -/
def yieldExpiry (s : State) : State :=
  match s.prc.yieldTimer with
  | some (n, m) => if m ≤ n then settle (s.onPrc fun x => { x with starved := true }) else s
  | none => s

def execYieldExpiry (s : State) : Host.Outcome State Fault Refusal := .next (yieldExpiry s)

/-- HEAT_DECAY (R157). -/
def heatDecay (s : State) : State :=
  if s.prc.decay = 0 then
    s.onPrc fun x =>
      { x with heat := x.heat - 1, decay := x.cfg.decayMs, heatHold := x.heatHold && decide (x.cfg.hLo < x.heat - 1) }
  else s

def execHeatDecay (s : State) : Host.Outcome State Fault Refusal := .next (heatDecay s)

/-! ## Sensors and the end of an abandoned operation -/

/-- A change of PAPOUT or COVER: active sets the hold, with its event unless it was set; with both clear the release
timer runs (R149). -/
def followPaperHold (now : Bool) (s : State) : State :=
  let p := s.prc
  if now then
    let t := s.onPrc fun x => { x with hold := true, release := none }
    if p.hold then t else t.latch .printerAttn
  else if p.hold && !p.papOut.level && !p.cover.level then
    s.onPrc fun x => { x with release := some Config.releaseMs }
  else s

/-- PRINTER_SENSOR_QUALIFIED (R149). -/
def printerSensorQualified (k : PrintSensor) (s : State) : State :=
  match k with
  | .papLow =>
    if s.prc.papLow.ripe Config.sensorTicks then
      let t := s.onPrc fun x => { x with papLow := x.papLow.flip }
      if t.prc.papLow.level then t.latch .printerAttn else t
    else s
  | .papOut =>
    if s.prc.papOut.ripe Config.sensorTicks then
      let t := s.onPrc fun x => { x with papOut := x.papOut.flip }
      settle (followPaperHold t.prc.papOut.level t)
    else s
  | .cover =>
    if s.prc.cover.ripe Config.sensorTicks then
      let t := s.onPrc fun x => { x with cover := x.cover.flip }
      settle (followPaperHold t.prc.cover.level t)
    else s

def execPrinterSensorQualified (k : PrintSensor) (s : State) : Host.Outcome State Fault Refusal :=
  .next (printerSensorQualified k s)

/-- PRINTER_HOLD_RELEASE (R149). -/
def printerHoldRelease (s : State) : State :=
  if isDue s.prc.release = true then settle (s.onPrc fun x => { x with hold := false, release := none }) else s

def execPrinterHoldRelease (s : State) : Host.Outcome State Fault Refusal := .next (printerHoldRelease s)

/-- PRINT_ABANDON_END: PRDY, or the would-be expiry (R162). -/
def printAbandonEnd (ready : Bool) (s : State) : State :=
  if s.prc.abandoned.isSome && (ready || isDue s.prc.abandoned) then
    settle (s.onPrc fun x => { x with abandoned := none })
  else s

def execPrintAbandonEnd (ready : Bool) (s : State) : Host.Outcome State Fault Refusal := .next (printAbandonEnd ready s)

end Sys2Proof.Machine
end

