-- ==== Sys2Proof/Machine/PunchRows.lean ====
section
/-! DEFINITION. The punch controller's commands and steps (chapter 10). -/

namespace Sys2Proof.Machine

open Sys2Proof

def State.onPuc (s : State) (f : Punch → Punch) : State := { s with puc := f s.puc }

/-! ## Commands -/

/-- SET_PUNCH (R173). -/
def cmdSetPunch (p : List Byte) (s : State) : Reply :=
  withArgs readPunch p s fun c =>
    if s.puc.grant.isSome then .refuse s .wrongState else .ok (s.onPuc fun x => { x with cfg := c }) []

def execSetPunch (p : List Byte) (s : State) : Host.Outcome State Fault Refusal :=
  .next (consoleRow .setPunch cmdSetPunch p s)

def ePunchConfig (c : PunchConfig) : List Byte :=
  e1 c.leader ++ e1 c.trailer ++ eText c.eom ++ eBool c.verify ++ e1 c.retryLimit ++ e2 c.timeoutMs ++ e2 c.tapeReserve

/-- Punch states in the order of R166. -/
def MechState.punchCode : MechState → Nat
  | .fault => 0 | .busy => 1 | .suspended => 2 | .off => 3 | .ready | .heatWait => 4

/-- The cause and, for TIMEOUT, the operation kind, 0 for the others (log entry 8). -/
def ePunchCause : PunchCause → List Byte
  | .timeout k => e1 0 ++ e1 k.code
  | .repair => e1 1 ++ e1 0
  | .retryLimit => e1 2 ++ e1 0

/-- The frame's retry count and the repair step in progress, 0 for none (log entry 8). -/
def ePunchFrame : Option PunchFrame → List Byte
  | some f => e1 f.retry ++ e1 ((f.steps.head?.map RepairStep.code).getD 0)
  | none => e1 0 ++ e1 0

def ePunchGrant (s : State) (g : PunchGrant) : List Byte :=
  e1 g.index ++ e1 g.phase.code ++ e2 (((s.record g.index).map fun r => r.cursor.punch).getD 0) ++ ePunchFrame g.frame

/-- PUNCH_STATUS (R174). The last fault has a record index always, since an operation is in flight only under a grant
(R165). -/
def cmdPunchStatus (p : List Byte) (s : State) : Reply :=
  withArgs readNone p s fun _ =>
    let x := s.puc
    .ok (s.onPuc fun x => { x with untranslatable := 0, repairs := 0 })
      (e1 (punchState s).punchCode ++ eBool x.fault
        ++ eField (x.lastFault.map fun f => ePunchCause f.1 ++ e1 (f.2.getD 0)) ++ eBool x.abandoned.isSome
        ++ eBool x.tapLow.level ++ eBool x.tapOut.level ++ eBool x.chad.level ++ eBool x.hold ++ eOpt e2 x.tape
        ++ eBool x.tapeHold ++ eBool s.mtc.punch.demand ++ eField (x.grant.map (ePunchGrant s)) ++ e1 x.lastServed.code
        ++ e1 s.ctr.tape.code ++ e2 x.untranslatable ++ e2 x.repairs ++ ePunchConfig x.cfg)

def execPunchStatus (p : List Byte) (s : State) : Host.Outcome State Fault Refusal :=
  .next (consoleRow .punchStatus cmdPunchStatus p s)

/-! ## Grant and operations -/

/-- The punch takes a grant on a record: the tape shift record becomes UNKNOWN (R169, R170). -/
def takePunchGrant (s : State) (i : Nat) (r : Rec) : State :=
  ((startGrant s .punch i).setTape .unknown).onPuc fun x =>
    { x with grant := some ⟨i, if r.flags.punchSpoiled then .erase else .leader, 0, [], none, none⟩
             lastServed := r.origin }

/-- PUNCH_GRANT (R169, R175). -/
def punchGrant (s : State) : State :=
  if s.puc.grant.isNone && !s.puc.fault && s.running then
    match chooseGrant s.puc.lastServed (candidates s .punch) with
    | none => s
    | some i =>
      match s.record i with
      | none => s
      | some r => settle (takePunchGrant s i r)
  else s

def execPunchGrant (s : State) : Host.Outcome State Fault Refusal := .next (punchGrant s)

/-- UDATA; the operations other than PUNCH leave it (R164, log entry 30). -/
def punchData (old : BitVec 5) : PunchOp → BitVec 5
  | .punch c => c
  | .feed | .backspace => old

/-- The operation goes to the pins (R164, R165). -/
def issuePunchOp (s : State) (op : PunchOp) : State :=
  s.onPuc fun x =>
    { x with op := some (op, x.cfg.timeoutMs), udata := punchData x.udata op, uop := BitVec.ofNat 2 op.kind.uop }

/-- A frame is begun; a shift frame's shift is recorded as it is issued (R12, R170). -/
def beginFrame (s : State) (g : PunchGrant) (f : Option PunchFrame) : State :=
  let s := s.setPunchGrant (some { g with frame := f })
  match f with
  | some ⟨.openShift, _, _, _⟩ => s.setTape (.held .letters)
  | some ⟨.shift sh _, _, _, _⟩ => s.setTape (.held sh)
  | some ⟨.erase, _, _, _⟩ | some ⟨.char, _, _, _⟩ | none => s

/-- PUNCH_OPERATION_ISSUE (R164, R166, R170, R172). -/
def punchOperationIssue (s : State) : State :=
  if s.running && decide (punchState s = .ready) then
    match s.puc.grant with
    | none => s
    | some g =>
      match g.frame with
      | some _ =>
        match nextPunchOp s with
        | some op => settle (issuePunchOp s op)
        | none => s
      | none =>
        match nextSection s g with
        | some (op, f) => settle (issuePunchOp (beginFrame s g f) op)
        | none => s
  else s

def execPunchOperationIssue (s : State) : Host.Outcome State Fault Refusal := .next (punchOperationIssue s)

/-- Each PUNCH and FEED that completes lowers a running tape-low counter; reaching 0 sets the hold (R168). -/
def countTape (s : State) : PunchOp → State
  | .backspace => s
  | .punch _ | .feed =>
    match s.puc.tape with
    | some (n + 1) =>
      let t := s.onPuc fun x => { x with tape := some n }
      if n = 0 then (t.onPuc fun x => { x with tapeHold := true }).latch .punchAttn else t
    | some 0 | none => s

/-- The tape shift record after a frame that was repaired (R172). -/
def repairedShift : FrameKind → ShiftRecord
  | .openShift => .held .letters
  | .shift sh _ => .held sh
  | .erase | .char => .unknown

/-- A frame is done (R164, R170, R172). -/
def frameDone (s : State) (g : PunchGrant) (f : PunchFrame) : State :=
  let s := if f.retry = 0 then s else s.setTape (repairedShift f.kind)
  let g := { g with frame := none }
  match f.kind with
  | .erase =>
    let t := s.setPunchGrant (some { g with done := g.done + 1 })
    if g.done + 1 = Config.eraseFrames then
      t.onRecord g.index fun r => { r with flags := { r.flags with punchSpoiled := false } }
    else t
  | .openShift => s.setPunchGrant (some { g with done := 1 })
  | .shift _ b => s.setPunchGrant (some { g with owed := some b })
  | .char =>
    match g.phase with
    | .text => advanceCursor (s.setPunchGrant (some { g with owed := none })) .punch g.index
    | .close => s.setPunchGrant (some { g with owed := none, closing := g.closing.tail })
    | .erase | .leader | .openShift | .trailer => s.setPunchGrant (some { g with owed := none })

/-- The steps of a repair: FIGS is restored when the record holds FIGURES (R172). -/
def repairSteps (r : ShiftRecord) : List RepairStep :=
  match r with
  | .held .figures => [.back, .erase, .figs, .again]
  | .held .letters | .unknown => [.back, .erase, .again]

/-- A mismatch of a frame's own PUNCH (R172). -/
def mismatch (s : State) (g : PunchGrant) (f : PunchFrame) : State :=
  if f.kind = .erase then punchFault s .repair
  else if f.retry < s.puc.cfg.retryLimit then
    (s.setPunchGrant (some { g with frame := some { f with retry := f.retry + 1, steps := repairSteps s.ctr.tape } })).onPuc
      fun x => { x with repairs := bump x.repairs }
  else punchFault s .retryLimit

/-- What the completed operation does in the section (R164, R170, R172). -/
def sectionAfter (s : State) (g : PunchGrant) (sensed : Comb) : State :=
  let passes (c : Comb) : Bool := !s.puc.cfg.verify || decide (sensed = c)
  match g.frame with
  | none => s.setPunchGrant (some { g with done := g.done + 1 })
  | some f =>
    let next (steps : List RepairStep) : State := s.setPunchGrant (some { g with frame := some { f with steps := steps } })
    match f.steps with
    | [] | .again :: _ => if passes f.comb then frameDone s g f else mismatch s g f
    | .back :: rest => next rest
    | .erase :: rest => if passes 31 then next rest else punchFault s .repair
    | .figs :: rest => if passes 27 then next rest else punchFault s .repair

/-- The operation in flight completes (R164, R168). -/
def completePunchOp (s : State) (op : PunchOp) (sensed : Comb) : State :=
  let s := countTape (s.onPuc fun x => { x with op := none }) op
  match s.puc.grant with
  | none => s
  | some g => sectionAfter s g sensed

/-- URDY; with an abandoned operation awaited it completes nothing (R164, R175). -/
def urdy (sensed : Comb) (s : State) : State :=
  match s.puc.op with
  | some o => settle (completePunchOp s o.1 sensed)
  | none => if s.puc.abandoned.isSome then settle (s.onPuc fun x => { x with abandoned := none }) else s

def execUrdy (sensed : Comb) (s : State) : Host.Outcome State Fault Refusal := .next (urdy sensed s)

/-- PUNCH_OPERATION_TIMEOUT (R165). -/
def punchOperationTimeout (s : State) : State :=
  match s.puc.op with
  | some (op, 0) => settle (punchFault s (.timeout op.kind))
  | some (_, _ + 1) | none => s

def execPunchOperationTimeout (s : State) : Host.Outcome State Fault Refusal := .next (punchOperationTimeout s)

/-! ## Sensors and the end of an abandoned operation -/

/-- A change of TAPOUT or CHAD (R167). -/
def followTapeHold (now : Bool) (s : State) : State :=
  let p := s.puc
  if now then
    let t := s.onPuc fun x => { x with hold := true, release := none }
    if p.hold then t else t.latch .punchAttn
  else if p.hold && !p.tapOut.level && !p.chad.level then
    s.onPuc fun x => { x with release := some Config.releaseMs }
  else s

/-- A change of TAPLOW: the counter starts, or stops and releases its hold (R168). -/
def followTapeLow (now : Bool) (s : State) : State :=
  if now then
    (s.onPuc fun x =>
      { x with tape := some x.cfg.tapeReserve, tapeHold := x.tapeHold || decide (x.cfg.tapeReserve = 0) }).latch .punchAttn
  else s.onPuc fun x => { x with tape := none, tapeHold := false }

/-- PUNCH_SENSOR_QUALIFIED (R167, R168). -/
def punchSensorQualified (k : PunchSensor) (s : State) : State :=
  match k with
  | .tapLow =>
    if s.puc.tapLow.ripe Config.sensorTicks then
      let t := s.onPuc fun x => { x with tapLow := x.tapLow.flip }
      settle (followTapeLow t.puc.tapLow.level t)
    else s
  | .tapOut =>
    if s.puc.tapOut.ripe Config.sensorTicks then
      let t := s.onPuc fun x => { x with tapOut := x.tapOut.flip }
      settle (followTapeHold t.puc.tapOut.level t)
    else s
  | .chad =>
    if s.puc.chad.ripe Config.sensorTicks then
      let t := s.onPuc fun x => { x with chad := x.chad.flip }
      settle (followTapeHold t.puc.chad.level t)
    else s

def execPunchSensorQualified (k : PunchSensor) (s : State) : Host.Outcome State Fault Refusal :=
  .next (punchSensorQualified k s)

/-- PUNCH_HOLD_RELEASE (R167). -/
def punchHoldRelease (s : State) : State :=
  if isDue s.puc.release = true then settle (s.onPuc fun x => { x with hold := false, release := none }) else s

def execPunchHoldRelease (s : State) : Host.Outcome State Fault Refusal := .next (punchHoldRelease s)

/-- PUNCH_ABANDON_END: URDY, or the would-be expiry (R175). -/
def punchAbandonEnd (ready : Bool) (s : State) : State :=
  if s.puc.abandoned.isSome && (ready || isDue s.puc.abandoned) then
    settle (s.onPuc fun x => { x with abandoned := none })
  else s

def execPunchAbandonEnd (ready : Bool) (s : State) : Host.Outcome State Fault Refusal := .next (punchAbandonEnd ready s)

end Sys2Proof.Machine
end

