-- ==== Sys2Proof/Machine/QueueRows.lean ====
section
/-! DEFINITION. The framer and queue manager's commands, the message gap and the SEND grant (chapter 5). -/

namespace Sys2Proof.Machine

open Sys2Proof

/-! ## Rerouting and listing (R79, R80) -/

/-- A destination of the remove set leaves the pending set and its queue; a grant on it is stopped (R63, R80). -/
def removeDest (i : Nat) (gone : DestSet) (s : State) (d : Deliv) : State :=
  match s.record i with
  | none => s
  | some r =>
    if gone.out.get d && r.dests.out.get d then
      dequeue (s.setRecord i (some { r with dests := r.dests.off d, stops := r.stops.set d (r.grants.get d) })) d i
    else s

/-- A record joins the queue of a destination added to it at once (R80). -/
def joinsAtOnce (r : Rec) : Deliv → Bool
  | .print | .punch => true
  | .sendA => decide (r.state = .closed) || r.flags.liveA
  | .sendB => decide (r.state = .closed) || r.flags.liveB

/-- A destination of the add set joins the pending set with its cursor at 0 (R80). -/
def addDest (i : Nat) (more : DestSet) (s : State) (d : Deliv) : State :=
  match s.record i with
  | none => s
  | some r =>
    if more.out.get d && !r.dests.out.get d then
      let s := s.setRecord i (some { r with dests := r.dests.on d, cursor := r.cursor.set d 0 })
      if joinsAtOnce r d then enqueue s d i else s
    else s

def Deliv.list : List Deliv := [.print, .punch, .sendA, .sendB]

/-- The add set sends a line's traffic back on it (R80). -/
def sendsBack (r : Rec) (more : DestSet) : Bool :=
  (decide (r.origin = .lineA) && more.out.sendA) || (decide (r.origin = .lineB) && more.out.sendB)

/-- Removals, then additions, then the release (R80). -/
def rerouteRecord (s : State) (i : Nat) (more gone : DestSet) : State :=
  let s := Deliv.list.foldl (removeDest i gone) s
  let s := s.onRecord i fun r => { r with dests := { r.dests with hold := (r.dests.hold && !gone.hold) || more.hold } }
  let s := Deliv.list.foldl (addDest i more) s
  releaseIfDone s i

/-- MSG_REROUTE (R80). -/
def cmdMsgReroute (p : List Byte) (s : State) : Reply :=
  withArgs readReroute p s fun (i, more, gone) =>
    match s.record i with
    | none => .refuse s .noRecord
    | some r =>
      if sendsBack r more then .refuse s .badArgument
      else if r.state = .cancelled then .refuse s .wrongState
      else
        let s := rerouteRecord s i more gone
        .ok (settleAll s) (match s.record i with
          | some r => eDests r.dests
          | none => eDests .empty)

def execMsgReroute (p : List Byte) (s : State) : Host.Outcome State Fault Refusal :=
  .next (consoleRow .msgReroute cmdMsgReroute p s)

/-- LIVE_x of the queue's line; no for PRINT and PUNCH (R79, R184). -/
def liveIn (r : Rec) : Deliv → Bool
  | .print | .punch => false
  | .sendA => r.flags.liveA
  | .sendB => r.flags.liveB

/-- An entry of five bytes (R184). -/
def eQueueEntry (d : Deliv) (e : Nat × Rec) : List Byte :=
  e1 (e.1 + 64 * e.2.urgent.toNat + 128 * (e.2.grants.get d).toNat) ++ e4 ((e.2.stamp.get d).getD 0)

/-- The 48-bit field in which bit k marks record k as LIVE_x (R184). -/
def eLiveField (d : Deliv) (q : List (Nat × Rec)) : List Byte :=
  (List.range 6).map fun b => BitVec.ofNat 8 (bits ((List.range 8).map fun k =>
    q.any fun e => decide (e.1 = 8 * b + k) && liveIn e.2 d))

/-- QUEUE_LIST (R79, R184). -/
def cmdQueueList (p : List Byte) (s : State) : Reply :=
  withArgs readQueue p s fun x =>
    match x with
    | some d =>
      let q := queueOf s d
      .ok s (e1 q.length ++ q.flatMap (eQueueEntry d) ++ eLiveField d q)
    | none =>
      .ok s (eList e1 ((s.entries.filter fun e => e.2.dests.hold && decide (e.2.state ≠ .cancelled)).map (·.1)))

def execQueueList (p : List Byte) (s : State) : Host.Outcome State Fault Refusal :=
  .next (consoleRow .queueList cmdQueueList p s)

/-! ## Attendance, routes, framing (R74, R75, R81) -/

/-- SET_ATTENDANCE (R74). -/
def cmdSetAttendance (p : List Byte) (s : State) : Reply :=
  withArgs readAttendance p s fun m => .ok { s with fqm := { s.fqm with attended := m } } []

def execSetAttendance (p : List Byte) (s : State) : Host.Outcome State Fault Refusal :=
  .next (consoleRow .setAttendance cmdSetAttendance p s)

def ByMode.put (e : ByMode) (attended : Bool) (d : DestSet) : ByMode :=
  if attended then { e with attended := d } else { e with unattended := d }

def Routes.put (t : Routes) (o : Origin) (attended : Bool) (d : DestSet) : Routes :=
  match o with
  | .keyboard => { t with keyboard := t.keyboard.put attended d }
  | .console => t
  | .lineA => { t with lineA := t.lineA.put attended d }
  | .lineB => { t with lineB := t.lineB.put attended d }

/-- SET_ROUTE (R75). -/
def cmdSetRoute (p : List Byte) (s : State) : Reply :=
  withArgs readRoute p s fun (o, attended, d) =>
    .ok { s with fqm := { s.fqm with routes := s.fqm.routes.put o attended d } } []

def execSetRoute (p : List Byte) (s : State) : Host.Outcome State Fault Refusal :=
  .next (consoleRow .setRoute cmdSetRoute p s)

/-- The line's framing may change (R81). -/
def framingFree (s : State) (l : LineId) : Bool :=
  decide ((s.framerOf l).phase = .idle) && (s.selector l).grant.isNone && (s.selector l).cutoff.isNone
    && !s.stm.episode.get l

/-- SET_FRAMING (R81). -/
def cmdSetFraming (p : List Byte) (s : State) : Reply :=
  withArgs readFraming p s fun (l, f) =>
    if framingFree s l then .ok { s with fqm := { s.fqm with framing := s.fqm.framing.set l f } } []
    else .refuse s .wrongState

def execSetFraming (p : List Byte) (s : State) : Host.Outcome State Fault Refusal :=
  .next (consoleRow .setFraming cmdSetFraming p s)

/-! ## The message gap and the SEND grant (R86, R89 to R92) -/

/-- MESSAGE_GAP_EXPIRY (R86). -/
def messageGapExpiry (l : LineId) (s : State) : State :=
  if (s.csv l).state = .running ∧ isDue (s.framerOf l).gap = true then settleLine (framerEnd s l) l else s

def execMessageGapExpiry (l : LineId) (s : State) : Host.Outcome State Fault Refusal := .next (messageGapExpiry l s)

/-- A choice can be made: no grant, no cut-off sequence, a ready line, and no end of call begun (R89, R90, R108, log
entry 29). -/
def choiceOpen (s : State) (l : LineId) : Bool :=
  (s.selector l).grant.isNone && (s.selector l).cutoff.isNone && lineReady s l && !(s.csv l).ending

/-- SEND_GRANT (R89 to R92). -/
def sendGrant (l : LineId) (s : State) : State :=
  if choiceOpen s l then
    match firstLive s l with
    | some e => settleLine (grantLive s l e.1 e.2) l
    | none =>
      if storedAllowed s l && !storedHeldBack s l then
        let s := defer s l
        match firstFit s l with
        | some e => settleLine (grantStored s l e.1 e.2) l
        | none => s
      else s
  else s

def execSendGrant (l : LineId) (s : State) : Host.Outcome State Fault Refusal := .next (sendGrant l s)

end Sys2Proof.Machine
end

