-- ==== Sys2Proof/Machine/Restart.lean ====
section
/-! DEFINITION. RESTART: every block's own rule in one step (R192). -/

namespace Sys2Proof.Machine

open Sys2Proof

/-! ## The store, the framers and the selectors (R73, R94) -/

/-- One send attempt more for a SEND grant that ended, saturating at 255 (R73, R93). -/
def attemptAfter (granted : Bool) (n : Nat) : Nat := if granted then min (n + 1) 255 else n

/-- A record after the grants, cursors and closes of R73; text broken off is marked. -/
def restartRecord (r : Rec) : Rec :=
  let spoiled := r.dests.out.punch && decide (0 < r.cursor.punch)
  let resumed := r.dests.out.print && decide (0 < r.cursor.print)
  let cut := decide (r.state = .opened) && decide (r.origin ≠ .keyboard)
  { r with
    state := if r.state = .opened then .closed else r.state
    grants := Four.no
    stops := Four.no
    attempts := ⟨attemptAfter r.grants.sendA r.attempts.a, attemptAfter r.grants.sendB r.attempts.b⟩
    cursor := ⟨r.cursor.print, if spoiled then 0 else r.cursor.punch, 0, 0⟩
    flags := { r.flags with truncated := r.flags.truncated || cut, punchSpoiled := r.flags.punchSpoiled || spoiled
                            printResume := r.flags.printResume || resumed } }

/-- The indices of the directory. -/
def indices : List Nat := List.range Config.records

/-- A record just closed joins its SEND queues; one already there stays (R78). -/
def joinSends (s : State) (i : Nat) : State :=
  match s.record i with
  | none => s
  | some r =>
    match r.state with
    | .closed =>
      let s := if r.dests.out.sendA then enqueue s .sendA i else s
      if r.dests.out.sendB then enqueue s .sendB i else s
    | .opened | .cancelled => s

/-- The store at RESTART (R73); records are closed and released in index order (log entry 34). -/
def restartStore (s : State) : State :=
  let s := indices.foldl joinSends (s.onRecords fun _ r => restartRecord r)
  let s := indices.foldl releaseIfDone s
  evalLow { s with stm := { s.stm with reservation := ⟨0, 0⟩, episode := ⟨false, false⟩, lineLink := ⟨none, none⟩,
                                       kbLink := none, lineOwed := ⟨none, none⟩, kbOwed := none } }

/-- Framers and selectors at RESTART (R94). -/
def restartFraming (s : State) : State :=
  { s with fqm := { s.fqm with framer := ⟨.idle, .idle⟩, sel := ⟨.idle, .idle⟩ } }

/-! ## Lines (R38, R50, R118, R131) -/

/-- A line unit before its new mode: a character on the transmitter is abandoned, and the receiver's work is dropped
(R50). -/
def restartUnit (s : State) (l : LineId) : State :=
  (s.abandonTx l).onRx l fun r =>
    { r with mode := .off, sub := .hunting false false, watchSeen := false, age := Config.counterMax }

/-- The state a supervisor enters (R118). -/
def restartState (s : State) (l : LineId) : State :=
  match (s.csv l).state with
  | .disabled => s
  | .running | .fault => enterRunning s l
  | .free | .incoming | .answering | .refusing | .calling | .selecting | .awaitConnect | .connected | .clearing
  | .guard => enterGuard (s.onCsv l fun c => { c with lastClear := .restart }) l

/-- A supervisor and its exchange engine at RESTART (R118, R131). -/
def restartSupervisor (s : State) (l : LineId) : State :=
  let s := (abandonExchange s l).onCsv l fun c =>
    { c with timers := .stopped, abActive := false, ending := false, phase := .none, captured := []
             exch := { c.exch with half := false, offerTimer := none, pageTimer := none, together := false } }
  restartState s l

/-! ## Keyboard, printer, punch, motors (R144, R162, R175, R181) -/

/-- The keyboard's part of RESTART (R144). That the repeat is spent where none was running is a DESIGN CHOICE (unsafe,
log entry 68). -/
def Keyboard.restart (k : Keyboard) : Keyboard :=
  { k with fifo := [], repeatTimer := none, repeatSpent := true, urgentPending := false, storeFull := false
           inputAge := Config.counterMax, bell := none }

def Printer.restart (x : Printer) : Printer :=
  { x with op := none, abandoned := (x.op.map (·.2)) <|> x.abandoned, grant := none, fault := false, owedCr := true
           yieldTimer := none, starved := false, passOver := none }

def Punch.restart (x : Punch) : Punch :=
  { x with op := none, abandoned := (x.op.map (·.2)) <|> x.abandoned, grant := none, fault := false }

def Motor.restart (m : Motor) : Motor := { m.forced with hold := false, prestartA := false, prestartB := false }

/-- Every block's RESTART rule, and the latches cleared in the same step (R192). -/
def restartPart (s : State) : State :=
  let s := restartFraming (restartStore s)
  let s := restartUnit (restartUnit s .A) .B
  let s := ((s.forgetShifts .A).forgetShifts .B).setTape .unknown
  let s := { s with kbs := s.kbs.restart, prc := s.prc.restart, puc := s.puc.restart
                    mtc := ⟨s.mtc.print.restart, s.mtc.punch.restart⟩ }
  let s := settle (restartSupervisor (restartSupervisor s .A) .B)
  s.onCpe fun c => { c with latches := 0 }

/-- RESTART (R192). -/
def cmdRestart (p : List Byte) (s : State) : Reply := withArgs readNone p s fun _ => .ok (restartPart s) []

def execRestart (p : List Byte) (s : State) : Host.Outcome State Fault Refusal :=
  .next (consoleRow .restart cmdRestart p s)

end Sys2Proof.Machine
end

