-- ==== Sys2Proof/Machine/StoreRows.lean ====
section
/-! DEFINITION. The store manager's commands (chapter 4). -/

namespace Sys2Proof.Machine

open Sys2Proof

/-! ## Writing (R66 to R68) -/

def isOpenConsole (r : Rec) : Bool := decide (r.origin = .console) && decide (r.state = .opened)

/-- The console-origin records that are OPEN. -/
def openConsole (s : State) : Nat := s.entries.countP fun e => isOpenConsole e.2

/-- MSG_CREATE (R57, R66). -/
def cmdMsgCreate (p : List Byte) (s : State) : Reply :=
  withArgs readCreate p s fun (dests, urgent) =>
    if 4 ≤ openConsole s then .refuse s .wrongState
    else
      match openRecord s .console ⟨urgent, dests, false, false, false, none, none⟩ with
      | none => .refuse s .storeFull
      | some (i, s') => .ok s' (e1 i ++ e2 (s.stm.nextNum.get .console))

def execMsgCreate (p : List Byte) (s : State) : Host.Outcome State Fault Refusal :=
  .next (consoleRow .msgCreate cmdMsgCreate p s)

/-- Where MSG_APPEND stands: the state, the record that holds the last character, the characters accepted, and the
continuation owed after a split (R67). -/
structure Appending where
  st : State
  index : Nat
  count : Nat
  owed : Option OpenSpec

/-- The command stops at a character it cannot store (R67). -/
def Appending.full (a : Appending) : Reply := ⟨settleAll a.st, .storeFull, e1 a.count ++ e1 a.index⟩

/-- Split the record when it is at the limit (R59). -/
def Appending.split (a : Appending) : Appending :=
  if a.owed.isNone && atLimit a.st a.index then
    { a with st := splitRecord a.st .console a.index, owed := (a.st.record a.index).map continuationOf }
  else a

/-- Open the continuation owed; none when its open fails (R67). -/
def Appending.continue (a : Appending) : Option Appending :=
  match a.owed with
  | none => some a
  | some spec =>
    match openRecord a.st .console spec with
    | none => none
    | some (j, s) => some { a with st := s, index := j, owed := none }

/-- The characters in order (R58, R59, R67). -/
def appendLoop (a : Appending) : List Chr → Reply
  | [] =>
    match a.continue with
    | none => a.full
    | some a => .ok (settleAll a.st) (e1 a.count ++ e1 a.index)
  | c :: cs =>
    if c = 0 then appendLoop { a with count := a.count + 1 } cs
    else
      let a := a.split
      match a.continue with
      | none => a.full
      | some a =>
        match appendRaw a.st .console a.index c false with
        | none => a.full
        | some s => appendLoop ({ a with st := s, count := a.count + 1 } : Appending).split cs

/-- MSG_APPEND (R67). -/
def cmdMsgAppend (p : List Byte) (s : State) : Reply :=
  withArgs readAppend p s fun (i, t) =>
    match s.record i with
    | none => .refuse s .noRecord
    | some r => if isOpenConsole r then appendLoop ⟨s, i, 0, none⟩ t else .refuse s .wrongState

def execMsgAppend (p : List Byte) (s : State) : Host.Outcome State Fault Refusal :=
  .next (consoleRow .msgAppend cmdMsgAppend p s)

/-- MSG_CLOSE (R68). -/
def cmdMsgClose (p : List Byte) (s : State) : Reply :=
  withArgs readOneIndex p s fun i =>
    match s.record i with
    | none => .refuse s .noRecord
    | some r =>
      if isOpenConsole r then .ok (settleAll (closeRecord s i true)) (e2 r.number ++ e2 r.length)
      else .refuse s .wrongState

def execMsgClose (p : List Byte) (s : State) : Host.Outcome State Fault Refusal :=
  .next (consoleRow .msgClose cmdMsgClose p s)

/-! ## Reading (R69) -/

/-- The characters of a record from an offset. -/
def textOf (s : State) (r : Rec) (offset count : Nat) : List Chr :=
  (List.range count).map fun k => readChar s r (offset + k)

/-- MSG_READ; the number of characters is their count byte (R69, R184, log entry 46). -/
def cmdMsgRead (p : List Byte) (s : State) : Reply :=
  withArgs readRead p s fun (i, offset, count) =>
    match s.record i with
    | none => .refuse s .noRecord
    | some r =>
      if r.length < offset then .refuse s .badArgument
      else .ok s (eText (textOf s r offset (min count (r.length - offset))))

def execMsgRead (p : List Byte) (s : State) : Host.Outcome State Fault Refusal :=
  .next (consoleRow .msgRead cmdMsgRead p s)

def eFlags (f : RecFlags) : List Byte :=
  eSet [f.truncated, f.errored, f.split, f.continuation, f.liveA, f.liveB, f.printResume, f.punchSpoiled]

/-- The stamps present: a set of queues, then each stamp (log entry 8). -/
def eStamps (x : Four (Option Nat)) : List Byte :=
  eSet [x.print.isSome, x.punch.isSome, x.sendA.isSome, x.sendB.isSome]
    ++ [x.print, x.punch, x.sendA, x.sendB].flatMap fun v => match v with
      | some n => e4 n
      | none => []

def eRecord (r : Rec) : List Byte :=
  e1 r.state.code ++ e1 r.origin.code ++ e2 r.number ++ eBool r.urgent ++ e2 r.length ++ e2 r.chain.length
    ++ e2 (r.chain.headD 0) ++ eDests r.dests ++ eFour r.grants ++ eFour r.stops ++ e2 r.cursor.print
    ++ e2 r.cursor.punch ++ e2 r.cursor.sendA ++ e2 r.cursor.sendB ++ e1 r.attempts.a ++ e1 r.attempts.b
    ++ eFlags r.flags ++ eField (r.sender.map eText) ++ eField (r.remoteNumber.map e2) ++ eField (r.serial.map e2)
    ++ eStamps r.stamp

/-- MSG_INFO (R69). -/
def cmdMsgInfo (p : List Byte) (s : State) : Reply :=
  withArgs readOneIndex p s fun i =>
    .ok s (match s.record i with
      | none => e1 0
      | some r => eRecord r)

def execMsgInfo (p : List Byte) (s : State) : Host.Outcome State Fault Refusal :=
  .next (consoleRow .msgInfo cmdMsgInfo p s)

/-! ## Deleting (R65) -/

/-- An OPEN or CLOSED record is emptied of destinations, leaves every queue, has its grants stopped, loses its writer and
becomes CANCELLED, and is released when no grant is left (R65). -/
def cancelRecord (s : State) (i : Nat) : State :=
  let s := s.onRecord i fun r =>
    { r with state := .cancelled, dests := .empty, stamp := Four.all none, stops := r.grants }
  releaseIfDone (settleSequence (unlink s i)) i

/-- MSG_DELETE (R65). -/
def cmdMsgDelete (p : List Byte) (s : State) : Reply :=
  withArgs readOneIndex p s fun i =>
    match s.record i with
    | none => .refuse s .noRecord
    | some r => if r.state = .cancelled then .ok s [] else .ok (settleAll (cancelRecord s i)) []

def execMsgDelete (p : List Byte) (s : State) : Host.Outcome State Fault Refusal :=
  .next (consoleRow .msgDelete cmdMsgDelete p s)

/-! ## The store as a whole (R70 to R72) -/

def RecState.count (s : State) (x : RecState) : Nat := s.entries.countP fun e => decide (e.2.state = x)

/-- STORE_STATUS; the OPEN records in index order, each with its origin (R71, log entry 47). -/
def cmdStoreStatus (p : List Byte) (s : State) : Reply :=
  withArgs readNone p s fun _ =>
    let m := s.stm
    let opens := s.entries.filter fun e => decide (e.2.state = .opened)
    .ok { s with stm := { m with discarded := ⟨0, 0⟩ } }
      (e2 m.free.length ++ eOpt e2 m.free.head? ++ e2 m.reservation.a ++ e2 m.reservation.b ++ e2 (unreserved m)
        ++ eBool m.low ++ e1 (Config.records - s.entries.length) ++ e1 (RecState.count s .opened)
        ++ e1 (RecState.count s .closed) ++ e1 (RecState.count s .cancelled)
        ++ e1 opens.length ++ opens.flatMap (fun e => e1 e.1 ++ e1 e.2.origin.code)
        ++ e2 m.nextNum.keyboard ++ e2 m.nextNum.console ++ e2 m.nextNum.lineA ++ e2 m.nextNum.lineB
        ++ eBool m.episode.a ++ eBool m.episode.b ++ e2 m.discarded.a ++ e2 m.discarded.b
        ++ e2 m.cfg.maxMsgLen ++ e2 m.cfg.storeLow ++ eBool m.cfg.clearOnFull)

def execStoreStatus (p : List Byte) (s : State) : Host.Outcome State Fault Refusal :=
  .next (consoleRow .storeStatus cmdStoreStatus p s)

/-- The store emptied (R72); U's rise clears the keyboard's store-full flag (R139). -/
def clearStore (s : State) : State :=
  let t : State :=
    { s with stm := { s.stm with recs := List.replicate Config.records none, free := List.range Config.blocks }
             fqm := { s.fqm with seq := 0 } }
  if unreserved s.stm < unreserved t.stm then unreservedRose t else evalLow t

/-- STORE_CLEAR (R72). -/
def cmdStoreClear (p : List Byte) (s : State) : Reply :=
  withArgs readNone p s fun _ =>
    if s.entries.any fun e => decide (e.2.state = .opened) || e.2.grants.any then .refuse s .wrongState
    else .ok (settle (clearStore s)) []

def execStoreClear (p : List Byte) (s : State) : Host.Outcome State Fault Refusal :=
  .next (consoleRow .storeClear cmdStoreClear p s)

/-- SET_STORE (R54, R70). -/
def cmdSetStore (p : List Byte) (s : State) : Reply :=
  withArgs readSetStore p s fun c => .ok (evalLow { s with stm := { s.stm with cfg := c } }) []

def execSetStore (p : List Byte) (s : State) : Host.Outcome State Fault Refusal :=
  .next (consoleRow .setStore cmdSetStore p s)

end Sys2Proof.Machine
end

