-- ==== Sys2Proof/Machine/Supervision.lean ====
section
/-! DEFINITION. The call supervisors' commands and timers (chapter 6). -/

namespace Sys2Proof.Machine

open Sys2Proof

/-! ## Commands -/

/-- SET_IDENTITY (R95). -/
def cmdSetIdentity (p : List Byte) (s : State) : Reply :=
  withArgs readIdentity p s fun t => .ok { s with identity := if t = [] then none else some t } []

def execSetIdentity (p : List Byte) (s : State) : Host.Outcome State Fault Refusal :=
  .next (consoleRow .setIdentity cmdSetIdentity p s)

/-- SET_SUPERVISION (R96). -/
def cmdSetSupervision (p : List Byte) (s : State) : Reply :=
  withArgs readSupervision p s fun (l, v) => .ok (s.onCsv l fun c => { c with values := v }) []

def execSetSupervision (p : List Byte) (s : State) : Host.Outcome State Fault Refusal :=
  .next (consoleRow .setSupervision cmdSetSupervision p s)

/-- The receiver hunts on mark (R112). -/
def Receiver.huntsOnMark (r : Receiver) : Bool :=
  decide (r.mode = .framing) && decide (r.last = .mark) &&
    match r.sub with
    | .hunting _ _ => true
    | .character _ | .spaceHeld _ | .blanked => false

/-- A switched line is seized: the connection starts, mark is ordered, CALL_CONFIRM_S runs and the receiver frames; mark
already there is the call confirmation (R98, R111, R112). -/
def enterCalling (s : State) (a : CallArgs) : State :=
  let l := a.line
  let s := connectionStart (s.enterSup l .calling) l .outgoing a.digits
    (if a.expected = [] then none else some a.expected) a.matchLen
  let s := s.onCsv l fun c =>
    { c with phase := .confirmWait, timers := { c.timers with callConfirm := some (1000 * c.values.callConfirmS) } }
  let s := (s.order l .mark).onRx l Receiver.frame
  if (s.unit l).rx.huntsOnMark then callConfirmed s l else s

/-- CALL (R111). -/
def cmdCall (p : List Byte) (s : State) : Reply :=
  withArgs readCall p s fun a =>
    if (s.unit a.line).cfg.lineType = .switched ∧ (s.csv a.line).state = .free then
      let s := enterCalling s a
      .ok s (e2 (s.csv a.line).callCount)
    else .refuse s .wrongState

def execCall (p : List Byte) (s : State) : Host.Outcome State Fault Refusal := .next (consoleRow .call cmdCall p s)

/-- CLEAR_CALL is taken in these states (R116). -/
def SupState.clearable : SupState → Bool
  | .incoming | .answering | .refusing | .calling | .selecting | .awaitConnect | .connected => true
  | .disabled | .free | .clearing | .guard | .running | .fault => false

/-- CLEAR_CALL (R116). -/
def cmdClearCall (p : List Byte) (s : State) : Reply :=
  withArgs readOneLine p s fun l =>
    if (s.csv l).state.clearable then .ok (settleLine (enterClearing s l .localClear) l) []
    else .refuse s .wrongState

def execClearCall (p : List Byte) (s : State) : Host.Outcome State Fault Refusal :=
  .next (consoleRow .clearCall cmdClearCall p s)

/-- The time left on the supervisor's running timer, if any (R97); where several run, on one of them, left free (log
entry 9). The prestarts are the motors'. -/
def SupTimers.shown (t : SupTimers) : Option Nat :=
  let all := [t.recognize, t.clearRecognize, t.confirm, t.clearConfirm, t.guard, t.callConfirm, t.proceed, t.connect,
    t.quiet, t.capture, t.idle, t.fault, t.recovery]
  match all.filterMap id with
  | [] => none
  | [n] => some n
  | n :: m :: more => (n :: m :: more)[Config.shownTimer all % (more.length + 2)]?

def ePage (p : List Comb) : List Byte := p.map (·.setWidth 8)

/-- The exchange record, in the order of R120. -/
def eExchange (x : Exchange) : List Byte :=
  e1 x.sub.code ++ eField (x.own.map eAbilities) ++ eField (x.remoteAb.map eAbilities) ++ eAbilities x.agreed
    ++ eOpt e2 x.ownAccept ++ eOpt e2 x.remoteAccept ++ eField (x.lastSent.map ePage)
    ++ eField (x.lastReceived.map ePage) ++ e1 x.cause.code ++ e1 x.blankRun ++ e1 x.held.length ++ ePage x.held
    ++ eBool x.pageTwo

def Acceptance.amount : Acceptance → Option Nat
  | .unlimited => none
  | .blocks n => some n

/-- CALL_STATUS (R97). -/
def cmdCallStatus (p : List Byte) (s : State) : Reply :=
  withArgs readOneLine p s fun l =>
    let c := s.csv l
    .ok s (e1 c.state.code ++ e1 c.direction.code ++ e2 c.callCount ++ eText c.digits ++ eOptText c.expected
      ++ e1 c.matchLen ++ eOptText c.remote ++ eText c.progress ++ eExchange c.exch ++ e2 (s.stm.reservation.get l)
      ++ eOpt e2 c.remaining.amount ++ eOpt e1 (s.stm.lineLink.get l)
      ++ eOpt e1 ((s.selector l).grant.map (·.index)) ++ e1 c.lastClear.code ++ e1 c.refusal.code ++ eBool c.abActive
      ++ eBool c.ending ++ e1 (s.unit l).cfg.lineType.code ++ eOpt e4 c.timers.shown)

def execCallStatus (p : List Byte) (s : State) : Host.Outcome State Fault Refusal :=
  .next (consoleRow .callStatus cmdCallStatus p s)

/-! ## Incoming calls (R101 to R103) -/

/-- The admission check: none when it passes (R102). -/
def admission (s : State) (l : LineId) : RefusalCause :=
  if s.identity.isNone then .noIdentity
  else if (s.csv l).values.answerEnable = false then .answerOff
  else if unreserved s.stm < (s.csv l).values.acceptMin then .storeLow
  else if (freeIndex s).isNone then .noIndex
  else .none

/-- Enter REFUSING with its cause (R100, R102). -/
def enterRefusing (s : State) (l : LineId) (why : RefusalCause) : State :=
  ((s.enterSup l .refusing).onCsv l fun c => { c with refusal := why }).latch (stateEvent l)

/-- CALL_RECOGNIZE_EXPIRY (R102, R103). -/
def callRecognizeExpiry (l : LineId) (s : State) : State :=
  if (s.csv l).state = .incoming ∧ isDue (s.csv l).timers.recognize = true then
    match admission s l with
    | .none => settle (enterAnswering s l)
    | .noIdentity => enterRefusing s l .noIdentity
    | .answerOff => enterRefusing s l .answerOff
    | .storeLow => enterRefusing s l .storeLow
    | .noIndex => enterRefusing s l .noIndex
  else s

def execCallRecognizeExpiry (l : LineId) (s : State) : Host.Outcome State Fault Refusal :=
  .next (callRecognizeExpiry l s)

/-- CONFIRM_EXPIRY (R103). -/
def confirmExpiry (l : LineId) (s : State) : State :=
  if (s.csv l).state = .answering ∧ isDue (s.csv l).timers.confirm = true then settleLine (enterConnected s l true) l
  else s

def execConfirmExpiry (l : LineId) (s : State) : Host.Outcome State Fault Refusal := .next (confirmExpiry l s)

def SupTimers.prep (t : SupTimers) : Mech → Option Nat
  | .print => t.prepPrint
  | .punch => t.prepPunch

def SupTimers.endPrep (t : SupTimers) : Mech → SupTimers
  | .print => { t with prepPrint := none }
  | .punch => { t with prepPunch := none }

/-- PREP_EXPIRY: the line's prestart leaves the motor's request sources (R103, R177). -/
def prepExpiry (l : LineId) (k : Mech) (s : State) : State :=
  if isDue ((s.csv l).timers.prep k) = true then
    settle ((s.onTimers l fun t => t.endPrep k).onMotor k fun m => m.setPrestart l false)
  else s

def execPrepExpiry (l : LineId) (k : Mech) (s : State) : Host.Outcome State Fault Refusal := .next (prepExpiry l k s)

/-! ## Clearing and guard (R105, R109, R110) -/

/-- CLEAR_RECOGNIZE_EXPIRY (R102, R105). -/
def clearRecognizeExpiry (l : LineId) (s : State) : State :=
  if isDue (s.csv l).timers.clearRecognize = true then
    match (s.csv l).state with
    | .refusing => enterGuard s l
    | .answering | .calling | .selecting | .awaitConnect | .connected => settleLine (enterClearing s l .remoteClear) l
    | .disabled | .free | .incoming | .clearing | .guard | .running | .fault => s
  else s

def execClearRecognizeExpiry (l : LineId) (s : State) : Host.Outcome State Fault Refusal :=
  .next (clearRecognizeExpiry l s)

/-- CLEAR_CONFIRM_EXPIRY (R109). -/
def clearConfirmExpiry (l : LineId) (s : State) : State :=
  if (s.csv l).state = .clearing ∧ isDue (s.csv l).timers.clearConfirm = true then settleLine (clearConfirmed s l) l
  else s

def execClearConfirmExpiry (l : LineId) (s : State) : Host.Outcome State Fault Refusal := .next (clearConfirmExpiry l s)

/-- GUARD_EXPIRY (R110). -/
def guardExpiry (l : LineId) (s : State) : State :=
  if (s.csv l).state = .guard ∧ isDue (s.csv l).timers.guard = true then enterFree s l else s

def execGuardExpiry (l : LineId) (s : State) : Host.Outcome State Fault Refusal := .next (guardExpiry l s)

/-! ## Outgoing calls (R108, R112 to R115) -/

/-- CALL_CONFIRM_EXPIRY (R112). -/
def callConfirmExpiry (l : LineId) (s : State) : State :=
  if (s.csv l).state = .calling ∧ isDue (s.csv l).timers.callConfirm = true then
    settleLine (enterClearing s l .confirmTimeout) l
  else s

def execCallConfirmExpiry (l : LineId) (s : State) : Host.Outcome State Fault Refusal := .next (callConfirmExpiry l s)

/-- PROCEED_EXPIRY (R112). -/
def proceedExpiry (l : LineId) (s : State) : State :=
  if (s.csv l).state = .calling ∧ isDue (s.csv l).timers.proceed = true then
    settleLine (enterClearing s l .proceedTimeout) l
  else s

def execProceedExpiry (l : LineId) (s : State) : Host.Outcome State Fault Refusal := .next (proceedExpiry l s)

/-- CONNECT_EXPIRY (R114). -/
def connectExpiry (l : LineId) (s : State) : State :=
  if (s.csv l).state = .awaitConnect ∧ isDue (s.csv l).timers.connect = true then
    settleLine (enterClearing s l .connectTimeout) l
  else s

def execConnectExpiry (l : LineId) (s : State) : Host.Outcome State Fault Refusal := .next (connectExpiry l s)

/-- PROGRESS_QUIET_EXPIRY (R114). -/
def progressQuietExpiry (l : LineId) (s : State) : State :=
  if (s.csv l).state = .awaitConnect ∧ (s.csv l).phase = .progress true ∧ isDue (s.csv l).timers.quiet = true then
    settleLine (placeWru s l) l
  else s

def execProgressQuietExpiry (l : LineId) (s : State) : Host.Outcome State Fault Refusal :=
  .next (progressQuietExpiry l s)

/-- CAPTURE_QUIET_EXPIRY (R115). -/
def captureQuietExpiry (l : LineId) (s : State) : State :=
  if (s.csv l).phase = .capturing ∧ isDue (s.csv l).timers.capture = true then settleLine (captureEnd s l) l else s

def execCaptureQuietExpiry (l : LineId) (s : State) : Host.Outcome State Fault Refusal := .next (captureQuietExpiry l s)

/-- IDLE_TIMEOUT_EXPIRY (R106). -/
def idleTimeoutExpiry (l : LineId) (s : State) : State :=
  if (s.csv l).state = .connected ∧ isDue (s.csv l).timers.idle = true then settleLine (enterClearing s l .idle) l
  else s

def execIdleTimeoutExpiry (l : LineId) (s : State) : Host.Outcome State Fault Refusal := .next (idleTimeoutExpiry l s)

/-- The five conditions of the end of an outgoing call (R108). -/
def callDone (s : State) (l : LineId) : Bool :=
  let c := s.csv l
  decide (c.state = .connected) && decide (c.direction = .outgoing) && c.exch.sub.isOver && nothingSendable s l
    && decide ((s.framerOf l).phase = .idle)
    && !(s.entries.any fun e => decide (e.2.state = .opened) && e.2.live l) && !c.ending

/-- OUTGOING_CALL_END (R108). -/
def outgoingCallEnd (l : LineId) (s : State) : State :=
  if callDone s l then
    let s := s.onCsv l fun c => { c with ending := true }
    settleLine (if (s.csv l).values.endWru then placeWru s l else enterClearing s l .done) l
  else s

def execOutgoingCallEnd (l : LineId) (s : State) : Host.Outcome State Fault Refusal := .next (outgoingCallEnd l s)

/-! ## Private lines (R117) -/

/-- PRIVATE_FAULT_EXPIRY (R117). -/
def privateFaultExpiry (l : LineId) (s : State) : State :=
  if (s.csv l).state = .running ∧ isDue (s.csv l).timers.fault = true then settleLine (enterFault s l) l else s

def execPrivateFaultExpiry (l : LineId) (s : State) : Host.Outcome State Fault Refusal := .next (privateFaultExpiry l s)

/-- PRIVATE_RECOVERY_EXPIRY (R117, R119). -/
def privateRecoveryExpiry (l : LineId) (s : State) : State :=
  if (s.csv l).state = .fault ∧ isDue (s.csv l).timers.recovery = true then
    settleLine ((enterRunning s l).latch (stateEvent l)) l
  else s

def execPrivateRecoveryExpiry (l : LineId) (s : State) : Host.Outcome State Fault Refusal :=
  .next (privateRecoveryExpiry l s)

end Sys2Proof.Machine
end

