-- ==== Sys2Proof/Machine/TimebaseRows.lean ====
section
/-! DEFINITION. The timebase unit's commands and steps (chapter 2), and the millisecond tick that every timer counts. -/

namespace Sys2Proof.Machine

open Sys2Proof

def State.onTbu (s : State) (f : Timebase → Timebase) : State := { s with tbu := f s.tbu }

/-! ## SET_TIMEBASE, TIMEBASE_STATUS, STANDBY -/

/-- Begin a qualification on the fast internal oscillator (R17, R18, R30). -/
def beginQualifying (s : State) : State :=
  s.onTbu fun t =>
    { t with state := .qualifying, tickDivisor := Config.fastDivisor, calActive := false, calTimer := none }

/-- SET_TIMEBASE (R17, R25). -/
def cmdSetTimebase (p : List Byte) (s : State) : Reply :=
  withArgs readTimebase p s fun (src, f) =>
    let s := s.onTbu fun t => { t with fRef := if f = 0 then t.fRef else f, reason := .none }
    let s := match src with
      | .reference => beginQualifying s
      | .internal => s.onTbu fun t =>
        { t with state := .internal, tickDivisor := Config.fastDivisor, calActive := false, calTimer := none }
    .ok s.recomputeBoth []

def execSetTimebase (p : List Byte) (s : State) : Host.Outcome State Fault Refusal :=
  .next (consoleRow .setTimebase cmdSetTimebase p s)

/-- TIMEBASE_STATUS; the increments and errors come line by line (R15, R16, log entry 43). -/
def cmdTimebaseStatus (p : List Byte) (s : State) : Reply :=
  withArgs readNone p s fun _ =>
    let t := s.tbu
    .ok s (e1 t.state.code ++ e4 t.fRef ++ e1 t.exitSource.code ++ e1 t.reason.code ++ e4 t.lastCount ++ e4 t.fIntEst
      ++ e2 t.calKept ++ e2 t.calDiscarded ++ e2 t.tickDivisor ++ e1 t.wakeCause.code
      ++ e4 t.inc.a ++ eInt2 t.rateError.a ++ e4 t.inc.b ++ eInt2 t.rateError.b)

def execTimebaseStatus (p : List Byte) (s : State) : Host.Outcome State Fault Refusal :=
  .next (consoleRow .timebaseStatus cmdTimebaseStatus p s)

/-- A line lets the part enter standby; a space that has reached the pin of a RUNNING line is a change before the check,
sampled by a line tick or not (R26, log entry 37). -/
def lineQuiet (s : State) (l : LineId) : Bool :=
  let u := s.unit l
  (match (s.csv l).state with
    | .disabled | .free | .fault => true
    | .running =>
      (match u.rx.sub with
        | .hunting _ seen => !seen
        | .character _ | .spaceHeld _ | .blanked => false)
      && decide (u.rx.mode = .framing) && decide (u.rx.last = .mark) && decide (u.rx.pin = .mark)
      && decide (1000 ≤ u.rx.age)
    | .incoming | .answering | .refusing | .calling | .selecting | .awaitConnect | .connected | .clearing
    | .guard => false)
  && decide (u.tx.state = .idle) && (s.selector l).grant.isNone

/-- Everything else lets the part enter standby (R26). -/
def blocksQuiet (s : State) : Bool :=
  s.kbs.fifo.isEmpty && s.prc.grant.isNone && s.prc.op.isNone && s.prc.abandoned.isNone && s.puc.grant.isNone
    && s.puc.op.isNone && s.puc.abandoned.isNone
    && !(s.entries.any fun e => decide (e.2.origin = .console) && decide (e.2.state = .opened))

/-- A RUNNING private line's receiver enters WATCH with standby (R49). -/
def enterWatch (s : State) (l : LineId) : State :=
  if (s.csv l).state = .running then s.onRx l Receiver.watch else s

/-- Standby entry as one step (R27, R135, R181). That the repeat is spent where none was running is a DESIGN CHOICE
(unsafe, log entry 68). -/
def standbyEntry (exit : TbSource) (s : State) : State :=
  let s := s.onTbu fun t =>
    { t with state := .standby, exitSource := exit, calActive := false, calTimer := none
             tickDivisor := Config.slowDivisor }
  let s := { s with mtc := ⟨s.mtc.print.forced, s.mtc.punch.forced⟩ }
  let s := s.onKbs fun k => { k with repeatTimer := none, repeatSpent := true }
  enterWatch (enterWatch s .A) .B

/-- STANDBY (R26, R27). -/
def cmdStandby (p : List Byte) (s : State) : Reply :=
  withArgs readStandby p s fun exit =>
    if s.tbu.state = .qualifying ∨ (exit = .reference ∧ s.tbu.fRef = 0) then .refuse s .wrongState
    else if lineQuiet s .A && lineQuiet s .B && blocksQuiet s then .ok (standbyEntry exit s) []
    else .refuse s .wrongState

def execStandby (p : List Byte) (s : State) : Host.Outcome State Fault Refusal :=
  .next (consoleRow .standby cmdStandby p s)

/-! ## Qualification, reference monitor, calibration -/

/-- The count lies within a twentieth of the expected count (R18). -/
def countAccepted (fRef count : Nat) : Bool := decide (20 * (128 * (count : Int) - (fRef : Int)).natAbs ≤ fRef)

/-- QUALIFICATION_END (R18). -/
def qualificationEnd (count : Nat) (s : State) : State :=
  if s.tbu.state ≠ .qualifying then s
  else
    let s := s.onTbu fun t => { t with lastCount := min count 1048575 }
    let s := if countAccepted s.tbu.fRef count then
        (s.onTbu fun t =>
          { t with state := .reference, reason := .accepted, tickDivisor := roundDiv t.fRef 1000, calActive := true
                   calTimer := some Config.calibrationMs }).recomputeBoth
      else s.onTbu fun t => { t with state := .internal, reason := .rejected }
    s.latch .timebase

def execQualificationEnd (count : Nat) (s : State) : Host.Outcome State Fault Refusal := .next (qualificationEnd count s)

/-- REFERENCE_LOST (R19). -/
def referenceLost (s : State) : State :=
  if s.tbu.state ≠ .reference then s
  else
    let s := s.onTbu fun t =>
      { t with state := .degraded, reason := .lost, tickDivisor := Config.fastDivisor
               calDiscarded := if t.calActive then bump t.calDiscarded else t.calDiscarded
               calActive := false, calTimer := none }
    s.recomputeBoth.latch .timebase

def execReferenceLost (s : State) : Host.Outcome State Fault Refusal := .next (referenceLost s)

/-- CALIBRATION_START (R20). -/
def execCalibrationStart (s : State) : Host.Outcome State Fault Refusal :=
  .next (if s.tbu.state = .reference ∧ isDue s.tbu.calTimer = true then
      s.onTbu fun t => { t with calActive := true, calTimer := some Config.calibrationMs }
    else s)

/-- round(N_INT x F_REF / 65,536) (R20). -/
def estimate (fRef nInt : Nat) : Nat := roundDiv (nInt * fRef) 65536

/-- CALIBRATION_END (R20). -/
def execCalibrationEnd (nInt : Nat) (s : State) : Host.Outcome State Fault Refusal :=
  .next (if s.tbu.state = .reference ∧ s.tbu.calActive = true then
      s.onTbu fun t =>
        let e := estimate t.fRef nInt
        if Config.fIntLow ≤ e ∧ e ≤ Config.fIntHigh then
          { t with calActive := false, fIntEst := e, calKept := bump t.calKept }
        else { t with calActive := false, calDiscarded := bump t.calDiscarded }
    else s)

/-- A receiver in WATCH enters FRAMING when line ticks resume (R49). -/
def leaveWatch (s : State) (l : LineId) : State :=
  if (s.unit l).rx.mode = .watch then enterFraming s l else s

/-- WAKE_COMPLETE (R30, R49, R103, R181). -/
def wakeComplete (s : State) : State :=
  if s.tbu.state = .waking ∧ isDue s.tbu.wakeTimer = true then
    let s := s.onTbu fun t => { t with state := .internal, tickDivisor := Config.fastDivisor, wakeTimer := none }
    let s := s.recomputeBoth.latch .wake
    let s := leaveWatch (leaveWatch s .A) .B
    let s := confirmCall (confirmCall s .A) .B
    let s := if s.tbu.exitSource = .reference then (beginQualifying s).recomputeBoth else s
    settle s
  else s

def execWakeComplete (s : State) : Host.Outcome State Fault Refusal := .next (wakeComplete s)

/-! ## The millisecond tick (R21) -/

/-- The receive pin at a millisecond tick: outside the running states CONDITION and WATCH sample it (R39, R40, R49); the
receive age counts in every state (R44). -/
def Receiver.msTick (running : Bool) (r : Receiver) (lv : Level) : Receiver :=
  let r := { r with pin := lv, age := bump r.age }
  if running then r
  else
    match r.mode with
    | .condition => if r.last = r.known then { r with last := lv } else r
    | .watch =>
      if r.watchSeen then r
      else { r with last := lv, watchSeen := decide (r.last = .mark) && decide (lv = .space) }
    | .off | .framing => r

def SupTimers.tick (t : SupTimers) : SupTimers :=
  ⟨tickDown t.recognize, tickDown t.clearRecognize, tickDown t.confirm, tickDown t.clearConfirm, tickDown t.guard,
    tickDown t.callConfirm, tickDown t.proceed, tickDown t.connect, tickDown t.quiet, tickDown t.capture,
    tickDown t.idle, tickDown t.fault, tickDown t.recovery, tickDown t.prepPrint, tickDown t.prepPunch⟩

def Supervisor.tick (c : Supervisor) : Supervisor :=
  { c with timers := c.timers.tick
           exch := { c.exch with offerTimer := tickDown c.exch.offerTimer, pageTimer := tickDown c.exch.pageTimer } }

def Keyboard.tick (k : Keyboard) : Keyboard :=
  { k with scanTimer := k.scanTimer - 1, repeatTimer := tickDown k.repeatTimer, bell := tickDown k.bell
           inputAge := bump k.inputAge }

/-- The elapsed time of the yield timer, waiting at its limit (R153). -/
def yieldTick : Option (Nat × Nat) → Option (Nat × Nat)
  | some (n, m) => some (if n < m then n + 1 else n, m)
  | none => none

def Printer.tick (p : Printer) (i : TickPins) : Printer :=
  { p with op := p.op.map fun o => (o.1, o.2 - 1), abandoned := tickDown p.abandoned, release := tickDown p.release
           yieldTimer := yieldTick p.yieldTimer, decay := p.decay - 1
           papLow := p.papLow.sample Config.sensorTicks i.papLow
           papOut := p.papOut.sample Config.sensorTicks i.papOut
           cover := p.cover.sample Config.sensorTicks i.cover }

def Punch.tick (p : Punch) (i : TickPins) : Punch :=
  { p with op := p.op.map fun o => (o.1, o.2 - 1), abandoned := tickDown p.abandoned, release := tickDown p.release
           tapLow := p.tapLow.sample Config.sensorTicks i.tapLow
           tapOut := p.tapOut.sample Config.sensorTicks i.tapOut
           chad := p.chad.sample Config.sensorTicks i.chad }

/-- The idle timer's elapsed time, held at the largest threshold (R179, R182). -/
def idleMax : Nat := 3600000

/-- One tick of a motor: its timers and speed input, and new idle thresholds come into force (R176, R179, R182). -/
def Motor.tick (m : Motor) (speed : Bool) : Motor :=
  { m with start := tickDown m.start, idle := m.idle.map fun n => min (n + 1) idleMax
           speed := m.speed.sample Config.speedTicks speed, lowS := m.idleLowS, stopS := m.idleStopS }

/-- The calibration interval and the wake time count on the tick (R20, R30). -/
def Timebase.tick (t : Timebase) : Timebase :=
  { t with calTimer := tickDown t.calTimer
           wakeTimer := if t.state = .waking then tickDown t.wakeTimer else t.wakeTimer }

def Pair.map {α β : Type} (f : α → β) (p : Pair α) : Pair β := ⟨f p.a, f p.b⟩

def LineUnit.msTick (running : Bool) (u : LineUnit) (lv : Level) : LineUnit := { u with rx := u.rx.msTick running lv }

def Framer.tick (f : Framer) : Framer := { f with gap := tickDown f.gap }

/-- MILLISECOND_TICK (R21). -/
def millisecondTick (i : TickPins) (s : State) : State :=
  { s with tbu := s.tbu.tick
           lu := ⟨s.lu.a.msTick s.running i.rxA, s.lu.b.msTick s.running i.rxB⟩
           sup := Pair.map Supervisor.tick s.sup
           fqm := { s.fqm with framer := Pair.map Framer.tick s.fqm.framer }
           kbs := s.kbs.tick
           prc := s.prc.tick i
           puc := s.puc.tick i
           mtc := ⟨s.mtc.print.tick i.pspd, s.mtc.punch.tick i.uspd⟩ }

def execMillisecondTick (i : TickPins) (s : State) : Host.Outcome State Fault Refusal := .next (millisecondTick i s)

end Sys2Proof.Machine
end

