-- ==== Sys2Proof/Machine/Port.lean ====
section
/-! DEFINITION. The console port's own steps and commands (chapter 12): power-on, the two transfers, the held command,
IDENTIFY, READ_EVENTS, SET_EVENT_MASK and RESETN. -/

namespace Sys2Proof.Machine

open Sys2Proof

/-! ## Power-on and RESETN (R191, R192) -/

/-- The levels on the receive pins are the lines', not the part's (log entry 5). -/
def Receiver.onPin (r : Receiver) (lv : Level) : Receiver := { r with pin := lv }

/-- POWER_ON (R191, R192). -/
def powerOn (straps : BitVec 5) (s : State) : State :=
  let t := State.powerOn straps
  let t := (t.onRx .A (·.onPin (s.unit .A).rx.pin)).onRx .B (·.onPin (s.unit .B).rx.pin)
  { t with pending := s.pending }

def execPowerOn (straps : BitVec 5) (s : State) : Host.Outcome State Fault Refusal := .next (powerOn straps s)

/-- RESETN_ASSERTED: until POWER_ON the port ignores every transfer, and RDY and ATTN are deasserted (R192). -/
def execResetnAsserted (s : State) : Host.Outcome State Fault Refusal :=
  .next (s.onCpe fun c => { c with resetLow := true })

/-! ## Commands of the port -/

/-- IDENTIFY (R191). -/
def cmdIdentify (p : List Byte) (s : State) : Reply :=
  withArgs readNone p s fun _ => .ok s (Config.partCode ++ [Config.revision, s.cpe.straps.setWidth 8])

def execIdentify (p : List Byte) (s : State) : Host.Outcome State Fault Refusal :=
  .next (consoleRow .identify cmdIdentify p s)

/-- READ_EVENTS (R190). -/
def cmdReadEvents (p : List Byte) (s : State) : Reply :=
  withArgs readNone p s fun _ =>
    .ok (s.onCpe fun c => { c with latches := 0 }) (eEvents s.cpe.latches ++ eEvents s.cpe.mask)

def execReadEvents (p : List Byte) (s : State) : Host.Outcome State Fault Refusal :=
  .next (consoleRow .readEvents cmdReadEvents p s)

/-- SET_EVENT_MASK (R189). -/
def cmdSetEventMask (p : List Byte) (s : State) : Reply :=
  withArgs readMask p s fun m => .ok (s.onCpe fun c => { c with mask := m }) []

def execSetEventMask (p : List Byte) (s : State) : Host.Outcome State Fault Refusal :=
  .next (consoleRow .setEventMask cmdSetEventMask p s)

/-! ## Transfers -/

/-- The command table (R185). -/
def commandTable : List (Nat × Command) := [
    (0x01, .identify), (0x02, .restart), (0x03, .readEvents), (0x04, .setEventMask), (0x05, .standby),
    (0x06, .setTimebase), (0x07, .timebaseStatus), (0x10, .setCodeTable), (0x11, .setLine), (0x12, .lineStatus),
    (0x13, .lineStatistics), (0x18, .setIdentity), (0x19, .setSupervision), (0x1A, .call), (0x1B, .clearCall),
    (0x1C, .callStatus), (0x1D, .setExchange), (0x20, .msgCreate), (0x21, .msgAppend), (0x22, .msgClose),
    (0x23, .msgRead), (0x24, .msgInfo), (0x25, .msgDelete), (0x26, .msgReroute), (0x27, .queueList),
    (0x28, .storeStatus), (0x29, .storeClear), (0x2A, .setStore), (0x30, .setAttendance), (0x31, .setRoute),
    (0x32, .setFraming), (0x38, .setKeymap), (0x39, .setKeyboard), (0x3A, .keyboardStatus), (0x40, .setPrinter),
    (0x41, .printerSetTop), (0x42, .printerStatus), (0x43, .mechResume), (0x48, .setPunch), (0x49, .punchStatus),
    (0x50, .setMotors), (0x51, .motorHold), (0x52, .motorStatus) ]

def Command.ofCode (b : Byte) : Option Command :=
  (commandTable.find? fun e => e.1 == b.toNat).map (·.2)

/-- What a command of this code and payload does (R185). -/
def runCmd (c : Command) (p : List Byte) (s : State) : Reply :=
  match c with
  | .identify => cmdIdentify p s
  | .restart => cmdRestart p s
  | .readEvents => cmdReadEvents p s
  | .setEventMask => cmdSetEventMask p s
  | .standby => cmdStandby p s
  | .setTimebase => cmdSetTimebase p s
  | .timebaseStatus => cmdTimebaseStatus p s
  | .setCodeTable => cmdSetCodeTable p s
  | .setLine => cmdSetLine p s
  | .lineStatus => cmdLineStatus p s
  | .lineStatistics => cmdLineStatistics p s
  | .setIdentity => cmdSetIdentity p s
  | .setSupervision => cmdSetSupervision p s
  | .call => cmdCall p s
  | .clearCall => cmdClearCall p s
  | .callStatus => cmdCallStatus p s
  | .setExchange => cmdSetExchange p s
  | .msgCreate => cmdMsgCreate p s
  | .msgAppend => cmdMsgAppend p s
  | .msgClose => cmdMsgClose p s
  | .msgRead => cmdMsgRead p s
  | .msgInfo => cmdMsgInfo p s
  | .msgDelete => cmdMsgDelete p s
  | .msgReroute => cmdMsgReroute p s
  | .queueList => cmdQueueList p s
  | .storeStatus => cmdStoreStatus p s
  | .storeClear => cmdStoreClear p s
  | .setStore => cmdSetStore p s
  | .setAttendance => cmdSetAttendance p s
  | .setRoute => cmdSetRoute p s
  | .setFraming => cmdSetFraming p s
  | .setKeymap => cmdSetKeymap p s
  | .setKeyboard => cmdSetKeyboard p s
  | .keyboardStatus => cmdKeyboardStatus p s
  | .setPrinter => cmdSetPrinter p s
  | .printerSetTop => cmdPrinterSetTop p s
  | .printerStatus => cmdPrinterStatus p s
  | .mechResume => cmdMechResume p s
  | .setPunch => cmdSetPunch p s
  | .punchStatus => cmdPunchStatus p s
  | .setMotors => cmdSetMotors p s
  | .motorHold => cmdMotorHold p s
  | .motorStatus => cmdMotorStatus p s

/-- A complete good command of a command transfer, from its first byte on (R183). -/
def goodCommand : List Byte → Option (Command × List Byte)
  | _ :: code :: n :: rest =>
    if n.toNat ≤ maxPayload ∧ n.toNat ≤ rest.length then (Command.ofCode code).map fun c => (c, rest.take n.toNat)
    else none
  | _ => none

/-- The bytes a response transfer returns before the zeros (R183, R187). -/
def responseBytes : Port → List Byte
  | .response st p => 0 :: BitVec.ofNat 8 st.code :: BitVec.ofNat 8 p.length :: p
  | .executing _ _ => 0 :: BitVec.ofNat 8 Status.notReady.code :: [0]
  | .empty => 0 :: BitVec.ofNat 8 Status.none.code :: [0]

/-- A response is consumed once its status byte has been clocked out (R187). -/
def Port.consumed : Port → Port
  | .response _ _ => .empty
  | .executing c p => .executing c p
  | .empty => .empty

/-- RESPONSE_TRANSFER of so many complete bytes (R183, R187, R192). -/
def responseTransfer (clocked : Nat) (s : State) : State :=
  if s.cpe.resetLow || clocked == 0 then s
  else
    s.onCpe fun c =>
      let bytes := responseBytes c.port
      { c with miso := bytes.take clocked ++ List.replicate (clocked - bytes.length) 0
               port := if 2 ≤ clocked then c.port.consumed else c.port }

def execResponseTransfer (clocked : Nat) (s : State) : Host.Outcome State Fault Refusal :=
  .next (responseTransfer clocked s)

/-- COMMAND_TRANSFER: its first byte decides its kind; an ignored transfer leaves the recorded MISO bytes (R183, R185,
R186, R192, log entry 64). -/
def commandTransfer (mosi : List Byte) (s : State) : State :=
  if s.cpe.resetLow then s
  else
    match mosi with
    | [] => s
    | b :: _ =>
      if b = 0xA1 then
        match goodCommand mosi with
        | some (c, p) => takeGood c p (runCmd c p) (s.zeros mosi.length)
        | none => takeBad (s.zeros mosi.length)
      else if b = 0xA2 then responseTransfer mosi.length s
      else s

def execCommandTransfer (mosi : List Byte) (s : State) : Host.Outcome State Fault Refusal :=
  .next (commandTransfer mosi s)

/-- HELD_COMMAND_EXECUTE: a command held while the part woke is executed (R31, R185). -/
def heldCommandExecute (s : State) : State :=
  match s.cpe.port with
  | .executing c p => if s.running then (runCmd c p s).ready else s
  | .empty | .response _ _ => s

def execHeldCommandExecute (s : State) : Host.Outcome State Fault Refusal := .next (heldCommandExecute s)

end Sys2Proof.Machine
end

