-- ==== Sys2Proof/Machine/Dispatch.lean ====
section
/-! DEFINITION. The meaning of every command, one arm a row of the table. -/

namespace Sys2Proof.Machine

open Sys2Proof

def exec (i : Instr) (s : State) : Host.Outcome State Fault Refusal :=
  match i with
  | .powerOn straps => Sys2Proof.Machine.execPowerOn straps s
  | .commandTransfer mosi => Sys2Proof.Machine.execCommandTransfer mosi s
  | .responseTransfer clocked => Sys2Proof.Machine.execResponseTransfer clocked s
  | .heldCommandExecute => Sys2Proof.Machine.execHeldCommandExecute s
  | .identify p => Sys2Proof.Machine.execIdentify p s
  | .restart p => Sys2Proof.Machine.execRestart p s
  | .readEvents p => Sys2Proof.Machine.execReadEvents p s
  | .setEventMask p => Sys2Proof.Machine.execSetEventMask p s
  | .standby p => Sys2Proof.Machine.execStandby p s
  | .setTimebase p => Sys2Proof.Machine.execSetTimebase p s
  | .timebaseStatus p => Sys2Proof.Machine.execTimebaseStatus p s
  | .setCodeTable p => Sys2Proof.Machine.execSetCodeTable p s
  | .setLine p => Sys2Proof.Machine.execSetLine p s
  | .lineStatus p => Sys2Proof.Machine.execLineStatus p s
  | .lineStatistics p => Sys2Proof.Machine.execLineStatistics p s
  | .setIdentity p => Sys2Proof.Machine.execSetIdentity p s
  | .setSupervision p => Sys2Proof.Machine.execSetSupervision p s
  | .call p => Sys2Proof.Machine.execCall p s
  | .clearCall p => Sys2Proof.Machine.execClearCall p s
  | .callStatus p => Sys2Proof.Machine.execCallStatus p s
  | .setExchange p => Sys2Proof.Machine.execSetExchange p s
  | .msgCreate p => Sys2Proof.Machine.execMsgCreate p s
  | .msgAppend p => Sys2Proof.Machine.execMsgAppend p s
  | .msgClose p => Sys2Proof.Machine.execMsgClose p s
  | .msgRead p => Sys2Proof.Machine.execMsgRead p s
  | .msgInfo p => Sys2Proof.Machine.execMsgInfo p s
  | .msgDelete p => Sys2Proof.Machine.execMsgDelete p s
  | .msgReroute p => Sys2Proof.Machine.execMsgReroute p s
  | .queueList p => Sys2Proof.Machine.execQueueList p s
  | .storeStatus p => Sys2Proof.Machine.execStoreStatus p s
  | .storeClear p => Sys2Proof.Machine.execStoreClear p s
  | .setStore p => Sys2Proof.Machine.execSetStore p s
  | .setAttendance p => Sys2Proof.Machine.execSetAttendance p s
  | .setRoute p => Sys2Proof.Machine.execSetRoute p s
  | .setFraming p => Sys2Proof.Machine.execSetFraming p s
  | .setKeymap p => Sys2Proof.Machine.execSetKeymap p s
  | .setKeyboard p => Sys2Proof.Machine.execSetKeyboard p s
  | .keyboardStatus p => Sys2Proof.Machine.execKeyboardStatus p s
  | .setPrinter p => Sys2Proof.Machine.execSetPrinter p s
  | .printerSetTop p => Sys2Proof.Machine.execPrinterSetTop p s
  | .printerStatus p => Sys2Proof.Machine.execPrinterStatus p s
  | .mechResume p => Sys2Proof.Machine.execMechResume p s
  | .setPunch p => Sys2Proof.Machine.execSetPunch p s
  | .punchStatus p => Sys2Proof.Machine.execPunchStatus p s
  | .setMotors p => Sys2Proof.Machine.execSetMotors p s
  | .motorHold p => Sys2Proof.Machine.execMotorHold p s
  | .motorStatus p => Sys2Proof.Machine.execMotorStatus p s
  | .millisecondTick pins => Sys2Proof.Machine.execMillisecondTick pins s
  | .lineTick l lv => Sys2Proof.Machine.execLineTick l lv s
  | .qualificationEnd count => Sys2Proof.Machine.execQualificationEnd count s
  | .referenceLost => Sys2Proof.Machine.execReferenceLost s
  | .calibrationStart => Sys2Proof.Machine.execCalibrationStart s
  | .calibrationEnd nInt => Sys2Proof.Machine.execCalibrationEnd nInt s
  | .wakeComplete => Sys2Proof.Machine.execWakeComplete s
  | .txCharacterStart l => Sys2Proof.Machine.execTxCharacterStart l s
  | .txCharacterEnd l => Sys2Proof.Machine.execTxCharacterEnd l s
  | .rxStartElement l => Sys2Proof.Machine.execRxStartElement l s
  | .startCheck l => Sys2Proof.Machine.execStartCheck l s
  | .stopSample l => Sys2Proof.Machine.execStopSample l s
  | .spaceHeldEnd l => Sys2Proof.Machine.execSpaceHeldEnd l s
  | .conditionChange l => Sys2Proof.Machine.execConditionChange l s
  | .watchSpace l => Sys2Proof.Machine.execWatchSpace l s
  | .turnaroundEnd l => Sys2Proof.Machine.execTurnaroundEnd l s
  | .sendGrant l => Sys2Proof.Machine.execSendGrant l s
  | .messageGapExpiry l => Sys2Proof.Machine.execMessageGapExpiry l s
  | .callRecognizeExpiry l => Sys2Proof.Machine.execCallRecognizeExpiry l s
  | .confirmExpiry l => Sys2Proof.Machine.execConfirmExpiry l s
  | .prepExpiry l k => Sys2Proof.Machine.execPrepExpiry l k s
  | .clearRecognizeExpiry l => Sys2Proof.Machine.execClearRecognizeExpiry l s
  | .clearConfirmExpiry l => Sys2Proof.Machine.execClearConfirmExpiry l s
  | .guardExpiry l => Sys2Proof.Machine.execGuardExpiry l s
  | .callConfirmExpiry l => Sys2Proof.Machine.execCallConfirmExpiry l s
  | .proceedExpiry l => Sys2Proof.Machine.execProceedExpiry l s
  | .connectExpiry l => Sys2Proof.Machine.execConnectExpiry l s
  | .progressQuietExpiry l => Sys2Proof.Machine.execProgressQuietExpiry l s
  | .captureQuietExpiry l => Sys2Proof.Machine.execCaptureQuietExpiry l s
  | .idleTimeoutExpiry l => Sys2Proof.Machine.execIdleTimeoutExpiry l s
  | .outgoingCallEnd l => Sys2Proof.Machine.execOutgoingCallEnd l s
  | .privateFaultExpiry l => Sys2Proof.Machine.execPrivateFaultExpiry l s
  | .privateRecoveryExpiry l => Sys2Proof.Machine.execPrivateRecoveryExpiry l s
  | .offerWaitExpiryAnswering l => Sys2Proof.Machine.execOfferWaitExpiryAnswering l s
  | .offerWaitExpiryCalling l => Sys2Proof.Machine.execOfferWaitExpiryCalling l s
  | .pageTimerExpiry l => Sys2Proof.Machine.execPageTimerExpiry l s
  | .keyboardScan closed => Sys2Proof.Machine.execKeyboardScan closed s
  | .keyFifoDrain => Sys2Proof.Machine.execKeyFifoDrain s
  | .repeatExpiry => Sys2Proof.Machine.execRepeatExpiry s
  | .bellPulseEnd => Sys2Proof.Machine.execBellPulseEnd s
  | .keyboardIdle => Sys2Proof.Machine.execKeyboardIdle s
  | .printGrant => Sys2Proof.Machine.execPrintGrant s
  | .printOperationIssue => Sys2Proof.Machine.execPrintOperationIssue s
  | .prdy => Sys2Proof.Machine.execPrdy s
  | .printOperationTimeout => Sys2Proof.Machine.execPrintOperationTimeout s
  | .yieldExpiry => Sys2Proof.Machine.execYieldExpiry s
  | .heatDecay => Sys2Proof.Machine.execHeatDecay s
  | .printerSensorQualified k => Sys2Proof.Machine.execPrinterSensorQualified k s
  | .printerHoldRelease => Sys2Proof.Machine.execPrinterHoldRelease s
  | .printAbandonEnd ready => Sys2Proof.Machine.execPrintAbandonEnd ready s
  | .punchGrant => Sys2Proof.Machine.execPunchGrant s
  | .punchOperationIssue => Sys2Proof.Machine.execPunchOperationIssue s
  | .urdy sensed => Sys2Proof.Machine.execUrdy sensed s
  | .punchOperationTimeout => Sys2Proof.Machine.execPunchOperationTimeout s
  | .punchSensorQualified k => Sys2Proof.Machine.execPunchSensorQualified k s
  | .punchHoldRelease => Sys2Proof.Machine.execPunchHoldRelease s
  | .punchAbandonEnd ready => Sys2Proof.Machine.execPunchAbandonEnd ready s
  | .speedQualified k => Sys2Proof.Machine.execSpeedQualified k s
  | .startLimitExpiry k => Sys2Proof.Machine.execStartLimitExpiry k s
  | .idleLowExpiry k => Sys2Proof.Machine.execIdleLowExpiry k s
  | .idleStopExpiry k => Sys2Proof.Machine.execIdleStopExpiry k s
  | .resetnAsserted => Sys2Proof.Machine.execResetnAsserted s

end Sys2Proof.Machine
end

