-- ==== Sys2Proof/Safety.lean ====
section
/-! DEFINITION. The notions in which claims about the block are stated: when the port takes a command at once, what the
settling of selectors and mechanisms leaves as it was, and the properties that every step keeps. -/

namespace Sys2Proof.Machine

open Sys2Proof

/-! ## The console port (R183, R185) -/

/-- The port takes a command transfer and executes it at once (R185, R192). -/
def Ready (s : State) : Prop := s.cpe.resetLow = false ∧ s.cpe.port = .empty ∧ s.running = true

/-- The state with the response to a command of `n` payload bytes made ready (R183, R185). -/
def answered (n : Nat) (st : Status) (payload : List Byte) (s : State) : State :=
  { s with cpe := { s.cpe with port := .response st payload, miso := List.replicate (3 + n) 0 } }

/-- The state with a command of `n` payload bytes refused: nothing but the port changes (R183). -/
def refused (n : Nat) (st : Status) (s : State) : State := answered n st [] s

/-- The row of a console command. -/
def Command.row : Command → List Byte → Instr
  | .identify => .identify | .restart => .restart | .readEvents => .readEvents | .setEventMask => .setEventMask
  | .standby => .standby | .setTimebase => .setTimebase | .timebaseStatus => .timebaseStatus
  | .setCodeTable => .setCodeTable | .setLine => .setLine | .lineStatus => .lineStatus
  | .lineStatistics => .lineStatistics | .setIdentity => .setIdentity | .setSupervision => .setSupervision
  | .call => .call | .clearCall => .clearCall | .callStatus => .callStatus | .setExchange => .setExchange
  | .msgCreate => .msgCreate | .msgAppend => .msgAppend | .msgClose => .msgClose | .msgRead => .msgRead
  | .msgInfo => .msgInfo | .msgDelete => .msgDelete | .msgReroute => .msgReroute | .queueList => .queueList
  | .storeStatus => .storeStatus | .storeClear => .storeClear | .setStore => .setStore
  | .setAttendance => .setAttendance | .setRoute => .setRoute | .setFraming => .setFraming
  | .setKeymap => .setKeymap | .setKeyboard => .setKeyboard | .keyboardStatus => .keyboardStatus
  | .setPrinter => .setPrinter | .printerSetTop => .printerSetTop | .printerStatus => .printerStatus
  | .mechResume => .mechResume | .setPunch => .setPunch | .punchStatus => .punchStatus | .setMotors => .setMotors
  | .motorHold => .motorHold | .motorStatus => .motorStatus

/-- The code of a console command (R185). -/
def Command.code : Command → Byte
  | .identify => 0x01 | .restart => 0x02 | .readEvents => 0x03 | .setEventMask => 0x04 | .standby => 0x05
  | .setTimebase => 0x06 | .timebaseStatus => 0x07 | .setCodeTable => 0x10 | .setLine => 0x11 | .lineStatus => 0x12
  | .lineStatistics => 0x13 | .setIdentity => 0x18 | .setSupervision => 0x19 | .call => 0x1A | .clearCall => 0x1B
  | .callStatus => 0x1C | .setExchange => 0x1D | .msgCreate => 0x20 | .msgAppend => 0x21 | .msgClose => 0x22
  | .msgRead => 0x23 | .msgInfo => 0x24 | .msgDelete => 0x25 | .msgReroute => 0x26 | .queueList => 0x27
  | .storeStatus => 0x28 | .storeClear => 0x29 | .setStore => 0x2A | .setAttendance => 0x30 | .setRoute => 0x31
  | .setFraming => 0x32 | .setKeymap => 0x38 | .setKeyboard => 0x39 | .keyboardStatus => 0x3A | .setPrinter => 0x40
  | .printerSetTop => 0x41 | .printerStatus => 0x42 | .mechResume => 0x43 | .setPunch => 0x48 | .punchStatus => 0x49
  | .setMotors => 0x50 | .motorHold => 0x51 | .motorStatus => 0x52

/-- The bytes of a line, and of a code table kind, in a payload (R1, R184). -/
def lineCode : LineId → Nat
  | .A => 0 | .B => 1
def CodeKind.code : CodeKind → Nat
  | .none => 0 | .char => 1 | .ltrs => 2 | .figs => 3 | .wru => 4 | .bell => 5 | .proceed => 6 | .selectEnd => 7
def mechCode : Mech → Nat
  | .print => 0 | .punch => 1

/-- Event e is latched. -/
def Latched (s : State) (e : Event) : Prop := s.cpe.latches.getLsbD e.bit = true

/-! ## What settling leaves as it was

A row that can concern the selectors and the mechanisms ends with their operation-free steps (log entries 16 and 17). The
selectors that take part are those of the lines in `on`. -/

/-- Record i holds the printer's grant, the punch's, or the SEND grant of a line in `on`. -/
def Granted (on : LineId → Bool) (s : State) (i : Nat) : Prop :=
  (∃ g, s.prc.grant = some g ∧ g.index = i) ∨ (∃ g, s.puc.grant = some g ∧ g.index = i)
    ∨ ∃ l g, on l = true ∧ (s.selector l).grant = some g ∧ g.index = i

/-- Nothing placed on a line's selector by its supervisor or exchange engine. -/
def NothingPlaced (s : State) (l : LineId) : Prop := (s.selector l).seqs = [] ∧ (s.selector l).answerback = none

structure Kept (on : LineId → Bool) (s t : State) : Prop where
  tbu : t.tbu = s.tbu
  ctr : t.ctr = s.ctr
  identity : t.identity = s.identity
  xcfg : t.xcfg = s.xcfg
  pending : t.pending = s.pending
  unit : ∀ l, t.unit l =
    { s.unit l with stats := { (s.unit l).stats with untranslatable := (t.unit l).stats.untranslatable } }
  quiet : ∀ l, on l = false → t.unit l = s.unit l ∧ t.csv l = s.csv l ∧ t.selector l = s.selector l
  csv : ∀ l, NothingPlaced s l → NothingPlaced t l ∧ t.csv l = { s.csv l with remaining := (t.csv l).remaining }
  stm : t.stm = { s.stm with recs := t.stm.recs, free := t.stm.free, low := t.stm.low }
  records : ∀ i, ¬ Granted on s i → t.record i = s.record i
  granted : ∀ i, Granted on t i → Granted on s i
  fqm : t.fqm = { s.fqm with seq := t.fqm.seq, sel := t.fqm.sel }
  kbs : t.kbs = { s.kbs with storeFull := t.kbs.storeFull }
  prc : t.prc = { s.prc with grant := t.prc.grant, yieldTimer := t.prc.yieldTimer, starved := t.prc.starved,
                             passOver := t.prc.passOver, heatHold := t.prc.heatHold }
  puc : t.puc = { s.puc with grant := t.puc.grant, untranslatable := t.puc.untranslatable }
  cpe : t.cpe = { s.cpe with latches := t.cpe.latches }
  latched : ∀ k, s.cpe.latches.getLsbD k = true → t.cpe.latches.getLsbD k = true

/-- A motor after it has followed its requests: its configuration, prestarts, hold, speed and faults are as they were, and
its state is that of R178 and R179. -/
structure Motor.Followed (running demand : Bool) (m n : Motor) : Prop where
  rest : n = { m with demand := demand, state := n.state, start := n.start, idle := n.idle }
  state : n.state = m.state ∨
    ((m.state = .stopped ∨ m.state = .low) ∧ n.request = true ∧ running = true
      ∧ n.state = if m.speed.level then .running else .starting)
  waits : n.state = .stopped ∨ n.state = .low → n.request = false ∨ running = false
  idle : n.state = .running → (n.idle = none ↔ n.request = true)

/-- The conditions under which the yield timer runs: the granted record is OPEN, the grant in TEXT, the print cursor at the
length, and nothing of a character in flight (R153). -/
def YieldRuns (s : State) : Prop :=
  ∃ g r, s.prc.grant = some g ∧ s.record g.index = some r ∧ g.phase = .text ∧ g.ops = [] ∧ r.state = .opened ∧
    r.cursor.print = r.length ∧ s.prc.op = none

/-- What settling s to t makes of the yield timer: cleared, with the starved mark, where its conditions do not hold in t;
running on where they held in s; and started for YIELD_S seconds where they hold first, the text standing within the 8,192
characters of a record (R153). -/
structure YieldFollowed (s t : State) : Prop where
  stops : ¬ YieldRuns t → t.prc.yieldTimer = none ∧ t.prc.starved = false
  runs : YieldRuns s → YieldRuns t →
    t.prc.yieldTimer = some (s.prc.yieldTimer.getD (0, 1000 * s.prc.cfg.yieldS)) ∧ t.prc.starved = s.prc.starved
  starts : ¬ YieldRuns s → YieldRuns t →
    (∀ g r, s.prc.grant = some g → s.record g.index = some r → g.phase = .text ∧ r.length ≤ 8192) →
    t.prc.yieldTimer = some (0, 1000 * s.prc.cfg.yieldS) ∧ t.prc.starved = false

/-- The state `t` comes from `s` by settling the selectors of the lines in `on` and the mechanisms. -/
structure Settled (on : LineId → Bool) (s t : State) : Prop where
  kept : Kept on s t
  print : (s.mtc.print).Followed s.running (printDemand t) t.mtc.print
  punch : (s.mtc.punch).Followed s.running (punchDemand t) t.mtc.punch
  yields : YieldFollowed s t

/-- No line, one line, both lines. -/
def noLine : LineId → Bool := fun _ => false
def oneLine (l : LineId) : LineId → Bool := fun k => decide (k = l)
def bothLines : LineId → Bool := fun _ => true

/-- Row i, taken in s, makes u, which then settles. -/
def Does (i : Instr) (on : LineId → Bool) (s u : State) : Prop := ∃ t, exec i s = .next t ∧ Settled on u t

/-! ## Lines -/

/-- The receiver is in a space condition, or enters one at once on entry to FRAMING (R39, R109). -/
def Receiver.meetsSpace (r : Receiver) : Bool := if r.mode = .framing then r.inSpace else decide (r.pin = .space)

/-- Nothing of the other line changes. -/
def OtherLineKept (s t : State) (l : LineId) : Prop :=
  ∀ k, k ≠ l → t.unit k = s.unit k ∧ t.csv k = s.csv k ∧ t.selector k = s.selector k ∧ t.framerOf k = s.framerOf k
    ∧ t.ctr.tx.get k = s.ctr.tx.get k ∧ t.ctr.rx.get k = s.ctr.rx.get k ∧ t.tbu.inc.get k = s.tbu.inc.get k

/-- Line l has left its state for CLEARING with this reason, or, the receiver being in a space condition, for GUARD at once
(R99, R100, R109, R110). -/
structure EnteredClearing (s t : State) (l : LineId) (why : ClearReason) : Prop where
  reason : (t.csv l).lastClear = why
  ordered : (t.unit l).tx.ordered = .space
  placed : NothingPlaced t l
  ends : (t.csv l).abActive = false
  clearing : (s.unit l).rx.meetsSpace = false →
    (t.csv l).state = .clearing ∧ (t.csv l).timers.clearConfirm = some (s.csv l).values.clearConfirmMs
      ∧ (t.unit l).rx.mode = .framing ∧ t.stm.cells = s.stm.cells ∧ t.stm.reservation = s.stm.reservation
  guard : (s.unit l).rx.meetsSpace = true →
    (t.csv l).state = .guard ∧ (t.csv l).timers.guard = some (s.csv l).values.guardMs ∧ Latched t (stateEvent l)
      ∧ (t.unit l).rx.mode = .condition ∧ (t.framerOf l).phase = .idle ∧ t.stm.reservation.get l = 0
      ∧ (t.selector l).grant = none ∧ (t.csv l).ending = false
  others : OtherLineKept s t l
  kept : t.tbu = s.tbu ∧ t.ctr = s.ctr ∧ t.identity = s.identity ∧ t.xcfg = s.xcfg ∧ t.cpe.mask = s.cpe.mask
    ∧ (t.csv l).callCount = (s.csv l).callCount ∧ (t.csv l).values = (s.csv l).values

/-! ## The end of a grant and of an exchange -/

/-- Record i, which a deliverer leaves as r, is released when it is done: CLOSED with nothing pending, or CANCELLED, with no
grant left (R63, R64). -/
structure RecordLeft (s t : State) (i : Nat) (r : Rec) : Prop where
  stm : t.stm = { s.stm with recs := t.stm.recs, free := t.stm.free, low := t.stm.low }
  others : ∀ j, j ≠ i → t.record j = s.record j
  kept : ¬ (r.state = .cancelled ∨ (r.state = .closed ∧ r.dests.isEmpty = true)) →
    t.record i = some r ∧ t.stm.free = s.stm.free
  granted : r.state = .cancelled ∨ (r.state = .closed ∧ r.dests.isEmpty = true) → r.grants.any = true →
    t.record i = some { r with state := .cancelled } ∧ t.stm.free = s.stm.free
  freed : r.state = .cancelled ∨ (r.state = .closed ∧ r.dests.isEmpty = true) → r.grants.any = false →
    t.record i = none ∧ t.stm.free = s.stm.free ++ r.chain ∧ t.kbs.storeFull = false

/-- The exchange of v is DONE with record e, and the acceptance is the one agreed (R129). -/
def ExchangeAgreed (v : Supervisor) (e : Exchange) (remaining : Acceptance) : Prop :=
  let none' : Abilities := ⟨false, false, false, false⟩
  let o := v.exch.own.getD none'
  let r := v.exch.remoteAb.getD none'
  e = { v.exch with
    sub := .done, half := o.half || r.half, pageTimer := none, offerTimer := none
    agreed := ⟨o.limit && r.limit, o.urgent && r.urgent, o.numbering && r.numbering, o.half || r.half⟩ } ∧
  remaining = if (o.limit && r.limit) = true then .blocks (v.exch.remoteAccept.getD 0) else .unlimited

/-! ## A received character (R7 to R9, R42, R82) -/

/-- The stop sample of the character in hand is due, with combination c, well framed or not, and not all space (R42). -/
structure CharacterIn (s : State) (l : LineId) (f : Frame) (c : Comb) (good : Bool) : Prop where
  mode : (s.unit l).rx.mode = .framing
  sub : (s.unit l).rx.sub = .character f
  due : 416 ≤ f.pos
  started : f.started = true
  comb : c = combOf f.samples
  stop : good = true ↔ (s.unit l).rx.last = .mark
  held : good = true ∨ c ≠ 0

/-- What a combination delivers as a character: an errored one the substitute, a CHAR or BELL entry its character (R7 to
R9). -/
def Delivers (s : State) (l : LineId) (c : Comb) (good : Bool) (x : RxChar) : Prop :=
  let e := readComb s.ctr.table (s.ctr.rx.get l) c
  (good = false ∧ x = ⟨s.ctr.substitute, true⟩) ∨
    (good = true ∧ ((e.kind = .char ∧ x = ⟨e.chr, false⟩) ∨ (e.kind = .bell ∧ x = ⟨7, false⟩)))

/-- The state in which a character has left the receiver, for whoever takes its combination. -/
def received (s : State) (l : LineId) (f : Frame) (good : Bool) : State :=
  (frameTaken s l f.peak !good).onExch l fun e => { e with together := false }

/-- That state for a character delivered to the line's consumer: the run of BLANKs is over, and a well-framed SP has set the
receive shift record with USOS on (R13, R124). -/
def delivered (s : State) (l : LineId) (f : Frame) (c : Comb) (good : Bool) : State :=
  let e := readComb s.ctr.table (s.ctr.rx.get l) c
  let t := endBlankRun (received s l f good) l
  if good = true ∧ e.kind = .char ∧ e.chr = 32 ∧ (s.unit l).cfg.usos = true then t.setRxShift l (.held .letters) else t

/-- The line's framer takes its characters (R82, R115). -/
def FramerListens (s : State) (l : LineId) : Prop :=
  (s.csv l).exch.sub.isPaging = false ∧
    ((s.csv l).state = .running ∨ ((s.csv l).state = .connected ∧ (s.csv l).phase ≠ .capturing) ∨
      ((s.csv l).state = .clearing ∧ (s.csv l).phase ≠ .captureFull))

/-- A block can be taken for the line's writer (R52). -/
def LineMayTake (s : State) (l : LineId) : Prop :=
  s.stm.free ≠ [] ∧ (0 < s.stm.reservation.get l ∨ s.stm.reservation.a + s.stm.reservation.b < s.stm.free.length)

/-- The framer with a phase and held characters, its gap timer restarted (R86). -/
def framerAt (s : State) (l : LineId) (p : FramerPhase) (held : List RxChar) : Framer :=
  ⟨p, held, if (s.csv l).state = .running ∧ p ≠ .idle ∧ (s.framingOf l).gapS ≠ 0
    then some (1000 * (s.framingOf l).gapS) else none⟩

/-- The exchange ended as PLAIN with this cause: its timers stopped, nothing held, the reservation 0, LINE_x_STATE latched
(R130). -/
def gaveUp (s : State) (l : LineId) (why : PlainCause) : State :=
  (setReservation (s.onExch l fun e =>
    { e with sub := .plain, cause := why, offerTimer := none, pageTimer := none, blankRun := 0, pageTwo := false
             held := [] }) l 0).latch (stateEvent l)

/-- Combinations handed back to the code translator in order, each well framed or errored (R130). -/
def handedBack (s : State) (l : LineId) (cs : List (Comb × Bool)) : State :=
  cs.foldl (fun s c => translateReceived s l c.1 c.2) s

/-! ## Queue order and the choices of a deliverer (R77, R89, R91, R150, R169) -/

/-- Entry a is ahead of entry b in a queue: URGENT first, then the smaller stamp, then the lower index (R77). -/
def Ahead (d : Deliv) (a b : Nat × Rec) : Prop :=
  (a.2.urgent = true ∧ b.2.urgent = false) ∨
    (a.2.urgent = b.2.urgent ∧
      ((a.2.stamp.get d).getD 0 < (b.2.stamp.get d).getD 0 ∨
        ((a.2.stamp.get d).getD 0 = (b.2.stamp.get d).getD 0 ∧ a.1 < b.1)))

/-- Record i is r, has the property, and is ahead of every other record that has it. -/
def FirstInQueue (s : State) (d : Deliv) (P : Rec → Prop) (i : Nat) (r : Rec) : Prop :=
  s.record i = some r ∧ P r ∧ ∀ j q, s.record j = some q → P q → j = i ∨ Ahead d (i, r) (j, q)

/-- A record that the printer or the punch may take: queued, and CLOSED or, OPEN, with text ahead of its cursor (R150,
R169). -/
def Candidate (s : State) (d : Deliv) (i : Nat) (r : Rec) : Prop :=
  s.record i = some r ∧ (r.stamp.get d).isSome = true ∧
    (r.state = .closed ∨ (r.state = .opened ∧ r.cursor.get d < r.length))

/-- How far an origin stands after the last served one in the rotation KEYBOARD, CONSOLE, LINE_A, LINE_B (R150). -/
def turn (served o : Origin) : Nat := (o.code + 3 - served.code) % 4

/-- Record i is the choice among the records that have the property (R150, R169). -/
def Chosen (C : Nat → Rec → Prop) (d : Deliv) (served : Origin) (i : Nat) (r : Rec) : Prop :=
  C i r ∧ ∀ j q, C j q →
    (q.urgent = true → r.urgent = true) ∧
    (r.urgent = false → turn served r.origin ≤ turn served q.origin) ∧
    ((r.urgent = true ∧ q.urgent = true) ∨ (r.urgent = false ∧ q.origin = r.origin) → j = i ∨ Ahead d (i, r) (j, q))

/-! ## The mechanisms are ready (R148, R166) -/

def PrinterReady (s : State) : Prop :=
  s.running = true ∧ s.prc.fault = false ∧ s.prc.op = none ∧ s.prc.abandoned = none ∧ s.prc.hold = false
    ∧ s.mtc.print.state = .running

def PunchReady (s : State) : Prop :=
  s.running = true ∧ s.puc.fault = false ∧ s.puc.op = none ∧ s.puc.abandoned = none ∧ s.puc.hold = false
    ∧ s.puc.tapeHold = false ∧ s.mtc.punch.state = .running

/-! ## What a mechanism does next, and the grant it keeps (R148, R151, R166, R170) -/

/-- The other mechanism takes no operation-free step. -/
def PrinterStill (s : State) : Prop := s.prc.grant = none ∨ s.prc.op ≠ none
def PunchStill (s : State) : Prop := s.puc.grant = none ∨ s.puc.op ≠ none

/-- Settling u to t leaves the printer its grant as it is: an operation is in flight, or one is next. -/
def PrintKept (u t : State) : Prop :=
  ∀ g, u.prc.grant = some g →
    (u.prc.op ≠ none → t.prc.grant = some g) ∧
    ∀ r, u.prc.op = none → PunchStill u → u.record g.index = some r → r.stops.print = false → grantOps u g ≠ [] →
      t.prc.grant = some g

/-- The punch's section has a frame or a FEED next, no frame being in hand (R170). -/
def SectionNext (s : State) (g : PunchGrant) : Prop :=
  g.owed ≠ none ∨ (g.phase = .erase ∧ g.done < 5) ∨ (g.phase = .leader ∧ g.done < s.puc.cfg.leader) ∨
    (g.phase = .openShift ∧ g.done = 0) ∨ (g.phase = .trailer ∧ g.done < s.puc.cfg.trailer) ∨
    ∃ c, (translateChr s.ctr.table c).isSome = true ∧
      ((g.phase = .close ∧ g.closing.head? = some c) ∨
        (g.phase = .text ∧ ∃ r, s.record g.index = some r ∧ r.cursor.punch < r.length ∧ readChar s r r.cursor.punch = c))

/-- The section at the start of its next phase (R170). -/
def PunchGrant.following (eom : List Chr) (g : PunchGrant) : PunchGrant :=
  let at_ (p : PunchPhase) (cs : List Chr) : PunchGrant := { g with phase := p, done := 0, closing := cs }
  match g.phase with
  | .erase => at_ .leader []
  | .leader => at_ .openShift []
  | .openShift => at_ .text []
  | .text => at_ .close (13 :: 10 :: eom)
  | .close | .trailer => at_ .trailer []

/-- The section's phase is over. -/
def PhaseOver (s : State) (r : Rec) (g : PunchGrant) : Prop :=
  ¬ SectionNext s g ∧ g.phase ≠ .trailer ∧ (g.phase = .text → r.cursor.punch = r.length ∧ r.state ≠ .opened) ∧
    (g.phase = .close → g.closing = [])

/-- Settling u to t leaves the punch its grant: an operation is in flight, or a repair is under way, or the section stands
after n phases that are over at one with an operation next, or waits at the length of an OPEN record. -/
def SectionKept (u t : State) : Prop :=
  ∀ g, u.puc.grant = some g →
    (u.puc.op ≠ none → t.puc.grant = some g) ∧
    ∀ r, u.puc.op = none → PrinterStill u → u.record g.index = some r → r.stops.punch = false →
      (g.frame ≠ none → t.puc.grant = some g) ∧
      ∀ n, g.frame = none →
        let at_ (k : Nat) : PunchGrant := (PunchGrant.following u.puc.cfg.eom)^[k] g
        (∀ k, k < n → PhaseOver u r (at_ k)) →
        SectionNext u (at_ n) ∨
          ((at_ n).phase = .text ∧ (at_ n).owed = none ∧ r.state = .opened ∧ r.cursor.punch = r.length) →
        t.puc.grant = some (at_ n)

/-! ## Properties that every step keeps -/

/-- The blocks of every record's chain, in index order. -/
def chains (s : State) : List Nat := s.entries.flatMap fun e => e.2.chain

/-- Every block is in exactly one place: the free list or one record's chain (R51). -/
def BlocksConserved (s : State) : Prop := (s.stm.free ++ chains s).Perm (List.range Config.blocks)

/-- Every record that is not FREE holds exactly the blocks that its length needs (R58). -/
def ChainsFit (s : State) : Prop := ∀ i r, s.record i = some r → r.chain.length = blocksFor r.length

/-- The cells' list is in its canonical form. -/
def CellsCanonical (s : State) : Prop := Memory.wf s.stm.cells = true

/-- An entry that the code table may hold at a place that can be loaded (R1, R2). -/
def CodeEntry.legal (e : CodeEntry) : Bool :=
  match e.kind with
  | .char => decide (e.chr ≠ 0) && decide (e.chr ≠ 5) && decide (e.chr ≠ 7)
  | .none | .wru | .bell | .proceed | .selectEnd => decide (e.chr = 0)
  | .ltrs | .figs => false

/-- The code table has its 64 entries, the fixed ones as R1 gives them and the others legal. -/
def TableSound (t : List CodeEntry) : Prop :=
  t.length = 64 ∧ ∀ (k : Nat) (sh : Shift), k < 32 →
    if fixedComb k then tableEntry t k sh = tableEntry powerOnTable k sh else (tableEntry t k sh).legal = true

/-- The receiver mode that a supervisor state gives (R39). -/
def ModeFollows (running : Bool) : SupState → RxMode → Prop
  | .disabled, m => m = .off
  | .free, m | .incoming, m | .answering, m | .refusing, m | .guard, m | .fault, m => m = .condition
  | .calling, m | .selecting, m | .awaitConnect, m | .connected, m | .clearing, m => m = .framing
  | .running, m => m = if running then .framing else .watch

/-- Every receiver is in the mode of its supervisor's state (R39). -/
def ModesFollow (s : State) : Prop := ∀ l, ModeFollows s.running (s.csv l).state (s.unit l).rx.mode

/-- The figures that the rules bound: head heat (R157), the key FIFO (R136), the printed count (R154, R158), send attempts
(R93) and the last qualification's count (R18). -/
structure Bounded (s : State) : Prop where
  heat : s.prc.heat ≤ Config.heatMax
  fifo : s.kbs.fifo.length ≤ Config.fifoDepth
  count : s.prc.count ≤ s.prc.cfg.lineLength
  last : s.tbu.lastCount ≤ 1048575

/-! ## Joining and leaving queues (R77, R78) -/

/-- A record's stamps after it has joined these queues one after another from the arrival sequence n, and the sequence
after that: a join takes the sequence's value and raises it, to 4,294,967,295 at most (R77). -/
def joins : List Deliv → Four (Option Nat) → Nat → Four (Option Nat) × Nat
  | [], x, n => (x, n)
  | d :: ds, x, n =>
    if (x.get d).isSome then joins ds x n else joins ds (x.set d (some n)) (min (n + 1) 4294967295)

/-- The queues that a record joins at its open and at its close (R78), in the order of the destinations (log entry 48). -/
def openQueues (d : DestSet) (liveA liveB : Bool) : List Deliv :=
  [Deliv.print, .punch, .sendA, .sendB].filter fun k =>
    d.out.get k && match k with
      | .print | .punch => true
      | .sendA => liveA
      | .sendB => liveB
def closeQueues (d : DestSet) : List Deliv := [Deliv.sendA, .sendB].filter d.out.get

/-- Record r when it has closed, its SEND queues joined from the arrival sequence n (R61, R78). -/
def closedAs (n : Nat) (r : Rec) : Rec :=
  { r with state := .closed, stamp := (joins (closeQueues r.dests) r.stamp n).1 }

/-- No record is in any queue. -/
def QueuesEmpty (s : State) : Prop := ∀ i r d, s.record i = some r → r.stamp.get d = none

/-- The arrival sequence is n, or 0 with all queues empty (R77). -/
def SequenceIs (s : State) (n : Nat) : Prop := (QueuesEmpty s → s.fqm.seq = 0) ∧ (¬ QueuesEmpty s → s.fqm.seq = n)

/-! ## A line record's text (R52, R58, R59, R86) -/

/-- The blocks that n more characters take. -/
def newBlocks (r : Rec) (n : Nat) : Nat := blocksFor (r.length + n) - blocksFor r.length

/-- The line's writer may take them, from its reservation first and then from the unreserved (R52, R53). -/
def LineRoom (s : State) (l : LineId) (r : Rec) (n : Nat) : Prop :=
  r.chain.length = blocksFor r.length ∧ newBlocks r n ≤ s.stm.free.length ∧
    newBlocks r n - s.stm.reservation.get l ≤ unreserved s.stm

/-- Record r with characters appended, its new blocks from the head of the free list. -/
def Rec.longer (r : Rec) (free : List Nat) (xs : List RxChar) : Rec :=
  { r with length := r.length + xs.length, chain := r.chain ++ free.take (newBlocks r xs.length)
           flags := { r.flags with errored := r.flags.errored || xs.any (·.errored) } }

/-- The store without those blocks, the line's reservation drawn on first. -/
def Store.without (m : Store) (l : LineId) (n : Nat) : Store :=
  { m with free := m.free.drop n, reservation := m.reservation.set l (m.reservation.get l - n) }

/-- Record i reads in u as r reads in s and then the characters, and every other record reads as before. -/
structure TextAppended (s u : State) (i : Nat) (r q : Rec) (xs : List RxChar) : Prop where
  before : ∀ k, k < r.length → readChar u q k = readChar s r k
  added : ∀ (k : Nat) (y : RxChar), xs[k]? = some y → readChar u q (r.length + k) = y.chr
  others : ∀ j x, j ≠ i → s.record j = some x → ∀ n, n < 32 * x.chain.length → readChar u x n = readChar s x n

/-- The line's message has ended in u: the characters that the framer held are in the record, in order, and it is CLOSED,
with SPLIT when they reach the limit (R59); in a discard episode they are counted and dropped, and one begins where no block
is to be had for them (R60, R86). The record has nothing to do with the line's own SEND grant
and cursor. -/
def MessageEnded (s u : State) (l : LineId) : Prop :=
  ∀ i r, (s.framerOf l).phase ≠ .idle → s.stm.lineLink.get l = some i → s.record i = some r → r.state = .opened →
    r.dests.isEmpty = false → (s.selector l).grant.map (·.index) ≠ some i → r.cursor.get (sendOf l) = 0 →
    let held := (s.framerOf l).held
    let q := r.longer s.stm.free held
    (r.origin ≠ .console → Latched u .msgArrived) ∧
    (s.stm.episode.get l = true → u.record i = some (closedAs s.fqm.seq r) ∧ u.stm.cells = s.stm.cells ∧
      (held ≠ [] → u.stm.discarded.get l = min (s.stm.discarded.get l + held.length) 65535)) ∧
    (s.stm.episode.get l = false → CellsCanonical s → BlocksConserved s → LineRoom s l r held.length →
      (held = [] ∨ r.length + held.length < s.stm.cfg.maxMsgLen →
        u.record i = some (closedAs s.fqm.seq q) ∧ TextAppended s u i r q held) ∧
      (held ≠ [] → r.length + held.length = s.stm.cfg.maxMsgLen → TextAppended s u i r q held ∧
        u.record i = some (closedAs s.fqm.seq { q with flags := { q.flags with split := true } }))) ∧
    (s.stm.episode.get l = false → held ≠ [] → r.length < s.stm.cfg.maxMsgLen → 0 < r.length → r.length % 32 = 0 →
      ¬ LineMayTake s l → u.stm.cells = s.stm.cells ∧ Latched u .storeFull ∧
        u.stm.discarded.get l = min (s.stm.discarded.get l + held.length) 65535 ∧
        u.record i = some (closedAs s.fqm.seq { r with flags := { r.flags with truncated := true } }))

/-! ## The end of a connection (R93) -/

/-- What the end of a connection under the line's selector makes of record i: the granted one, and each in SEND_x with its
cursor above 0, starts again at 0 with one attempt counted, and stays queued; the grant is over (R93). -/
def sendReset (s : State) (l : LineId) (i : Nat) (r : Rec) : Rec :=
  let d := sendOf l
  let granted := (s.selector l).grant.map (·.index) = some i
  let q := if granted ∨ ((r.stamp.get d).isSome = true ∧ 0 < r.cursor.get d) then
      { r with cursor := r.cursor.set d 0, attempts := r.attempts.set l (min (r.attempts.get l + 1) 255) }
    else r
  if granted then { q with grants := q.grants.set d false, stops := q.stops.set d false } else q

/-- The line's connection has ended in u, for its selector and its records (R86, R93). A record that was granted is
released when it is done (R64). The line's own open message is `message`. -/
structure ConnectionEnded (s u : State) (l : LineId) : Prop where
  selector : (u.selector l).grant = none ∧ (u.selector l).cutoff = none ∧ (u.selector l).companion = none ∧
    (u.selector l).deferral = false
  message : MessageEnded s u l
  records : ∀ i r, s.record i = some r → (s.framerOf l).phase = .idle ∨ s.stm.lineLink.get l ≠ some i →
    let q := sendReset s l i r
    let spent := (s.selector l).grant.map (·.index) = some i ∧
      (q.state = .cancelled ∨ (q.state = .closed ∧ q.dests.isEmpty = true))
    (¬ spent → u.record i = some q) ∧
    (spent → q.grants.any = true → u.record i = some { q with state := .cancelled }) ∧
    (spent → q.grants.any = false → u.record i = none)
  free : (s.framerOf l).phase = .idle → ∀ i, s.record i = none → u.record i = none

end Sys2Proof.Machine
end

