-- ==== Sys2Proof/Certificates/Slice0/Obligations.lean ====
section
/-! DEFINITION. The statements for the provers. Each says what a numbered rule of the spec says a command does, or what
every step keeps. -/

open Sys2Proof Sys2Proof.Machine

/-- A step carries out the front command; an empty queue idles (log entry 4) (section 12.1, R185). -/
def Obligations.StepTakesTheFrontCommand : Prop :=
  (∀ (c : Instr) (rest : List Instr) (s : State), s.pending = c :: rest → step s = exec c { s with pending := rest }) ∧
  ∀ s : State, s.pending = [] → step s = .next s

/-- Every command ends in a next state and leaves the queue of waiting commands as it was (section 12.2, R185, R192,
log entry 5). The queue is the model's own field, and that POWER_ON keeps it too is the model's choice of log entry
5. -/
def Obligations.EveryCommandCompletesAndKeepsTheQueue : Prop :=
  ∀ (c : Instr) (s : State), ∃ t, exec c s = .next t ∧ t.pending = s.pending

/-- POWER_ON makes the power-on state of every block and samples the straps (R1, R15, R32, R50, R70, R75, R81, R96,
R121, R158, R173, R182). -/
def Obligations.PowerOnState : Prop :=
  ∀ (k : BitVec 5) (s : State), ∃ t, exec (.powerOn k) s = .next t ∧
    t.cpe.port = .empty ∧ t.cpe.latches = 0 ∧ t.cpe.mask = BitVec.allOnes 17 ∧ t.cpe.straps = k ∧
    t.cpe.resetLow = false ∧ t.fqm.attended = k.getLsbD 4 ∧
    t.tbu.state = .internal ∧ t.tbu.fRef = 0 ∧ t.tbu.exitSource = .internal ∧ t.tbu.reason = .none ∧
    t.tbu.lastCount = 0 ∧ t.tbu.fIntEst = 16384000 ∧ t.tbu.calKept = 0 ∧ t.tbu.calDiscarded = 0 ∧
    t.tbu.tickDivisor = 16384 ∧ t.tbu.wakeCause = .none ∧ t.tbu.inc = ⟨3277, 3277⟩ ∧ t.tbu.rateError = ⟨61, 61⟩ ∧
    (t.unit .A).cfg = ⟨.switched, false, 5000, .oneAndHalf, .full, false, 200, 20⟩ ∧
    (t.unit .B).cfg = ⟨.privateLine, false, 5000, .oneAndHalf, .full, false, 200, 20⟩ ∧
    (∀ l, (t.unit l).acc = 0 ∧ (t.unit l).tx.state = .idle ∧ (t.unit l).tx.pin = .space ∧
      (t.unit l).rx.mode = .off ∧ (t.unit l).rx.age = 65535 ∧ (t.unit l).stats = ⟨0, 0, 0, 0, 0, 0, 0, 0, 0, 0, true⟩ ∧
      (t.csv l).state = .disabled ∧ (t.csv l).direction = .none ∧ (t.csv l).callCount = 0 ∧
      (t.csv l).lastClear = .none ∧ (t.csv l).refusal = .none ∧ (t.csv l).abActive = false ∧ (t.csv l).ending = false ∧
      (t.csv l).values = ⟨true, 32, 50, 500, 150, 2000, 1000, 10000, 5, 10, 60, 120, true⟩ ∧
      t.framerOf l = ⟨.idle, [], none⟩ ∧ t.framingOf l = ⟨[], [78, 78, 78, 78], 10, false⟩ ∧
      (t.selector l).grant = none ∧ (t.selector l).cutoff = none ∧ (t.selector l).companion = none ∧
      (t.selector l).deferral = false ∧ NothingPlaced t l ∧
      t.ctr.tx.get l = .unknown ∧ t.ctr.rx.get l = .unknown) ∧
    t.ctr.tape = .unknown ∧ t.ctr.substitute = 63 ∧ TableSound t.ctr.table ∧
    (t.ctr.table.filter fun e => decide (e.kind = .none)).length = 54 ∧
    t.stm.free = List.range 512 ∧ t.stm.recs = List.replicate 48 none ∧ t.stm.nextNum = ⟨1, 1, 1, 1⟩ ∧
    t.stm.reservation = ⟨0, 0⟩ ∧ t.stm.discarded = ⟨0, 0⟩ ∧ t.stm.episode = ⟨false, false⟩ ∧
    t.stm.cfg = ⟨4096, 64, true⟩ ∧ t.identity = none ∧
    t.xcfg = ⟨false, ⟨false, false, false, false⟩, 2000, .ms500, 256, 64⟩ ∧ t.fqm.seq = 0 ∧
    t.fqm.routes.keyboard = ⟨⟨⟨true, false, false, false⟩, false⟩, ⟨⟨true, false, false, false⟩, false⟩⟩ ∧
    t.fqm.routes.lineA = ⟨⟨⟨true, true, false, false⟩, false⟩, ⟨⟨false, true, false, false⟩, true⟩⟩ ∧
    t.fqm.routes.lineB = t.fqm.routes.lineA ∧
    t.kbs.fifo = [] ∧ t.kbs.mode = .localMode ∧ t.kbs.debounce = 3 ∧ t.kbs.refusals = 0 ∧ t.kbs.lastRefusal = .none ∧
    t.kbs.keymap = List.replicate 64 ⟨.none, 0, 0⟩ ∧ t.kbs.keys = List.replicate 64 ⟨false, 0⟩ ∧
    t.kbs.urgentPending = false ∧ t.kbs.storeFull = false ∧ t.kbs.inputAge = 65535 ∧ t.kbs.repeatKey = none ∧
    kbLocked t = false ∧ bellOut t = false ∧
    t.prc.line = 4 ∧ t.prc.count = 0 ∧ t.prc.page = 0 ∧ t.prc.heat = 0 ∧ t.prc.heatHold = false ∧ t.prc.grant = none ∧
    t.prc.fault = false ∧ t.prc.lastFault = none ∧ t.prc.owedCr = false ∧ t.prc.hold = false ∧
    t.prc.lastServed = .lineB ∧
    t.prc.cfg = ⟨72, 66, 3, 3, false, false, .wrap, true, 300, 1500, 3, 8, 10, 400, 250⟩ ∧
    t.puc.grant = none ∧ t.puc.fault = false ∧ t.puc.lastFault = none ∧ t.puc.hold = false ∧ t.puc.tape = none ∧
    t.puc.tapeHold = false ∧ t.puc.lastServed = .lineB ∧ t.puc.untranslatable = 0 ∧ t.puc.repairs = 0 ∧
    t.puc.cfg = ⟨12, 12, [78, 78, 78, 78], true, 2, 200, 2000⟩ ∧
    ∀ m, (t.motor m).state = .stopped ∧ (t.motor m).request = false ∧ (t.motor m).lastFault = .none ∧
      (t.motor m).faults = 0 ∧ (t.motor m).startLimitMs = 2000 ∧ (t.motor m).idleLowS = 5 ∧ (t.motor m).idleStopS = 60

/-- While RESETN is low the port ignores every transfer, and RDY and ATTN are deasserted (R192, log entry 10). R192
says that the port ignores transfers and that RDY and ATTN are deasserted; that RESETN_ASSERTED changes nothing
else in any block is the model's choice of log entry 10. -/
def Obligations.ResetnLowIgnoresTransfers : Prop :=
  (∀ s : State, ∃ t, exec .resetnAsserted s = .next t ∧ t = { s with cpe := { s.cpe with resetLow := true } } ∧
    rdy t = false ∧ attn t = false) ∧
  ∀ (c : Command) (p mosi : List Byte) (n : Nat) (s : State), s.cpe.resetLow = true →
    exec (c.row p) s = .next s ∧ exec (.commandTransfer mosi) s = .next s ∧ exec (.responseTransfer n) s = .next s

/-- A complete good command transfer does exactly what the row of its command does (R183, R185, log entry 1, log entry
64). That such a transfer leaves the recorded MISO bytes as they were is the model's choice of log entry 64. -/
def Obligations.CommandTransferRunsItsCommand : Prop :=
  (∀ (c : Command) (p extra : List Byte) (s : State), p.length ≤ 248 →
    (∃ t, exec (c.row p) s = .next t ∧
      exec (.commandTransfer ([0xA1, c.code, BitVec.ofNat 8 p.length] ++ p)) s = .next t) ∧
    goodCommand ([0xA1, c.code, BitVec.ofNat 8 p.length] ++ p ++ extra) = some (c, p)) ∧
  ∀ (mosi : List Byte) (s : State), mosi.head? ≠ some 0xA1 → mosi.head? ≠ some 0xA2 →
    exec (.commandTransfer mosi) s = .next s

/-- An incomplete or bad command transfer that is taken answers BAD_COMMAND and executes nothing (R29, R183, R185). -/
def Obligations.BadTransferAnswersBadCommand : Prop :=
  ∀ (mosi : List Byte) (s : State), s.cpe.resetLow = false → s.cpe.port = .empty → mosi.head? = some 0xA1 →
    (∀ (c : Command) (p extra : List Byte), p.length ≤ 248 →
      mosi ≠ [0xA1, c.code, BitVec.ofNat 8 p.length] ++ p ++ extra) →
    ∃ t, exec (.commandTransfer mosi) s = .next t ∧
      t = { s with tbu := t.tbu, cpe := { s.cpe with port := .response .badCommand [],
                                                     miso := List.replicate mosi.length 0 } } ∧
      (s.tbu.state ≠ .standby → t.tbu = s.tbu) ∧
      (s.tbu.state = .standby →
        t.tbu = { s.tbu with state := .waking, wakeCause := .console, wakeTimer := some 2 })

/-- A command transfer that ends in EXECUTING or RESPONSE is discarded with COMMAND_OVERRUN latched (R29, R183, R185,
R186, log entry 1). R186 gives the discard and its event; the wake in STANDBY is R29's and R185's, MISO's zeros
R183's, and that the row of a command stands for its transfer is the model's choice of log entry 1. -/
def Obligations.OverrunDiscardsTheTransfer : Prop :=
  ∀ (i : Instr) (s : State), s.cpe.resetLow = false → s.cpe.port ≠ .empty →
    ((∃ rest, i = .commandTransfer (0xA1 :: rest)) ∨ ∃ (c : Command) (p : List Byte), i = c.row p) →
    ∃ t, exec i s = .next t ∧
      t = { s with tbu := t.tbu, cpe := { s.cpe with latches := t.cpe.latches, miso := t.cpe.miso } } ∧
      t.cpe.latches = s.cpe.latches ||| BitVec.twoPow 17 16 ∧
      (s.tbu.state ≠ .standby → t.tbu = s.tbu) ∧
      (s.tbu.state = .standby →
        t.tbu = { s.tbu with state := .waking, wakeCause := .console, wakeTimer := some 2 })

/-- A response transfer returns the waiting response and consumes it once its status byte has gone out (R187). -/
def Obligations.ResponseTransferReturnsAndConsumes : Prop :=
  ∀ (n : Nat) (s : State), s.cpe.resetLow = false →
    ∃ t, exec (.responseTransfer n) s = .next t ∧
      t = { s with cpe := { s.cpe with port := t.cpe.port, miso := t.cpe.miso } } ∧
      (n = 0 → t = s) ∧
      (∀ st p, s.cpe.port = .response st p →
        (1 ≤ n → t.cpe.miso = ([0, BitVec.ofNat 8 st.code, BitVec.ofNat 8 p.length] ++ p).take n
          ++ List.replicate (n - (3 + p.length)) 0) ∧
        (2 ≤ n → t.cpe.port = .empty ∧ rdy t = false) ∧ (n ≤ 1 → t.cpe.port = s.cpe.port ∧ rdy t = true)) ∧
      (∀ c p, s.cpe.port = .executing c p → t.cpe.port = s.cpe.port ∧
        (1 ≤ n → t.cpe.miso = ([0, 6, 0] : List Byte).take n ++ List.replicate (n - 3) 0)) ∧
      (s.cpe.port = .empty → t.cpe.port = s.cpe.port ∧
        (1 ≤ n → t.cpe.miso = ([0, 7, 0] : List Byte).take n ++ List.replicate (n - 3) 0))

/-- A command received in STANDBY or WAKING is held, and executed when the part runs (R29, R31, R183, R185, log entry
1, log entry 2). That the row of a command stands for its transfer is the model's choice of log entry 1, and that
HELD_COMMAND_EXECUTE changes nothing when not due is that of log entry 2. -/
def Obligations.CommandIsHeldUntilThePartRuns : Prop :=
  (∀ (c : Command) (p : List Byte) (s : State), s.cpe.resetLow = false → s.cpe.port = .empty → s.running = false →
    p.length ≤ 248 → ∃ t, exec (c.row p) s = .next t ∧
      t = { s with tbu := t.tbu, cpe := { s.cpe with port := .executing c p,
                                                     miso := List.replicate (3 + p.length) 0 } } ∧
      rdy t = false ∧ (s.tbu.state = .waking → t.tbu = s.tbu) ∧
      (s.tbu.state = .standby →
        t.tbu = { s.tbu with state := .waking, wakeCause := .console, wakeTimer := some 2 })) ∧
  (∀ s : State, s.running = false ∨ (∀ c p, s.cpe.port ≠ .executing c p) →
    exec .heldCommandExecute s = .next s) ∧
  ∀ (c : Command) (p : List Byte) (s : State), s.running = true → s.cpe.port = .executing c p →
    ∃ t, exec .heldCommandExecute s = .next t ∧
      t = { (runCmd c p s).st with
        cpe := { (runCmd c p s).st.cpe with port := .response (runCmd c p s).status (runCmd c p s).payload } }

/-- READ_EVENTS returns the latched flags and the mask and clears the flags it returned; its companions do what their
rules say (R190). -/
def Obligations.EventCommands : Prop :=
  (∀ s : State, Ready s → ∃ t, exec (.readEvents []) s = .next t ∧ attn t = false ∧
    t = answered 0 .ok (eEvents s.cpe.latches ++ eEvents s.cpe.mask) { s with cpe := { s.cpe with latches := 0 } }) ∧
  (∀ e : BitVec 17, ∃ a b c : Byte, eEvents e = [a, b, c] ∧ u32 a b c 0 = e.toNat) ∧
  (∀ (p : List Byte) (s : State), Ready s → 1 ≤ p.length → p.length ≤ 248 →
    exec (.readEvents p) s = .next (refused p.length .badArgument s) ∧
    exec (.identify p) s = .next (refused p.length .badArgument s)) ∧
  (∀ s : State, Ready s →
    exec (.identify []) s = .next (answered 0 .ok [0x20, 0x51, 0x01, s.cpe.straps.setWidth 8] s)) ∧
  (∀ (a b c : Byte) (s : State), Ready s →
    exec (.setEventMask [a, b, c]) s = .next (if c.toNat < 2
      then answered 3 .ok [] { s with cpe := { s.cpe with mask := BitVec.ofNat 17 (u32 a b c 0) } }
      else refused 3 .badArgument s)) ∧
  (∀ (p : List Byte) (s : State), Ready s → p.length ≤ 248 → p.length ≠ 3 →
    exec (.setEventMask p) s = .next (refused p.length .badArgument s)) ∧
  ∀ s : State, attn s = true ↔ s.cpe.resetLow = false ∧
    ∃ k, s.cpe.latches.getLsbD k = true ∧ s.cpe.mask.getLsbD k = true

/-- A command that carries no payload is refused with BAD_ARGUMENT when one is sent, and nothing changes (R183, R184,
R190, R191, R192, log entry 35). -/
def Obligations.NoPayloadCommandsRefuseOne : Prop :=
  ∀ (c : Command) (p : List Byte) (s : State), Ready s → 1 ≤ p.length → p.length ≤ 248 →
    c ∈ [.identify, .restart, .readEvents, .timebaseStatus, .storeStatus, .storeClear, .keyboardStatus, .printerSetTop,
      .printerStatus, .punchStatus, .motorStatus] →
    exec (c.row p) s = .next (refused p.length .badArgument s)

/-- A command answered BAD_ARGUMENT, WRONG_STATE or NO_RECORD changes nothing but the port (R2, R33, R65, R81, R111,
R134, R158, R173, R183, R189). -/
def Obligations.RefusedCommandsChangeNothing : Prop :=
  ∀ (c : Command) (p : List Byte) (s : State), Ready s → p.length ≤ 248 →
    ∃ t st q, exec (c.row p) s = .next t ∧ t.cpe.port = .response st q ∧
      (st = .badArgument ∨ st = .wrongState ∨ st = .noRecord → q = [] ∧ t = refused p.length st s)

/-- SET_TIMEBASE declares the reference, enters INTERNAL or QUALIFYING and recomputes the increments (R14, R17, R22,
R25). -/
def Obligations.SetTimebaseTakesSourceAndReference : Prop :=
  ∀ (x : Byte) (f : Nat) (s : State), Ready s → f < 2 ^ 32 →
    if (x = 0 ∧ f = 0) ∨ (x.toNat ≤ 1 ∧ 1000000 ≤ f ∧ f ≤ 20000000) then
      ∃ t, exec (.setTimebase (x :: e4 f)) s = .next t ∧
        t = answered 5 .ok [] { s with tbu :=
          { s.tbu with state := if x = 0 then .internal else .qualifying, fRef := if f = 0 then s.tbu.fRef else f,
                       reason := .none, tickDivisor := 16384, calActive := false, calTimer := none,
                       inc := t.tbu.inc, rateError := t.tbu.rateError } } ∧
        ∀ l, t.tbu.inc.get l = increment (s.unit l).cfg.rate s.tbu.fIntEst ∧
          t.tbu.rateError.get l = rateErrorOf (s.unit l).cfg.rate s.tbu.fIntEst (t.tbu.inc.get l)
    else exec (.setTimebase (x :: e4 f)) s = .next (refused 5 .badArgument s)

/-- The increment is the nearest to 2^24 x 64 Q / (100 F), lies in 2,416 to 322,123, and is 3,277 at power-on (R22,
R24, R32). -/
def Obligations.IncrementIsTheNearest : Prop :=
  (∀ q f : Nat, 4500 ≤ q → q ≤ 30000 → 1000000 ≤ f → f ≤ 20000000 →
    2 * (100 * f * increment q f) ≤ 2 * (2 ^ 24 * 64 * q) + 100 * f ∧
    2 * (2 ^ 24 * 64 * q) < 2 * (100 * f * increment q f) + 100 * f ∧
    2416 ≤ increment q f ∧ increment q f ≤ 322123) ∧
  increment 4500 20000000 = 2416 ∧ increment 30000 1000000 = 322123 ∧ increment 5000 16384000 = 3277 ∧
  rateErrorOf 5000 16384000 3277 = 61

/-- STANDBY is taken exactly when R26's conditions hold, and then enters standby as R27 says (R26, R27, R49, R135,
R181, log entry 31, log entry 37, log entry 68). The model's readings: a repeat stopped by standby waits for a new key down
(repeatSpent, R135, log entry 31; where none was running too, log entry 68), on entry to WATCH the last sample is the level last seen on the pin, and a line
hunting on mark is one with the last sample and the pin at mark (log entry 37). -/
def Obligations.StandbyIsEnteredExactlyWhenQuiet : Prop :=
  ∀ (exit : TbSource) (s : State), Ready s →
    let quiet : Prop := s.tbu.state ≠ .qualifying ∧ ¬ (exit = .reference ∧ s.tbu.fRef = 0) ∧
      (∀ l, ((s.csv l).state = .disabled ∨ (s.csv l).state = .free ∨ (s.csv l).state = .fault ∨
          ((s.csv l).state = .running ∧ (s.unit l).rx.mode = .framing ∧ (∃ b, (s.unit l).rx.sub = .hunting b false) ∧
            (s.unit l).rx.last = .mark ∧ (s.unit l).rx.pin = .mark ∧ 1000 ≤ (s.unit l).rx.age)) ∧
        (s.unit l).tx.state = .idle ∧ (s.selector l).grant = none) ∧
      s.kbs.fifo = [] ∧ s.prc.grant = none ∧ s.prc.op = none ∧ s.prc.abandoned = none ∧
      s.puc.grant = none ∧ s.puc.op = none ∧ s.puc.abandoned = none ∧
      ∀ i r, s.record i = some r → ¬ (r.origin = .console ∧ r.state = .opened)
    (quiet → ∃ t, exec (.standby (e1 exit.code)) s = .next t ∧
      t = answered 1 .ok [] { s with
        tbu := { s.tbu with state := .standby, exitSource := exit, calActive := false, calTimer := none,
                            tickDivisor := 32 }
        lu := t.lu
        kbs := { s.kbs with repeatTimer := none, repeatSpent := true }
        mtc := ⟨{ s.mtc.print with state := .stopped, start := none, idle := none },
                { s.mtc.punch with state := .stopped, start := none, idle := none }⟩ } ∧
      ∀ l, if (s.csv l).state = .running
        then t.unit l = { s.unit l with rx := { (s.unit l).rx with
          mode := .watch, sub := .hunting false false, last := (s.unit l).rx.pin, watchSeen := false } }
        else t.unit l = s.unit l) ∧
    (¬ quiet → exec (.standby (e1 exit.code)) s = .next (refused 1 .wrongState s))

/-- QUALIFICATION_END accepts a count within a twentieth of F_REF / 128 and else falls back to INTERNAL (R14, R18, R20,
R21, R25). That the row changes nothing when it is not due is the model's choice of log entry 2. -/
def Obligations.QualificationEndJudgesTheReference : Prop :=
  ∀ (c : Nat) (s : State),
    (s.tbu.state ≠ .qualifying → exec (.qualificationEnd c) s = .next s) ∧
    (s.tbu.state = .qualifying → ∃ t, exec (.qualificationEnd c) s = .next t ∧
      t = { s with tbu := t.tbu, cpe := { s.cpe with latches := s.cpe.latches ||| BitVec.twoPow 17 0 } } ∧
      (if (20 * (128 * (c : Int) - (s.tbu.fRef : Int)).natAbs ≤ s.tbu.fRef) then
        t.tbu = { s.tbu with
          state := .reference, reason := .accepted, lastCount := min c 1048575, calActive := true, calTimer := some 1000
          tickDivisor := roundDiv s.tbu.fRef 1000, inc := t.tbu.inc, rateError := t.tbu.rateError } ∧
        ∀ l, t.tbu.inc.get l = increment (s.unit l).cfg.rate s.tbu.fRef ∧
          t.tbu.rateError.get l = rateErrorOf (s.unit l).cfg.rate s.tbu.fRef (t.tbu.inc.get l)
      else t.tbu = { s.tbu with state := .internal, reason := .rejected, lastCount := min c 1048575 }))

/-- REFERENCE_LOST falls back to the internal oscillator as DEGRADED (R14, R19, R25). That the row changes nothing when
it is not due is the model's choice of log entry 2. -/
def Obligations.ReferenceLostFallsBack : Prop :=
  ∀ s : State,
    (s.tbu.state ≠ .reference → exec .referenceLost s = .next s) ∧
    (s.tbu.state = .reference → ∃ t, exec .referenceLost s = .next t ∧
      t = { s with
        tbu := { s.tbu with
          state := .degraded, reason := .lost, tickDivisor := 16384, calActive := false, calTimer := none
          calDiscarded := if s.tbu.calActive then min (s.tbu.calDiscarded + 1) 65535 else s.tbu.calDiscarded
          inc := t.tbu.inc, rateError := t.tbu.rateError }
        cpe := { s.cpe with latches := s.cpe.latches ||| BitVec.twoPow 17 0 } } ∧
      ∀ l, t.tbu.inc.get l = increment (s.unit l).cfg.rate s.tbu.fIntEst ∧
        t.tbu.rateError.get l = rateErrorOf (s.unit l).cfg.rate s.tbu.fIntEst (t.tbu.inc.get l))

/-- A calibration begins every 1,000 ms in REFERENCE and keeps an estimate within 3 % of 16,384,000 (R20). That a row
changes nothing when it is not due is the model's choice of log entry 2. -/
def Obligations.CalibrationKeepsOrDiscards : Prop :=
  (∀ s : State, exec .calibrationStart s = .next
    (if s.tbu.state = .reference ∧ s.tbu.calTimer = some 0
      then { s with tbu := { s.tbu with calActive := true, calTimer := some 1000 } } else s)) ∧
  ∀ (n : Nat) (s : State), exec (.calibrationEnd n) s = .next
    (if s.tbu.state = .reference ∧ s.tbu.calActive = true then
      if 15892480 ≤ roundDiv (n * s.tbu.fRef) 65536 ∧ roundDiv (n * s.tbu.fRef) 65536 ≤ 16875520
      then { s with tbu := { s.tbu with calActive := false, fIntEst := roundDiv (n * s.tbu.fRef) 65536,
                                        calKept := min (s.tbu.calKept + 1) 65535 } }
      else { s with tbu := { s.tbu with calActive := false, calDiscarded := min (s.tbu.calDiscarded + 1) 65535 } }
    else s)

/-- WAKE_COMPLETE puts the part back on the fast oscillator, and qualifies the reference if standby asked for it (R30,
R39, R49, R103, R181). That the row changes nothing when it is not due is the model's choice of log entry 2. -/
def Obligations.WakeCompleteResumes : Prop :=
  ∀ s : State,
    (¬ (s.tbu.state = .waking ∧ s.tbu.wakeTimer = some 0) → exec .wakeComplete s = .next s) ∧
    (ModesFollow s → s.tbu.state = .waking → s.tbu.wakeTimer = some 0 → ∃ t, exec .wakeComplete s = .next t ∧
      t.tbu = { s.tbu with
        state := if s.tbu.exitSource = .reference then .qualifying else .internal
        tickDivisor := 16384, wakeTimer := none, inc := t.tbu.inc, rateError := t.tbu.rateError
        calActive := t.tbu.calActive, calTimer := t.tbu.calTimer } ∧
      (∀ l, t.tbu.inc.get l = increment (s.unit l).cfg.rate s.tbu.fIntEst) ∧
      Latched t .wake ∧ t.ctr = s.ctr ∧ t.identity = s.identity ∧ t.xcfg = s.xcfg ∧ t.stm.cells = s.stm.cells ∧
      t.fqm.framer = s.fqm.framer ∧ t.fqm.sel = s.fqm.sel ∧ t.cpe.port = s.cpe.port ∧ t.pending = s.pending ∧
      ∀ l, (t.unit l).cfg = (s.unit l).cfg ∧ (t.unit l).acc = (s.unit l).acc ∧
        ((s.unit l).rx.mode = .watch → (t.unit l).rx.mode = .framing ∧ (t.unit l).rx.sub =
          if (s.unit l).rx.pin = .space then .spaceHeld 0 else .hunting false false) ∧
        ((s.csv l).state = .answering →
          (t.unit l).tx.ordered = .mark ∧ (t.csv l).timers.confirm = some (s.csv l).values.confirmMs))

/-- MILLISECOND_TICK takes one from every running timer and samples the level inputs, and touches nothing else (R20,
R21, R28, R30, R40, R44, R49, R132, R149, R153, R179, R182). That a timer at 0 waits for its row, and an unreported
condition or change for its own, is the model's choice of log entry 2. -/
def Obligations.MillisecondTickCountsEveryTimer : Prop :=
  ∀ (i : TickPins) (s : State), ∃ t, exec (.millisecondTick i) s = .next t ∧
    t.ctr = s.ctr ∧ t.identity = s.identity ∧ t.xcfg = s.xcfg ∧ t.stm = s.stm ∧ t.cpe = s.cpe ∧
    t.pending = s.pending ∧ t.fqm = { s.fqm with framer := t.fqm.framer } ∧
    t.tbu = { s.tbu with
      calTimer := tickDown s.tbu.calTimer
      wakeTimer := if s.tbu.state = .waking then tickDown s.tbu.wakeTimer else s.tbu.wakeTimer } ∧
    t.kbs = { s.kbs with scanTimer := s.kbs.scanTimer - 1, repeatTimer := tickDown s.kbs.repeatTimer,
                         bell := tickDown s.kbs.bell, inputAge := min (s.kbs.inputAge + 1) 65535 } ∧
    t.prc = { s.prc with
      op := s.prc.op.map fun o => (o.1, o.2 - 1), abandoned := tickDown s.prc.abandoned
      release := tickDown s.prc.release, yieldTimer := t.prc.yieldTimer, decay := s.prc.decay - 1
      papLow := s.prc.papLow.sample 20 i.papLow, papOut := s.prc.papOut.sample 20 i.papOut
      cover := s.prc.cover.sample 20 i.cover } ∧
    (s.prc.yieldTimer = none → t.prc.yieldTimer = none) ∧
    (∀ n m, s.prc.yieldTimer = some (n, m) → t.prc.yieldTimer = some (if n < m then n + 1 else n, m)) ∧
    t.puc = { s.puc with
      op := s.puc.op.map fun o => (o.1, o.2 - 1), abandoned := tickDown s.puc.abandoned
      release := tickDown s.puc.release, tapLow := s.puc.tapLow.sample 20 i.tapLow
      tapOut := s.puc.tapOut.sample 20 i.tapOut, chad := s.puc.chad.sample 20 i.chad } ∧
    (∀ (k : Mech) (speed : Bool), speed = (match k with | .print => i.pspd | .punch => i.uspd) →
      t.motor k = { s.motor k with
        start := tickDown (s.motor k).start, idle := (s.motor k).idle.map fun n => min (n + 1) 3600000
        speed := (s.motor k).speed.sample 5 speed, lowS := (s.motor k).idleLowS, stopS := (s.motor k).idleStopS }) ∧
    ∀ (l : LineId) (lv : Level), lv = (match l with | .A => i.rxA | .B => i.rxB) →
      let r := (s.unit l).rx
      t.unit l = { s.unit l with rx :=
        { r with pin := lv, age := min (r.age + 1) 65535, last := (t.unit l).rx.last,
                 watchSeen := (t.unit l).rx.watchSeen } } ∧
      ((t.unit l).rx.last, (t.unit l).rx.watchSeen) = (
        if s.running = false ∧ r.mode = .condition ∧ r.last = r.known then (lv, r.watchSeen)
        else if s.running = false ∧ r.mode = .watch ∧ r.watchSeen = false
          then (lv, decide (r.last = .mark ∧ lv = .space))
        else (r.last, r.watchSeen)) ∧
      t.framerOf l = { s.framerOf l with gap := tickDown (s.framerOf l).gap } ∧
      t.csv l = { s.csv l with
        timers := (s.csv l).timers.tick
        exch := { (s.csv l).exch with offerTimer := tickDown (s.csv l).exch.offerTimer
                                      pageTimer := tickDown (s.csv l).exch.pageTimer } }

/-- A timer that counts n milliseconds down has run out exactly at the n-th tick after it starts, in every timebase
state (R20, R21, R28, log entry 2). That a timer at 0 waits there for its row is the model's choice, log entry 2. -/
def Obligations.TimersExpireOnTheNthTick : Prop :=
  ∀ (pins : List TickPins) (s : State) (l : LineId) (k : Mech) (n : Nat),
    let t := pins.foldl (fun s i => millisecondTick i s) s
    (∀ f ∈ ([fun s => (s.csv l).timers.recognize, fun s => (s.csv l).timers.clearRecognize,
        fun s => (s.csv l).timers.confirm, fun s => (s.csv l).timers.clearConfirm, fun s => (s.csv l).timers.guard,
        fun s => (s.csv l).timers.callConfirm, fun s => (s.csv l).timers.proceed, fun s => (s.csv l).timers.connect,
        fun s => (s.csv l).timers.quiet, fun s => (s.csv l).timers.capture, fun s => (s.csv l).timers.idle,
        fun s => (s.csv l).timers.fault, fun s => (s.csv l).timers.recovery, fun s => (s.csv l).timers.prepPrint,
        fun s => (s.csv l).timers.prepPunch, fun s => (s.csv l).exch.offerTimer, fun s => (s.csv l).exch.pageTimer,
        fun s => (s.framerOf l).gap, fun s => s.tbu.calTimer, fun s => s.kbs.repeatTimer, fun s => s.kbs.bell,
        fun s => s.prc.abandoned, fun s => s.prc.release, fun s => s.puc.abandoned, fun s => s.puc.release,
        fun s => (s.motor k).start] : List (State → Option Nat)),
      f s = some n → f t = some (n - pins.length)) ∧
    (∀ op, s.prc.op = some (op, n) → t.prc.op = some (op, n - pins.length)) ∧
    ∀ op, s.puc.op = some (op, n) → t.puc.op = some (op, n - pins.length)

/-- SET_CODE_TABLE replaces exactly the entries it names, and the substitute unless its byte is 0 (R1, R2). -/
def Obligations.SetCodeTableLoadsItsEntries : Prop :=
  (∀ (sub : Byte) (es : List (Nat × Shift × CodeEntry)) (s : State), Ready s → s.ctr.table.length = 64 →
    1 ≤ es.length → es.length ≤ 52 → (∀ x ∈ es, x.1 < 32) →
    let p := [sub, BitVec.ofNat 8 es.length]
      ++ es.flatMap fun x => e1 x.1 ++ e1 x.2.1.code ++ e1 x.2.2.kind.code ++ [x.2.2.chr.setWidth 8]
    let legal := sub.toNat ≤ 127 ∧ sub.toNat ∉ [5, 7, 10, 12, 13, 32]
    (legal → (∀ x ∈ es, fixedComb x.1 = false ∧ x.2.2.legal = true) → (es.map fun x => (x.1, x.2.1)).Nodup →
      ∃ u t, exec (.setCodeTable p) s = .next t ∧ Settled bothLines u t ∧
        u = answered p.length .ok [] { s with ctr := { s.ctr with
          table := u.ctr.table, substitute := if sub = 0 then s.ctr.substitute else sub.setWidth 7 } } ∧
        u.ctr.table.length = 64 ∧
        ∀ (k : Nat) (sh : Shift), k < 32 → tableEntry u.ctr.table k sh =
          match es.find? (fun x => decide (x.1 = k) && decide (x.2.1 = sh)) with
          | some x => x.2.2
          | none => tableEntry s.ctr.table k sh) ∧
    (¬ legal ∨ (∃ x ∈ es, fixedComb x.1 = true ∨ x.2.2.legal = false) ∨ ¬ (es.map fun x => (x.1, x.2.1)).Nodup →
      exec (.setCodeTable p) s = .next (refused p.length .badArgument s))) ∧
  ∀ (p : List Byte) (s : State), Ready s → p.length ≤ 248 →
    let at' (k : Nat) : Nat := (p.getD k 0).toNat
    let n := at' 1
    (n < 1 ∨ 52 < n ∨ p.length ≠ 2 + 4 * n ∨ ∃ i < n, 31 < at' (2 + 4 * i) ∨ 1 < at' (3 + 4 * i) ∨
      at' (4 + 4 * i) ∉ [0, 1, 4, 5, 6, 7] ∨ 127 < at' (5 + 4 * i)) →
    exec (.setCodeTable p) s = .next (refused p.length .badArgument s)

/-- The transmit translation takes the lowest LETTERS combination, else the lowest FIGURES one (R4, R5, R6, log entry
41). R4 says that SP, CR and LF translate to 4, 8 and 2; in a table that holds one of them at a lower combination
the search goes first, which is the model's reading of log entry 41. -/
def Obligations.TransmitTranslationTakesTheLowest : Prop :=
  (∀ (c : Chr) (e : CodeEntry), carries c e = true ↔
    c ≠ 0 ∧ (c = 5 → e.kind = .wru) ∧ (c = 7 → e.kind = .bell) ∧ (c ≠ 5 → c ≠ 7 → e.kind = .char ∧ e.chr = c)) ∧
  ∀ (t : List CodeEntry) (want : CodeEntry → Bool) (answer : Option Sending),
    ((∃ c : Chr, want = carries c ∧ answer = translateChr t c) ∨
      (want = (fun e => decide (e.kind = .selectEnd)) ∧ answer = translateSelectEnd t)) →
    (∀ k < 32, want (tableEntry t k .letters) = true → (∀ j < k, want (tableEntry t j .letters) = false) →
      answer = some ⟨BitVec.ofNat 5 k, if want (tableEntry t k .figures) then none else some .letters⟩) ∧
    ((∀ k < 32, want (tableEntry t k .letters) = false) →
      (∀ k < 32, want (tableEntry t k .figures) = true → (∀ j < k, want (tableEntry t j .figures) = false) →
        answer = some ⟨BitVec.ofNat 5 k, some .figures⟩) ∧
      ((∀ k < 32, want (tableEntry t k .figures) = false) → answer = none))

/-- SET_LINE is taken in DISABLED, FREE and FAULT, replaces the line's record and makes the change of state of R34
(R25, R32, R33, R34, R36, R38, R92, R101, R117). -/
def Obligations.SetLineReplacesTheRecord : Prop :=
  (∀ (line ty en st du us al : Byte) (rate turn : Nat) (s : State), Ready s → rate < 65536 → turn < 65536 →
    ¬ (line.toNat ≤ 1 ∧ ty.toNat ≤ 1 ∧ en.toNat ≤ 1 ∧ 4500 ≤ rate ∧ rate ≤ 30000 ∧ st.toNat ≤ 2 ∧ du.toNat ≤ 1 ∧
      us.toNat ≤ 1 ∧ 50 ≤ turn ∧ turn ≤ 1000 ∧ 4 ≤ al.toNat ∧ al.toNat ≤ 32) →
    exec (.setLine ([line, ty, en] ++ e2 rate ++ [st, du, us] ++ e2 turn ++ [al])) s =
      .next (refused 11 .badArgument s)) ∧
  ∀ (l : LineId) (c : LineConfig) (s : State), Ready s → ModesFollow s → 4500 ≤ c.rate → c.rate ≤ 30000 →
    50 ≤ c.turnaroundMs → c.turnaroundMs ≤ 1000 → 4 ≤ c.alarmThreshold → c.alarmThreshold ≤ 32 →
    let p := e1 (lineCode l) ++ eLineConfig c
    let before := (s.csv l).state
    (¬ (before = .disabled ∨ before = .free ∨ before = .fault) →
      exec (.setLine p) s = .next (refused 11 .wrongState s)) ∧
    (before = .disabled ∨ before = .free ∨ before = .fault →
      ∃ t, exec (.setLine p) s = .next t ∧ t.cpe.port = .response .ok [] ∧
        (t.unit l).cfg = c ∧ (t.unit l).acc = (s.unit l).acc ∧ (t.unit l).stats = (s.unit l).stats ∧
        (t.unit l).rx.age = (s.unit l).rx.age ∧
        t.tbu = { s.tbu with inc := t.tbu.inc, rateError := t.tbu.rateError } ∧
        t.tbu.inc.get l = increment c.rate s.tbu.believedF ∧
        t.tbu.rateError.get l = rateErrorOf c.rate s.tbu.believedF (t.tbu.inc.get l) ∧
        OtherLineKept s t l ∧ t.prc = s.prc ∧ t.puc = s.puc ∧ t.mtc = s.mtc ∧ t.identity = s.identity ∧
        t.xcfg = s.xcfg ∧ t.stm.cells = s.stm.cells ∧ t.stm.free = s.stm.free ∧ t.pending = s.pending ∧
        (c.enable = false → (t.csv l).state = .disabled ∧
          (before ≠ .disabled → (t.unit l).rx.mode = .off ∧ (t.unit l).tx.state = .idle ∧
            t.ctr.tx.get l = .unknown ∧ t.ctr.rx.get l = .unknown)) ∧
        (c.enable = true → c.lineType = .switched →
          (before = .free → t.csv l = s.csv l ∧ (t.unit l).rx = (s.unit l).rx) ∧
          (before ≠ .free → (t.unit l).tx.ordered = .space ∧ (t.unit l).rx.mode = .condition ∧
            (t.csv l).state = if (t.unit l).rx.known = .mark then .incoming else .free)) ∧
        (c.enable = true → c.lineType = .privateLine →
          (before = .fault → t.csv l = s.csv l ∧ t.ctr = s.ctr) ∧
          (before ≠ .fault → (t.csv l).state = .running ∧ (t.unit l).tx.ordered = .mark ∧
            (t.unit l).rx.mode = .framing ∧ (t.csv l).callCount = nextCall (s.csv l).callCount ∧
            (t.csv l).direction = .none ∧ (t.csv l).remaining = .unlimited ∧ t.stm.reservation.get l = 0 ∧
            t.ctr.tx.get l = .unknown ∧ t.ctr.rx.get l = .unknown ∧
            ∀ i, t.record i = (s.record i).map fun r => { r with charged := r.charged.set l false })))

/-- LINE_TICK wraps the line's accumulator and gives its transmitter and receiver one tick (R14, R23, R27, R37, R41,
R42, R45, log entry 3, log entry 4). -/
def Obligations.LineTickStepsTheLine : Prop :=
  ∀ (l : LineId) (lv : Level) (s : State), ∃ t, exec (.lineTick l lv) s = .next t ∧ t = { s with lu := t.lu } ∧
    (∀ k, k ≠ l → t.unit k = s.unit k) ∧ (t.unit l).rx.pin = lv ∧
    (s.running = false → t.unit l = { s.unit l with rx := { (s.unit l).rx with pin := lv } }) ∧
    (s.running = true →
      (t.unit l).cfg = (s.unit l).cfg ∧ (t.unit l).stats = (s.unit l).stats ∧
      (t.unit l).rx.mode = (s.unit l).rx.mode ∧ (t.unit l).rx.age = (s.unit l).rx.age ∧
      (0 < s.tbu.inc.get l → s.tbu.inc.get l ≤ 2 ^ 24 → ∃ k, 0 < k ∧
        (s.unit l).acc.toNat + (k - 1) * s.tbu.inc.get l < 2 ^ 24 ∧
        (s.unit l).acc.toNat + k * s.tbu.inc.get l = 2 ^ 24 + (t.unit l).acc.toNat) ∧
      ((s.unit l).tx.state = .idle → (t.unit l).tx = (s.unit l).tx) ∧
      (∀ c stop pos, (s.unit l).tx.state = .sending c stop pos → pos < 384 + stop →
        (t.unit l).tx = { (s.unit l).tx with state := .sending c stop (pos + 1), pin := txLevel c (pos + 1) }) ∧
      ((s.unit l).rx.mode = .condition → (s.unit l).rx.last = (s.unit l).rx.known →
        (t.unit l).rx = { (s.unit l).rx with pin := lv, last := lv }) ∧
      ((s.unit l).rx.due = true → (t.unit l).rx = { (s.unit l).rx with pin := lv }) ∧
      ((s.unit l).rx.mode = .framing →
        (∀ resume, (s.unit l).rx.sub = .hunting resume false → (t.unit l).rx.last = lv ∧ (t.unit l).rx.sub =
          .hunting false (decide (lv = .space ∧ (resume = true ∨ (s.unit l).rx.last = .mark)))) ∧
        (∀ m, (s.unit l).rx.sub = .spaceHeld m → m < 32 →
          (t.unit l).rx.last = lv ∧ (t.unit l).rx.sub = .spaceHeld (if lv = .mark then m + 1 else 0)) ∧
        (∀ f, (s.unit l).rx.sub = .character f → f.pos < 416 → (f.pos = 32 → f.started = true) →
          ∃ g, (t.unit l).rx.last = lv ∧ (t.unit l).rx.sub = .character g ∧ g.pos = f.pos + 1 ∧
            g.started = f.started ∧
            ((∃ k, 1 ≤ k ∧ k ≤ 5 ∧ (g.pos = 64 * k + 30 ∨ g.pos = 64 * k + 32 ∨ g.pos = 64 * k + 34)) →
              g.samples = f.samples ++ [lv]) ∧
            ((∀ k, 1 ≤ k → k ≤ 5 → g.pos ≠ 64 * k + 30 ∧ g.pos ≠ 64 * k + 32 ∧ g.pos ≠ 64 * k + 34) →
              g.samples = f.samples) ∧
            g.peak = (if lv ≠ (s.unit l).rx.last ∧ 32 ≤ g.pos ∧ g.pos ≤ 415
              then max f.peak ((g.pos : Int) - 64 * (((g.pos + 32) / 64 : Nat) : Int)).natAbs else f.peak))))

/-- A character is 64 ticks of space, its five units of 64 ticks, and mark for its stop length (R37). -/
def Obligations.CharacterWaveform : Prop :=
  ∀ (c : Comb) (stop : Nat) (lvs : List Level) (l : LineId) (s : State), s.running = true →
    (s.unit l).tx.state = .sending c stop 0 → (s.unit l).tx.pin = .space → lvs.length ≤ 384 + stop →
    let t := lvs.foldl (fun s lv => lineTick l lv s) s
    (t.unit l).tx.state = .sending c stop lvs.length ∧
    (lvs.length < 64 → (t.unit l).tx.pin = .space) ∧
    (∀ k < 5, 64 * (k + 1) ≤ lvs.length → lvs.length < 64 * (k + 2) →
      (t.unit l).tx.pin = if c.getLsbD k then .mark else .space) ∧
    (384 ≤ lvs.length → (t.unit l).tx.pin = .mark)

/-- TX_CHARACTER_START hands the first of companion, sequence, answerback, cut-off and record, each with its shift
before it (section 3.3, R5, R12, R13, R43, R87, R88, R92, R104, R106, R113, R122). That the row changes nothing
where it is not taken is log entry 2; when the answerback's need of a shift is looked up is log entry 42. -/
def Obligations.TxCharacterStartHandsTheNext : Prop :=
  ∀ (l : LineId) (s : State),
    let takes := s.running = true ∧ (s.csv l).state ≠ .disabled ∧ (s.unit l).tx.state = .idle ∧
      (s.unit l).tx.ordered = .mark
    let x := s.selector l
    let d := sendOf l
    let sends (t : State) (c : Comb) : Prop :=
      t.unit l = { s.unit l with
        tx := { (s.unit l).tx with state := .sending c (s.unit l).cfg.stop.ticks 0, pin := .space }
        rx := { (s.unit l).rx with sub := match (s.unit l).rx.sub with
          | .hunting resume seen =>
            if ((s.unit l).cfg.duplex = .half ∨ (s.csv l).exch.half = true) ∧ (s.unit l).rx.mode = .framing
            then .blanked else .hunting resume seen
          | sub => sub } } ∧
      (t.selector l).flight ≠ none ∧ t.tbu = s.tbu ∧ t.identity = s.identity ∧ t.stm.cells = s.stm.cells ∧
      OtherLineKept s t l ∧ ((s.csv l).state = .connected → (t.csv l).timers.idle =
        if (s.csv l).values.idleTimeoutS = 0 then none else some (1000 * (s.csv l).values.idleTimeoutS))
    let unstopped := ∀ g, x.grant = some g → ∃ r, s.record g.index = some r ∧ r.stops.get d = false
    let goesOn := ∀ g, x.grant = some g → ∃ r, s.record g.index = some r ∧ r.stops.get d = false ∧
      (g.lead ≠ [] ∨ (∃ c cs, g.tail = some (c :: cs)) ∨ (g.tail = none ∧ r.cursor.get d < r.length))
    let spaced (sp : Bool) : ShiftRecord := if sp = true ∧ (s.unit l).cfg.usos = true then .held .letters
      else s.ctr.tx.get l
    let sent (t : State) (b : Comb) (fl : Flight) (tx : ShiftRecord) (y : Selector) : Prop := sends t b ∧
      t.ctr.rx = s.ctr.rx ∧ t.ctr.table = s.ctr.table ∧ t.ctr.tx.get l = tx ∧
      t.selector l = { y with flight := some fl }
    let charges (t : State) (r : Rec) (live handed : Bool) : Prop := (t.csv l).remaining =
      match (s.csv l).remaining with
      | .unlimited => .unlimited
      | .blocks n => .blocks (if live = true ∧ handed = true ∧ 0 < r.cursor.get d ∧ r.cursor.get d % 32 = 0 then n - 1 else n)
    let moves (t : State) (g : SendGrant) (r : Rec) (handed : Bool) : Prop := charges t r g.live handed ∧
      ∃ u, Settled noLine u t ∧ (∀ j, j ≠ g.index → u.record j = s.record j) ∧
        u.record g.index = some (if handed then { r with cursor := r.cursor.set d (r.cursor.get d + 1) } else r)
    let emits (t : State) (y : Sending) (c : Chr) (fl : Flight) (after : Selector) : Prop :=
      (∀ sh, shiftBefore (s.ctr.tx.get l) y = some sh → sent t sh.comb fl (.held sh)
        { x with companion := some ⟨y.comb, decide (c = 32), fl⟩ }) ∧
      (shiftBefore (s.ctr.tx.get l) y = none → sent t y.comb fl (spaced (decide (c = 32))) after)
    (¬ takes → exec (.txCharacterStart l) s = .next s) ∧
    (takes → ∃ t, exec (.txCharacterStart l) s = .next t ∧
      (∀ c, x.companion = some c → sends t c.comb ∧ (t.selector l).companion = none ∧
        t.ctr.rx = s.ctr.rx ∧ (t.selector l).flight = some c.flight ∧
        (unstopped →
          (∀ k is qs, c.flight = .seq → x.seqs = ⟨k, is⟩ :: qs → sent t c.comb c.flight (spaced c.space)
            { x with companion := none, seqs := ⟨k, is.tail⟩ :: qs }) ∧
          (∀ a, c.flight = .answerback → x.answerback = some a → sent t c.comb c.flight (spaced c.space)
            { x with companion := none, answerback := some { a with rest := a.rest.tail } }) ∧
          (∀ cs, c.flight = .cutoff → x.cutoff = some cs → sent t c.comb c.flight (spaced c.space)
            { x with companion := none, cutoff := some cs.tail }) ∧
          ∀ g, x.grant = some g →
            (c.flight = .recordLead → sent t c.comb c.flight (spaced c.space)
              { x with companion := none, grant := some { g with lead := g.lead.tail, handed := true } }) ∧
            (c.flight = .recordTail → sent t c.comb c.flight (spaced c.space)
              { x with companion := none, grant := some { g with tail := g.tail.map List.tail, handed := true } }) ∧
            ∀ r, c.flight = .recordText → s.record g.index = some r →
              sent t c.comb c.flight (spaced c.space) { x with companion := none, grant := some { g with handed := true } } ∧
              moves t g r true)) ∧
      (x.companion = none → x.flight = none →
        (∀ k b is qs, x.seqs = ⟨k, .raw b :: is⟩ :: qs → sends t b ∧ t.ctr = s.ctr ∧
          ∃ more, (t.selector l).seqs = ⟨k, is⟩ :: qs ++ more ∧ (x.answerback = none → more = [])) ∧
        (∀ k i is qs y, x.seqs = ⟨k, i :: is⟩ :: qs → (∀ b, i ≠ .raw b) → translateItem s.ctr.table i = some y →
          (∀ sh, shiftBefore (s.ctr.tx.get l) y = some sh → sends t sh.comb ∧ t.ctr.tx.get l = .held sh ∧
            (t.selector l).companion = some ⟨y.comb, decide (i = .chr 32), .seq⟩ ∧
            ∃ more, (t.selector l).seqs = ⟨k, i :: is⟩ :: qs ++ more ∧ (x.answerback = none → more = [])) ∧
          (shiftBefore (s.ctr.tx.get l) y = none → sends t y.comb ∧ (t.selector l).companion = none ∧
            (((s.unit l).cfg.usos = false ∨ i ≠ .chr 32) → t.ctr = s.ctr) ∧
            ∃ more, (t.selector l).seqs = ⟨k, is⟩ :: qs ++ more ∧ (x.answerback = none → more = []))) ∧
        (x.seqs = [] → goesOn →
          (∀ c cs forced y, x.answerback = some ⟨c :: cs, forced⟩ → x.cutoff ≠ some [] →
            translateChr s.ctr.table c = some y →
            (forced = false → emits t y c .answerback { x with answerback := some ⟨cs, false⟩ }) ∧
            (forced = true →
              ((∀ b ∈ c :: cs, ∀ z, translateChr s.ctr.table b = some z → z.need = none) →
                sent t 31 .answerback (.held .letters) { x with answerback := some ⟨c :: cs, false⟩ }) ∧
              (∀ sh, y.need = some sh → sent t sh.comb .answerback (.held sh) { x with
                answerback := some ⟨c :: cs, false⟩, companion := some ⟨y.comb, decide (c = 32), .answerback⟩ }) ∧
              (y.need = none → (∃ b ∈ cs, ∃ z, translateChr s.ctr.table b = some z ∧ z.need ≠ none) →
                sent t y.comb .answerback (spaced (decide (c = 32))) { x with answerback := some ⟨cs, true⟩ }))) ∧
          (∀ c cs y, x.answerback = none → x.cutoff = some (c :: cs) → translateChr s.ctr.table c = some y →
            emits t y c .cutoff { x with cutoff := some cs }) ∧
          ∀ g r, x.answerback = none → x.cutoff = none → x.grant = some g → s.record g.index = some r →
            let ready := ((s.csv l).state = .running ∨
                ((s.csv l).state = .connected ∧ ((s.csv l).exch.sub = .done ∨ (s.csv l).exch.sub = .plain))) ∧
              ¬ (halfDuplex s l = true ∧ receiveBusy s l = true)
            (¬ ready → t.unit l = s.unit l ∧ t.selector l = x) ∧
            (∀ c cs y, ready → g.lead = c :: cs → translateChr s.ctr.table c = some y →
              emits t y c .recordLead { x with grant := some { g with lead := cs, handed := true } }) ∧
            (∀ c cs y, ready → g.lead = [] → g.tail = some (c :: cs) → translateChr s.ctr.table c = some y →
              emits t y c .recordTail { x with grant := some { g with tail := some cs, handed := true } }) ∧
            ∀ y, ready → g.lead = [] → g.tail = none →
              translateChr s.ctr.table (readChar s r (r.cursor.get d)) = some y →
              emits t y (readChar s r (r.cursor.get d)) .recordText { x with grant := some { g with handed := true } } ∧
              moves t g r (decide (shiftBefore (s.ctr.tx.get l) y = none)))) ∧
      (x.companion = none → NothingPlaced s l → x.cutoff = none →
        x.grant = none → t.unit l = s.unit l ∧ t.selector l = x))

/-- TX_CHARACTER_END frees the transmitter and takes what has ended: a sequence, an answerback, a cut-off or a grant
(R36, R43, R62, R63, R92, R104, R113, R114, R123, R127, R129, log entry 49). That the row changes nothing before it
is due is log entry 2; that these ends are taken in the same step is log entry 17; that the cut-off is owed by what
this grant handed, not by an earlier grant of the record on this connection, is the model's reading of R92, log
entry 49. -/
def Obligations.TxCharacterEndFreesTheTransmitter : Prop :=
  ∀ (l : LineId) (s : State),
    ((∀ c stop pos, (s.unit l).tx.state = .sending c stop pos → pos < 384 + stop) →
      exec (.txCharacterEnd l) s = .next s) ∧
    (∀ c stop pos, (s.unit l).tx.state = .sending c stop pos → 384 + stop ≤ pos →
      ∃ u t, exec (.txCharacterEnd l) s = .next t ∧ Settled (oneLine l) u t ∧
        u = { s with lu := u.lu, fqm := { s.fqm with sel := u.fqm.sel } } ∧
        (∀ k, k ≠ l → u.unit k = s.unit k ∧ u.selector k = s.selector k) ∧
        u.selector l = { s.selector l with flight := none } ∧
        u.unit l = { s.unit l with
          tx := { (s.unit l).tx with state := .idle, pin := (s.unit l).tx.ordered }
          rx := { (s.unit l).rx with sub := (if (s.unit l).rx.sub = .blanked
            then .hunting false (decide ((s.unit l).rx.last = .space)) else (s.unit l).rx.sub) } } ∧
        (t.unit l).tx = (u.unit l).tx ∧ (t.unit l).rx = (u.unit l).rx ∧
        let x := u.selector l
        let v := s.csv l
        let d := sendOf l
        let closing := [13, 10] ++ (s.framingOf l).eom
        let unstopped := ∀ g, x.grant = some g → ∃ r, s.record g.index = some r ∧ r.stops.get d = false
        let settles (w : State) : Prop := Settled (oneLine l) w t
        (x.companion = none → unstopped →
          (∀ k qs, x.seqs = ⟨k, []⟩ :: qs →
            let w := u.setSelector l { x with seqs := qs }
            (k = .selection → v.state = .selecting → settles (w.setCsv l { v with
              state := .awaitConnect, phase := .progress false, captured := [], exch := { v.exch with sub := .offerWait }
              timers := { SupTimers.stopped with
                prepPrint := v.timers.prepPrint, prepPunch := v.timers.prepPunch
                clearRecognize := v.timers.clearRecognize, connect := some (1000 * v.values.connectS) } })) ∧
            (k = .wru → v.phase = .asking → settles (w.setCsv l { v with
              phase := .capturing, captured := [], timers := { v.timers with capture := some 500 } })) ∧
            (k = .offer ∨ k = .page → v.exch.sub.isPaging = true → (∀ q ∈ qs, q.kind ≠ .offer ∧ q.kind ≠ .page) →
              settles (w.setCsv l { v with exch := { v.exch with pageTimer := some s.xcfg.pageTimer.ms } })) ∧
            (k = .close → v.exch.sub = .closing → ∃ e rem, ExchangeAgreed v e rem ∧
              let z := (w.setCsv l { v with exch := e, remaining := rem }).latch (stateEvent l)
              (¬ (v.state = .awaitConnect ∧ v.phase = .progress false) → settles z) ∧
              (v.state = .awaitConnect → v.phase = .progress false → settles (placeWru z l))) ∧
            ((k = .selection → v.state ≠ .selecting) → (k = .wru → v.phase ≠ .asking) →
              (k = .offer ∨ k = .page → v.exch.sub.isPaging = false) → (k = .close → v.exch.sub ≠ .closing) →
              settles w)) ∧
          ((∀ q qs, x.seqs = q :: qs → q.items ≠ []) →
            (∀ forced, x.answerback = some ⟨[], forced⟩ →
              let w := (u.setSelector l { x with answerback := none }).setCsv l { v with abActive := false }
              settles (if offerWaiting s l then placeOffer w l else w)) ∧
            ((∀ a, x.answerback = some a → a.rest ≠ []) →
              (x.cutoff = some [] → settles (u.setSelector l { x with cutoff := none })) ∧
              ∀ g r, x.cutoff ≠ some [] → x.grant = some g → g.lead = [] → s.record g.index = some r →
                let w := u.setSelector l { x with grant := none }
                let ended := { r with grants := r.grants.set d false, stops := r.stops.set d false }
                (g.tail = some [] → ∃ z, settles z ∧ z.selector l = { x with grant := none } ∧ z.lu = w.lu ∧
                  z.sup = w.sup ∧ RecordLeft w z g.index
                    { ended with dests := r.dests.off d, stamp := r.stamp.set d none }) ∧
                (g.tail = none → r.length ≤ r.cursor.get d →
                  (r.state = .opened → settles (w.setRecord g.index (some ended))) ∧
                  (r.state ≠ .opened →
                    settles (u.setSelector l { x with grant := some { g with tail := some closing } }))))) ∧
        ∀ g r, x.companion = none → x.grant = some g → s.record g.index = some r → r.stops.get d = true →
          let owed := g.handed = true ∧ (v.state = .running ∨
            (v.state = .connected ∧ (v.exch.sub = .done ∨ v.exch.sub = .plain)))
          ∃ z, settles z ∧ z.lu = u.lu ∧ z.sup = u.sup ∧
            (owed → z.selector l = { x with grant := none, cutoff := some closing }) ∧
            (¬ owed → z.selector l = { x with grant := none }) ∧
            RecordLeft u z g.index { r with grants := r.grants.set d false, stops := r.stops.set d false }))

/-- A start element opens a frame, and the start check passes it at space and counts a false start at mark (R41, R43).
That a row changes nothing when it is not due is the model's choice of log entry 2. -/
def Obligations.StartElementAndItsCheck : Prop :=
  ∀ (l : LineId) (s : State),
    (∀ resume, (s.unit l).rx.mode = .framing → (s.unit l).rx.sub = .hunting resume true →
      exec (.rxStartElement l) s = .next (s.onRx l fun r => { r with sub := .character ⟨0, false, [], 0⟩ })) ∧
    (¬ ((s.unit l).rx.mode = .framing ∧ ∃ resume, (s.unit l).rx.sub = .hunting resume true) →
      exec (.rxStartElement l) s = .next s) ∧
    (∀ f, (s.unit l).rx.mode = .framing → (s.unit l).rx.sub = .character f → f.pos = 32 → f.started = false →
      ((s.unit l).rx.last = .space →
        exec (.startCheck l) s = .next (s.onRx l fun r => { r with sub := .character { f with started := true } })) ∧
      ((s.unit l).rx.last = .mark → ∃ t, exec (.startCheck l) s = .next t ∧ t = { s with lu := t.lu } ∧
        (∀ k, k ≠ l → t.unit k = s.unit k) ∧
        t.unit l = { s.unit l with
          rx := { (s.unit l).rx with sub :=
            (if halfDuplex s l = true ∧ (s.unit l).tx.state ≠ .idle then .blanked else .hunting false false) }
          stats := { (s.unit l).stats with falseStart := min ((s.unit l).stats.falseStart + 1) 65535 } })) ∧
    (¬ ((s.unit l).rx.mode = .framing ∧ ∃ f, (s.unit l).rx.sub = .character f ∧ f.pos = 32 ∧ f.started = false) →
      exec (.startCheck l) s = .next s)

/-- STOP_SAMPLE counts a character and hands it to its consumer, the framer among them, or opens a space condition
(section 1.4, R42, section 3.8, section 4.2, section 4.4, section 5.4, R105, R112, log entry 13, log entry 14, log
entry 38, log entry 48). That the row changes nothing before it is due is log entry 2; that nothing stays placed in
CLEARING is entry 13; that a failed open at a message's start counts the character the framer passes on is entry
14; that the record opened takes the remote answerback as sender only while the direction is not NONE is entry 38;
the order of several joins in one step is entry 48. -/
def Obligations.StopSampleEndsTheFrame : Prop :=
  (∀ (l : LineId) (f : Frame) (s : State), (s.unit l).rx.mode = .framing → (s.unit l).rx.sub = .character f →
    ((f.pos < 416 ∨ f.started = false) → exec (.stopSample l) s = .next s) ∧
    (416 ≤ f.pos → f.started = true → f.samples.length = 15 → ∃ t c, exec (.stopSample l) s = .next t ∧
      c = combOf f.samples ∧
      (∀ k < 5, c.getLsbD k = true ↔ 2 ≤ ((f.samples.drop (3 * k)).take 3).countP fun x => decide (x = .mark)) ∧
      (t.unit l).cfg = (s.unit l).cfg ∧ (t.unit l).acc = (s.unit l).acc ∧ (t.unit l).tx.state = (s.unit l).tx.state ∧
      t.tbu = s.tbu ∧ t.identity = s.identity ∧ t.ctr.table = s.ctr.table ∧ t.ctr.tx = s.ctr.tx ∧
      (t.unit l).stats.falseStart = (s.unit l).stats.falseStart ∧
      let x := (s.unit l).stats
      let y := (t.unit l).stats
      let alarm := (s.unit l).cfg.alarmThreshold ≤ f.peak
      ((s.unit l).rx.last = .mark ∨ c ≠ (0 : Comb) →
        y.chars = min (x.chars + 1) 65535 ∧
        y.framing = (if (s.unit l).rx.last = .space then min (x.framing + 1) 65535 else x.framing) ∧
        y.breaks = x.breaks ∧ y.lastPeak = f.peak ∧ y.runPeak = max x.runPeak f.peak ∧
        y.alarmCount = (if alarm then min (x.alarmCount + 1) 65535 else x.alarmCount) ∧
        (y.armed = true ↔ x.armed = true ∧ ¬ alarm) ∧
        (alarm → x.armed = true → Latched t (alarmEvent l)) ∧ (t.unit l).rx.age = 0 ∧
        ((s.csv l).exch.sub.isPaging = false →
          ((s.unit l).rx.last = .space → t.ctr = s.ctr) ∧
          ((s.unit l).rx.last = .mark →
            ((readComb s.ctr.table (s.ctr.rx.get l) c).kind = .ltrs → t.ctr.rx.get l = .held .letters) ∧
            ((readComb s.ctr.table (s.ctr.rx.get l) c).kind = .figs → t.ctr.rx.get l = .held .figures)))) ∧
      ((s.unit l).rx.last = .space → c = (0 : Comb) →
        y.chars = x.chars ∧ y.framing = x.framing ∧ y.breaks = min (x.breaks + 1) 65535 ∧ y.lastPeak = x.lastPeak ∧
        t.ctr = s.ctr ∧ (t.unit l).rx.age = (s.unit l).rx.age ∧
        ((s.csv l).state ∈ [.connected, .selecting, .awaitConnect] ∨
            ((s.csv l).state = .calling ∧ (s.csv l).phase = .proceedWait) → (t.unit l).rx.sub = .spaceHeld 0 ∧
          (t.csv l).timers.clearRecognize = some (s.csv l).values.clearRecognizeMs) ∧
        ((s.csv l).state = .calling → (s.csv l).phase = .confirmWait → (t.unit l).rx.sub = .spaceHeld 0 ∧
          (t.csv l).timers = (s.csv l).timers) ∧
        ((s.csv l).state = .running → (t.unit l).rx.sub = .spaceHeld 0 ∧ (t.csv l).timers.fault = some 1000) ∧
        ((s.csv l).state = .clearing → (t.csv l).state = .guard)))) ∧
  (∀ (l : LineId) (f : Frame) (c : Comb) (good : Bool) (s : State),
    let d := delivered s l f c good
    d = { s with lu := d.lu, sup := d.sup, ctr := d.ctr, cpe := { s.cpe with latches := d.cpe.latches } } ∧
    OtherLineKept s d l ∧ (d.unit l).cfg = (s.unit l).cfg ∧ (d.unit l).tx = (s.unit l).tx ∧
    (d.unit l).rx = { (s.unit l).rx with
      age := 0, sub := if halfDuplex s l = true ∧ (s.unit l).tx.state ≠ .idle then .blanked else .hunting true false } ∧
    d.csv l = { s.csv l with
      exch := { (s.csv l).exch with blankRun := 0, together := false }
      timers := { (s.csv l).timers with idle :=
        if (s.csv l).state ≠ .connected then (s.csv l).timers.idle
        else if (s.csv l).values.idleTimeoutS = 0 then none else some (1000 * (s.csv l).values.idleTimeoutS) } }) ∧
  (∀ (eom : List Chr) (xs : List RxChar),
    let fits (ys : List RxChar) : Prop := (∀ y ∈ ys, y.errored = false) ∧ (ys.map (·.chr)).isPrefixOf eom = true
    (releaseFront eom xs).1 ++ (releaseFront eom xs).2 = xs ∧ fits (releaseFront eom xs).2 ∧
    ∀ a b, a ++ b = xs → a.length < (releaseFront eom xs).1.length → ¬ fits b) ∧
  ∀ (l : LineId) (f : Frame) (c : Comb) (good : Bool) (x : RxChar) (s : State), CharacterIn s l f c good →
    Delivers s l c good x → FramerListens s l → CellsCanonical s →
    let d := delivered s l f c good
    let g := s.framerOf l
    let m := s.stm
    let eom := (s.framingOf l).eom
    let hs := g.held ++ [x]
    let clean := ∀ y ∈ hs, y.errored = false
    let text := hs.map (·.chr)
    let does (u : State) : Prop := Does (.stopSample l) (oneLine l) s u
    let at' (p : FramerPhase) (held : List RxChar) : State := d.setFramer l (framerAt s l p held)
    let clears := m.cfg.clearOnFull = true ∧ (s.csv l).state = .connected
    let counted (n k : Nat) : Nat := min (n + k) 65535
    let full (v u : State) : Prop := Latched u .storeFull ∧ u.stm.episode.get l = true ∧
      (clears → EnteredClearing d u l .storeFull) ∧
      (¬ clears → u = { v with stm := u.stm, cpe := { d.cpe with latches := d.cpe.latches ||| BitVec.twoPow 17 8 } })
    let lowered (n : Nat) (u : State) : Prop := (n ≤ m.reservation.get l → u.stm.low = m.low) ∧
      (m.reservation.get l < n → u.stm.low = decide (unreserved u.stm < m.cfg.storeLow)) ∧
      (m.low = false → u.stm.low = true → Latched u .storeLow)
    let without (i : Nat) (x : Option Nat) : Option Nat := if x = some i then none else x
    let announced (r : Rec) (u : State) : Prop := (r.origin ≠ .console → Latched u .msgArrived) ∧
      (r.dests.hold = true → Latched u .holdReady)
    let continuation (r : Rec) : OpenSpec :=
      ⟨r.urgent, r.dests, true, r.flags.liveA, r.flags.liveB, r.sender, r.serial⟩
    let noOpen := (∀ i < m.recs.length, s.record i ≠ none) ∨ ¬ LineMayTake s l
    let continues (out rest : List RxChar) (v : Store) (j : Nat) (spec : OpenSpec) (n : Nat) (old : State → Prop) : Prop :=
      ∀ b more, j < m.recs.length → s.record j = none → (∀ k, k < j → s.record k ≠ none) → m.free = b :: more →
        LineMayTake s l → 0 < out.length → out.length ≤ 32 → out.length < m.cfg.maxMsgLen →
        let join := joins (openQueues spec.dests spec.liveA spec.liveB) ⟨none, none, none, none⟩ n
        let number := m.nextNum.get (originOf l)
        let q : Rec := {
          state := .opened, origin := originOf l, number := number, urgent := spec.urgent, length := out.length
          chain := [b], dests := spec.dests, cursor := ⟨0, 0, 0, 0⟩, attempts := ⟨0, 0⟩, charged := ⟨false, false⟩
          flags := ⟨false, out.any (·.errored), false, spec.continuation, spec.liveA, spec.liveB, false, false⟩
          sender := spec.sender, remoteNumber := none, serial := spec.serial, stamp := join.1
          grants := ⟨false, false, false, false⟩, stops := ⟨false, false, false, false⟩ }
        ∃ u, does u ∧ old u ∧ lowered 1 u ∧ u.record j = some q ∧
          u = { at' .text rest with
            stm := { v with recs := u.stm.recs, cells := u.stm.cells, free := more, low := u.stm.low
                            reservation := m.reservation.set l (m.reservation.get l - 1)
                            nextNum := m.nextNum.set (originOf l) (if number < 9999 then number + 1 else 1)
                            lineLink := v.lineLink.set l (some j), lineOwed := m.lineOwed.set l none }
            fqm := { (at' .text rest).fqm with seq := join.2 }
            cpe := { d.cpe with latches := u.cpe.latches } } ∧
          (∀ (k : Nat) (y : RxChar), out[k]? = some y → readChar u q k = y.chr) ∧
          ∀ a, (∀ k < out.length, a ≠ cellAddr q k) → Memory.read u.stm.cells a = Memory.read m.cells a
    let stores (out rest : List RxChar) : Prop :=
      (m.episode.get l = true → does { at' .text rest with
        stm := { m with discarded := m.discarded.set l (counted (m.discarded.get l) out.length) } }) ∧
      (m.episode.get l = false → m.lineLink.get l = none →
        (∀ j spec, m.lineOwed.get l = some spec → continues out rest m j spec s.fqm.seq fun u =>
          ∀ k, k ≠ j → u.record k = s.record k) ∧
        (noOpen → out.length = 1 → ∃ u, does u ∧ full (at' .text rest) u ∧
          u.stm.discarded.get l = counted (m.discarded.get l) 1 ∧ u.stm.recs = m.recs ∧ u.stm.cells = m.cells)) ∧
      ∀ i r, m.episode.get l = false → m.lineLink.get l = some i → s.record i = some r →
        let unlinked : Store := { m with
          lineLink := ⟨without i m.lineLink.a, without i m.lineLink.b⟩, kbLink := without i m.kbLink }
        let joined := joins (closeQueues r.dests) r.stamp s.fqm.seq
        (r.length < m.cfg.maxMsgLen →
          ((r.length = 0 ∨ r.length % 32 ≠ 0) → r.length % 32 + out.length ≤ 32 →
            r.length + out.length < m.cfg.maxMsgLen → ∃ u, does u ∧
              u = { at' .text rest with stm := { m with recs := u.stm.recs, cells := u.stm.cells } } ∧
              (∀ j, j ≠ i → u.record j = s.record j) ∧
              u.record i = some { r with
                length := r.length + out.length
                flags := { r.flags with errored := r.flags.errored || out.any (·.errored) } } ∧
              (∀ (k : Nat) (y : RxChar), out[k]? = some y →
                Memory.read u.stm.cells (cellAddr r (r.length + k)) = y.chr.setWidth 8) ∧
              ∀ a, (∀ k < out.length, a ≠ cellAddr r (r.length + k)) →
                Memory.read u.stm.cells a = Memory.read m.cells a) ∧
          (0 < r.length → r.length % 32 = 0 → ¬ LineMayTake s l → out.length = 1 → ∃ u, does u ∧
            full (at' .text rest) u ∧ u.stm.discarded.get l = counted (m.discarded.get l) 1 ∧
            u.stm.cells = m.cells ∧ (∀ j, j ≠ i → u.record j = s.record j) ∧
            u.record i = some { r with flags := { r.flags with truncated := true } }) ∧
          (BlocksConserved s → LineRoom s l r out.length →
            let q := r.longer m.free out
            let n := newBlocks r out.length
            (r.length + out.length < m.cfg.maxMsgLen → ∃ u, does u ∧ lowered n u ∧ u.record i = some q ∧
              (∀ j, j ≠ i → u.record j = s.record j) ∧ TextAppended s u i r q out ∧
              u = { at' .text rest with
                stm := { m.without l n with recs := u.stm.recs, cells := u.stm.cells, low := u.stm.low }
                cpe := { d.cpe with latches := u.cpe.latches } }) ∧
            (r.length + out.length = m.cfg.maxMsgLen → r.state = .opened → r.dests.isEmpty = false → ∃ u, does u ∧
              lowered n u ∧ u.record i = some (closedAs s.fqm.seq { q with flags := { q.flags with split := true } }) ∧
              (∀ j, j ≠ i → u.record j = s.record j) ∧ TextAppended s u i r q out ∧ announced r u ∧
              u = { at' .text rest with
                stm := { unlinked.without l n with
                  recs := u.stm.recs, cells := u.stm.cells, low := u.stm.low
                  lineOwed := m.lineOwed.set l (some (continuation r)) }
                fqm := { (at' .text rest).fqm with seq := joined.2 }
                cpe := { d.cpe with latches := u.cpe.latches } }))) ∧
        (m.cfg.maxMsgLen ≤ r.length → r.state = .opened → r.dests.isEmpty = false → ∀ j,
          continues out rest unlinked j (continuation r) joined.2 fun u =>
            (∀ k, k ≠ j → k ≠ i → u.record k = s.record k) ∧ announced r u ∧
            u.record i = some (closedAs s.fqm.seq { r with flags := { r.flags with split := true } }))
    let plain := ∀ y ∈ hs, eom.head? ≠ some y.chr
    (g.phase = .text →
      (clean → text = eom → ∃ u, does u ∧ u.framerOf l = ⟨.idle, [], none⟩ ∧ u.stm.cells = m.cells ∧
        u.stm.episode.get l = false ∧ u.stm.lineOwed.get l = none ∧ u.lu = d.lu ∧ u.sup = d.sup ∧
        (m.lineLink.get l = none → u.stm.recs = m.recs) ∧
        ∀ i r, m.lineLink.get l = some i → s.record i = some r → r.state = .opened → r.dests.isEmpty = false →
          u.stm.lineLink.get l = none ∧ (∀ j, j ≠ i → u.record j = s.record j) ∧ announced r u ∧
          u.record i = some (closedAs s.fqm.seq r) ∧ u.fqm.seq = (joins (closeQueues r.dests) r.stamp s.fqm.seq).2) ∧
      (clean → text ≠ eom → text.isPrefixOf eom = true → does (at' .text hs)) ∧
      (¬ (clean ∧ text.isPrefixOf eom = true) → stores (releaseFront eom hs).1 (releaseFront eom hs).2)) ∧
    (∀ st rest, g.phase = .head (st :: rest) → stageApplies s l st = true → hs.length ≤ 9 → rest.length ≤ 2 →
      let next : FramerPhase := if rest = [] then .text else .head rest
      let number := (text.take 4).all digitChr && (text.drop 4).isPrefixOf [13, 10]
        && (decide (text.length < 4) || decide (1 ≤ digitsValue (text.take 4)))
      let pattern : List Chr := if st = .som then (s.framingOf l).som else [7, 7, 7]
      let holds := clean ∧ if st = .number then number = true ∧ text.length < 6
        else text.isPrefixOf pattern = true ∧ text ≠ pattern
      let succeeds := clean ∧ if st = .number then number = true ∧ text.length = 6 else text = pattern
      (holds → does (at' (.head (st :: rest)) hs)) ∧
      (succeeds → (st = .som ∨ m.lineLink.get l = none) → does (at' next [])) ∧
      (∀ i r, succeeds → m.lineLink.get l = some i → s.record i = some r →
        (st = .urgent → does ((at' next []).setRecord i (some { r with urgent := true }))) ∧
        (st = .number → does ((at' next []).setRecord i (some { r with
          remoteNumber := some (digitsValue (text.take 4)) })))) ∧
      (¬ holds → ¬ succeeds → (∀ st' ∈ rest, stageApplies s l st' = false) → plain → stores hs [])) ∧
    (g.phase = .idle → m.episode.get l = false →
      let none' := ∀ st, stageApplies s l st = false
      let begins := x.errored = false ∧ eom.head? = some x.chr ∧ 2 ≤ eom.length
      let som := (s.framingOf l).som
      let inSom := x.errored = false ∧ som.head? = some x.chr ∧ 2 ≤ som.length
      ((∃ i, i < m.recs.length ∧ s.record i = none) → LineMayTake s l →
        ∀ i b more, i < m.recs.length → s.record i = none → (∀ j, j < i → s.record j ≠ none) → m.free = b :: more →
        2 ≤ m.cfg.maxMsgLen → inSom ∨ (none' ∧ (begins ∨ eom.head? ≠ some x.chr ∨ x.errored = true)) →
          let waits := inSom ∨ begins
          let number := m.nextNum.get (originOf l)
          ∃ u q, does u ∧
            u = { at' (if inSom then .head [.som, .urgent, .number] else .text) (if waits then [x] else []) with
              stm := { m with recs := u.stm.recs, cells := u.stm.cells, free := more, low := u.stm.low
                              reservation := m.reservation.set l (m.reservation.get l - 1)
                              nextNum := m.nextNum.set (originOf l) (if number < 9999 then number + 1 else 1)
                              lineLink := m.lineLink.set l (some i), lineOwed := m.lineOwed.set l none }
              fqm := { (at' (if inSom then .head [.som, .urgent, .number] else .text) (if waits then [x] else [])).fqm
                with seq := u.fqm.seq }
              cpe := { d.cpe with latches := u.cpe.latches } } ∧
            (∀ j, j ≠ i → u.record j = s.record j) ∧ u.record i = some q ∧
            (waits → u.stm.cells = m.cells) ∧ (¬ waits → readChar u q 0 = x.chr ∧
              ∀ a, a ≠ cellAddr q 0 → Memory.read u.stm.cells a = Memory.read m.cells a) ∧
            (let join := joins (openQueues (routeOf s (originOf l)) false false) ⟨none, none, none, none⟩ s.fqm.seq
             q.stamp = join.1 ∧ u.fqm.seq = join.2) ∧ lowered 1 u ∧
            q = { state := .opened, origin := originOf l, number := number, urgent := false
                  length := if waits then 0 else 1, chain := [b], dests := routeOf s (originOf l)
                  cursor := ⟨0, 0, 0, 0⟩, attempts := ⟨0, 0⟩, charged := ⟨false, false⟩
                  flags := ⟨false, decide (¬ waits) && x.errored, false, false, false, false, false, false⟩
                  sender := if (s.csv l).direction = .none then none else (s.csv l).remote, remoteNumber := none
                  serial := some (s.csv l).callCount, stamp := ⟨q.stamp.print, q.stamp.punch, none, none⟩
                  grants := ⟨false, false, false, false⟩, stops := ⟨false, false, false, false⟩ }) ∧
      (noOpen → none' → m.lineLink.get l = none →
        eom.head? ≠ some x.chr ∨ x.errored = true → ∃ u, does u ∧ full (at' .text []) u ∧
          u.stm.discarded.get l = counted (m.discarded.get l) 1 ∧ u.stm.recs = m.recs ∧ u.stm.cells = m.cells))

/-- The end of a space, a change of condition and a space in standby are reported, and the timers start and stop on
them (R29, R40, R42, R49, R101, R102, R105, R112, R117). That a row changes nothing when it is not due is the
model's choice of log entry 2. -/
def Obligations.ReportedConditionsReachTheSupervisor : Prop :=
  ∀ (l : LineId) (s : State),
    (∀ m, (s.unit l).rx.mode = .framing → (s.unit l).rx.sub = .spaceHeld m → ModesFollow s →
      (m < 32 → exec (.spaceHeldEnd l) s = .next s) ∧
      (32 ≤ m → ∃ t, exec (.spaceHeldEnd l) s = .next t ∧ t = { s with lu := t.lu, sup := t.sup } ∧
        OtherLineKept s t l ∧ (t.unit l) = { s.unit l with rx := { (s.unit l).rx with sub := (t.unit l).rx.sub } } ∧
        (t.unit l).rx.sub = (if halfDuplex s l = true ∧ (s.unit l).tx.state ≠ .idle then .blanked
          else .hunting false false) ∧
        (t.csv l).state = (s.csv l).state ∧
        ((s.csv l).state ∈ [.selecting, .awaitConnect, .connected] ∨
            ((s.csv l).state = .calling ∧ (s.csv l).phase ≠ .confirmWait) → t.csv l = { s.csv l with
          timers := { (s.csv l).timers with clearRecognize := none } }) ∧
        ((s.csv l).state = .calling → (s.csv l).phase = .confirmWait → t.csv l = { s.csv l with
          phase := .proceedWait, timers := { (s.csv l).timers with
            callConfirm := none, proceed := some (1000 * (s.csv l).values.proceedS) } }) ∧
        ((s.csv l).state = .clearing → t.csv l = s.csv l) ∧
        ((s.csv l).state = .running → t.csv l = { s.csv l with timers := { (s.csv l).timers with fault := none } }))) ∧
    (¬ ((s.unit l).rx.mode = .framing ∧ ∃ m, (s.unit l).rx.sub = .spaceHeld m) →
      exec (.spaceHeldEnd l) s = .next s) ∧
    (¬ ((s.unit l).rx.mode = .condition ∧ (s.unit l).rx.last ≠ (s.unit l).rx.known) →
      exec (.conditionChange l) s = .next s) ∧
    ((s.unit l).rx.mode = .condition → (s.unit l).rx.last ≠ (s.unit l).rx.known → ModesFollow s →
      ∃ t, exec (.conditionChange l) s = .next t ∧ t = { s with lu := t.lu, sup := t.sup, tbu := t.tbu } ∧
        OtherLineKept s t l ∧ (t.unit l) = { s.unit l with rx := { (s.unit l).rx with known := (s.unit l).rx.last } } ∧
        ((s.csv l).state = .free → (s.unit l).rx.last = .mark → (t.csv l).state = .incoming ∧
          (t.csv l).timers.recognize = some (s.csv l).values.callRecognizeMs ∧
          (s.tbu.state = .standby → t.tbu.state = .waking ∧
            t.tbu.wakeCause = match l with | .A => .callA | .B => .callB)) ∧
        ((s.csv l).state = .incoming → (s.unit l).rx.last = .space →
          (t.csv l).state = .free ∧ (t.csv l).timers.recognize = none) ∧
        ((s.csv l).state = .answering ∨ (s.csv l).state = .refusing → (t.csv l).state = (s.csv l).state ∧
          (t.csv l).timers.clearRecognize =
            if (s.unit l).rx.last = .space then some (s.csv l).values.clearRecognizeMs else none) ∧
        ((s.csv l).state = .fault → (t.csv l).state = .fault ∧
          (t.csv l).timers.recovery = if (s.unit l).rx.last = .mark then some 100 else none) ∧
        ((s.csv l).state = .guard → t.csv l = s.csv l) ∧
        (s.tbu.state ≠ .standby → t.tbu = s.tbu)) ∧
    (¬ ((s.unit l).rx.mode = .watch ∧ (s.unit l).rx.watchSeen = true) → exec (.watchSpace l) s = .next s) ∧
    ((s.unit l).rx.mode = .watch → (s.unit l).rx.watchSeen = true → ∃ t, exec (.watchSpace l) s = .next t ∧
      t = { s with lu := t.lu, tbu := t.tbu } ∧ (∀ k, k ≠ l → t.unit k = s.unit k) ∧
      t.unit l = { s.unit l with
        rx := { (s.unit l).rx with watchSeen := false }
        stats := { (s.unit l).stats with lostInStandby := min ((s.unit l).stats.lostInStandby + 1) 65535 } } ∧
      (s.tbu.state ≠ .standby → t.tbu = s.tbu) ∧
      (s.tbu.state = .standby → t.tbu.state = .waking ∧
        t.tbu.wakeCause = match l with | .A => .spaceA | .B => .spaceB))

/-- TURNAROUND_END and KEYBOARD_IDLE change nothing, since what they announce is read from the ages (R44, R141, log
entry 27). -/
def Obligations.DerivedConditionsStoreNothing : Prop :=
  (∀ (l : LineId) (s : State), exec (.turnaroundEnd l) s = .next s ∧
    (receiveBusy s l = true ↔
      ((s.unit l).rx.mode = .framing ∧ ∃ f, (s.unit l).rx.sub = .character f) ∨
        (s.unit l).rx.age < (s.unit l).cfg.turnaroundMs)) ∧
  ∀ s : State, exec .keyboardIdle s = .next s ∧
    (inputIdle s = true ↔ s.kbs.fifo = [] ∧ 2000 ≤ s.kbs.inputAge)

/-- SET_IDENTITY and SET_SUPERVISION replace the identity and a line's values, or refuse and change nothing (R95, R96,
R184). -/
def Obligations.IdentityAndValuesAreSet : Prop :=
  (∀ (text : List Chr) (s : State), Ready s → text.length ≤ 120 → ∃ t, exec (.setIdentity (eText text)) s = .next t ∧
    t = if text.length ≤ 20 ∧ ∀ c ∈ text, c ≠ 0 ∧ c ≠ 5
      then answered (1 + text.length) .ok [] { s with identity := if text = [] then none else some text }
      else refused (1 + text.length) .badArgument s) ∧
  ∀ (b ae ew : Byte) (v : SupValues) (s : State), Ready s → v.acceptMin < 65536 → v.callRecognizeMs < 256 →
    v.clearRecognizeMs < 65536 → v.confirmMs < 65536 → v.clearConfirmMs < 65536 → v.guardMs < 65536 → v.prepMs < 65536 →
    v.callConfirmS < 256 → v.proceedS < 256 → v.connectS < 65536 → v.idleTimeoutS < 65536 →
    let p := [b, ae] ++ e2 v.acceptMin ++ e1 v.callRecognizeMs ++ e2 v.clearRecognizeMs ++ e2 v.confirmMs
      ++ e2 v.clearConfirmMs ++ e2 v.guardMs ++ e2 v.prepMs ++ e1 v.callConfirmS ++ e1 v.proceedS ++ e2 v.connectS
      ++ e2 v.idleTimeoutS ++ [ew]
    let legal := b.toNat ≤ 1 ∧ ae.toNat ≤ 1 ∧ v.acceptMin ≤ 511 ∧ (10 ≤ v.callRecognizeMs ∧ v.callRecognizeMs ≤ 250) ∧
      (200 ≤ v.clearRecognizeMs ∧ v.clearRecognizeMs ≤ 3000) ∧ (50 ≤ v.confirmMs ∧ v.confirmMs ≤ 1000) ∧
      (500 ≤ v.clearConfirmMs ∧ v.clearConfirmMs ≤ 10000) ∧ (200 ≤ v.guardMs ∧ v.guardMs ≤ 5000) ∧
      (1000 ≤ v.prepMs ∧ v.prepMs ≤ 60000) ∧ (1 ≤ v.callConfirmS ∧ v.callConfirmS ≤ 30) ∧
      (1 ≤ v.proceedS ∧ v.proceedS ≤ 60) ∧ (10 ≤ v.connectS ∧ v.connectS ≤ 300) ∧
      (v.idleTimeoutS = 0 ∨ (10 ≤ v.idleTimeoutS ∧ v.idleTimeoutS ≤ 600)) ∧ ew.toNat ≤ 1
    (¬ legal → exec (.setSupervision p) s = .next (refused 22 .badArgument s)) ∧
    (legal → ∀ l, b.toNat = lineCode l → exec (.setSupervision p) s = .next (answered 22 .ok [] (s.setCsv l
      { s.csv l with values := { v with answerEnable := decide (ae = 1), endWru := decide (ew = 1) } })))

/-- CALL starts an outgoing connection on a FREE switched line and waits for its call confirmation (R92, R98, R111,
R112, R184, log entry 58). That the match length is kept as carried when the expected answerback is absent is the
model's choice, log entry 58. -/
def Obligations.CallSeizesAFreeSwitchedLine : Prop :=
  (∀ (p : List Byte) (s : State), Ready s → p.length ≤ 248 →
    (¬ ∃ (line m : Byte) (digits expected : List Byte),
      p = [line] ++ e1 digits.length ++ digits ++ e1 expected.length ++ expected ++ [m] ∧ line.toNat ≤ 1 ∧
      1 ≤ digits.length ∧ digits.length ≤ 16 ∧ (∀ d ∈ digits, 48 ≤ d.toNat ∧ d.toNat ≤ 57) ∧ expected.length ≤ 20 ∧
      (∀ c ∈ expected, c.toNat ≠ 0 ∧ c.toNat ≠ 5 ∧ c.toNat ≤ 127) ∧ 1 ≤ m.toNat ∧ m.toNat ≤ 20 ∧
      (expected = [] ∨ m.toNat ≤ expected.length)) →
    exec (.call p) s = .next (refused p.length .badArgument s)) ∧
  ∀ (l : LineId) (digits expected : List Chr) (m : Nat) (s : State), Ready s → ModesFollow s →
    1 ≤ digits.length → digits.length ≤ 16 → (∀ d ∈ digits, 48 ≤ d.toNat ∧ d.toNat ≤ 57) → expected.length ≤ 20 →
    (∀ c ∈ expected, c ≠ 0 ∧ c ≠ 5) → 1 ≤ m → m ≤ 20 → (expected = [] ∨ m ≤ expected.length) →
    let p := e1 (lineCode l) ++ eText digits ++ eText expected ++ e1 m
    (¬ ((s.unit l).cfg.lineType = .switched ∧ (s.csv l).state = .free) →
      exec (.call p) s = .next (refused p.length .wrongState s)) ∧
    ((s.unit l).cfg.lineType = .switched → (s.csv l).state = .free → ∃ t, exec (.call p) s = .next t ∧
      t.cpe.port = .response .ok (e2 (nextCall (s.csv l).callCount)) ∧ OtherLineKept s t l ∧ t.tbu = s.tbu ∧
      t.stm.cells = s.stm.cells ∧ t.stm.free = s.stm.free ∧ t.kbs = s.kbs ∧ t.prc = s.prc ∧ t.puc = s.puc ∧
      t.mtc = s.mtc ∧ t.identity = s.identity ∧ (t.csv l).values = (s.csv l).values ∧
      (t.csv l).state = .calling ∧ (t.csv l).callCount = nextCall (s.csv l).callCount ∧
      (t.csv l).direction = .outgoing ∧ (t.csv l).digits = digits ∧
      (t.csv l).expected = (if expected = [] then none else some expected) ∧ (t.csv l).matchLen = m ∧
      (t.csv l).remote = none ∧ (t.csv l).progress = [] ∧ (t.csv l).remaining = .unlimited ∧
      (t.csv l).exch.sub = .none ∧ (t.csv l).ending = false ∧ (t.csv l).abActive = false ∧
      (t.selector l).deferral = false ∧ t.ctr.tx.get l = .unknown ∧ t.ctr.rx.get l = .unknown ∧
      (t.unit l).tx.ordered = .mark ∧ (t.unit l).rx.mode = .framing ∧
      (∀ i, t.record i = (s.record i).map fun r => { r with charged := r.charged.set l false }) ∧
      ((s.unit l).rx.pin = .space → (t.unit l).rx.sub = .spaceHeld 0 ∧ (t.csv l).phase = .confirmWait ∧
        (t.csv l).timers.callConfirm = some (1000 * (s.csv l).values.callConfirmS)) ∧
      ((s.unit l).rx.pin = .mark → (t.csv l).phase = .proceedWait ∧ (t.csv l).timers.callConfirm = none ∧
        (t.csv l).timers.proceed = some (1000 * (s.csv l).values.proceedS)))

/-- CLEAR_CALL and the supervisor's expiries enter CLEARING with their reasons, or GUARD under a space (R99, R102,
R105, R106, R109, R112, R114, R116, log entry 13). In CLEARING nothing is left placed with the selector, the
supervisor's digits among it, which is the model's reading of log entry 13 (R109 and R131 name the answerback and
the exchange's sequences); that a row changes nothing when it is not due is log entry 2. -/
def Obligations.ClearCallAndExpiriesClear : Prop :=
  (∀ (l : LineId) (s : State), Ready s →
    let st := (s.csv l).state
    if st = .incoming ∨ st = .answering ∨ st = .refusing ∨ st = .calling ∨ st = .selecting ∨ st = .awaitConnect ∨
        st = .connected
    then ∃ t, exec (.clearCall (e1 (lineCode l))) s = .next t ∧ t.cpe.port = .response .ok [] ∧
      EnteredClearing s t l .localClear
    else exec (.clearCall (e1 (lineCode l))) s = .next (refused 1 .wrongState s)) ∧
  (∀ (l : LineId) (s : State), ∀ e ∈ ([
      (.clearRecognizeExpiry l, [.answering, .calling, .selecting, .awaitConnect, .connected],
        (s.csv l).timers.clearRecognize, .remoteClear),
      (.callConfirmExpiry l, [.calling], (s.csv l).timers.callConfirm, .confirmTimeout),
      (.proceedExpiry l, [.calling], (s.csv l).timers.proceed, .proceedTimeout),
      (.connectExpiry l, [.awaitConnect], (s.csv l).timers.connect, .connectTimeout),
      (.idleTimeoutExpiry l, [.connected], (s.csv l).timers.idle, .idle)]
        : List (Instr × List SupState × Option Nat × ClearReason)),
    ((s.csv l).state ∈ e.2.1 → e.2.2.1 = some 0 → ∃ t, exec e.1 s = .next t ∧ EnteredClearing s t l e.2.2.2) ∧
    ((s.csv l).state ∉ .refusing :: e.2.1 ∨ e.2.2.1 ≠ some 0 → exec e.1 s = .next s)) ∧
  ∀ (l : LineId) (s : State), (s.csv l).state = .refusing → (s.csv l).timers.clearRecognize = some 0 →
    ∃ t, exec (.clearRecognizeExpiry l) s = .next t ∧ (t.csv l).state = .guard ∧
      (t.csv l).lastClear = (s.csv l).lastClear ∧ (t.csv l).timers.guard = some (s.csv l).values.guardMs ∧
      Latched t (stateEvent l) ∧ (t.unit l).tx.ordered = .space ∧ OtherLineKept s t l ∧ t.stm = s.stm

/-- CALL_RECOGNIZE_EXPIRY answers the call or refuses it with the first cause that holds (R92, R98, R100, R102, R103).
That a row changes nothing when it is not due is the model's choice of log entry 2. -/
def Obligations.RecognizedCallIsAdmittedOrRefused : Prop :=
  ∀ (l : LineId) (s : State),
    (¬ ((s.csv l).state = .incoming ∧ (s.csv l).timers.recognize = some 0) →
      exec (.callRecognizeExpiry l) s = .next s) ∧
    ((s.csv l).state = .incoming → (s.csv l).timers.recognize = some 0 →
      ∃ t, exec (.callRecognizeExpiry l) s = .next t ∧ OtherLineKept s t l ∧ t.stm.cells = s.stm.cells ∧
        t.stm.reservation = s.stm.reservation ∧ t.tbu = s.tbu ∧
        let v := (s.csv l).values
        let refuses (why : RefusalCause) : Prop := (t.csv l).state = .refusing ∧ (t.csv l).refusal = why ∧
          (t.csv l).callCount = (s.csv l).callCount ∧ Latched t (stateEvent l) ∧ t.stm = s.stm ∧ t.lu = s.lu
        if s.identity = none then refuses .noIdentity
        else if v.answerEnable = false then refuses .answerOff
        else if s.stm.free.length - (s.stm.reservation.a + s.stm.reservation.b) < v.acceptMin then refuses .storeLow
        else if (∀ i < s.stm.recs.length, s.record i ≠ none) then refuses .noIndex
        else
          (t.csv l).state = .answering ∧ (t.csv l).direction = .incoming ∧
          (t.csv l).callCount = nextCall (s.csv l).callCount ∧ (t.csv l).digits = [] ∧ (t.csv l).expected = none ∧
          (t.csv l).remaining = .unlimited ∧ t.ctr.tx.get l = .unknown ∧ t.ctr.rx.get l = .unknown ∧
          (∃ u, Settled noLine u t ∧ ∀ i, u.record i = (s.record i).map fun r => { r with charged := r.charged.set l false }) ∧
          ((routeOf s (originOf l)).out.print = true → (t.csv l).timers.prepPrint = some v.prepMs ∧
            t.mtc.print.request = true) ∧
          ((routeOf s (originOf l)).out.punch = true → (t.csv l).timers.prepPunch = some v.prepMs ∧
            t.mtc.punch.request = true) ∧
          (s.running = true → (t.unit l).tx.ordered = .mark ∧ (t.csv l).timers.confirm = some v.confirmMs) ∧
          (s.running = false → (t.unit l).tx = (s.unit l).tx ∧ (t.csv l).timers.confirm = none))

/-- CONFIRM_EXPIRY connects an answered call, and PREP_EXPIRY withdraws a prestart (R100, R103, R106, R123, R177). That
a row changes nothing when it is not due is the model's choice of log entry 2. -/
def Obligations.ConfirmedCallConnects : Prop :=
  ∀ (l : LineId) (s : State),
    (¬ ((s.csv l).state = .answering ∧ (s.csv l).timers.confirm = some 0) → exec (.confirmExpiry l) s = .next s) ∧
    ((s.csv l).state = .answering → (s.csv l).timers.confirm = some 0 → NothingPlaced s l → ModesFollow s →
      ∃ t, exec (.confirmExpiry l) s = .next t ∧ OtherLineKept s t l ∧ t.tbu = s.tbu ∧ t.ctr = s.ctr ∧
        t.stm.cells = s.stm.cells ∧ t.stm.reservation = s.stm.reservation ∧
        (t.csv l).state = .connected ∧ (t.csv l).callCount = (s.csv l).callCount ∧
        (t.csv l).exch.sub = .offerWait ∧ (t.csv l).exch.offerTimer = some s.xcfg.offerWaitMs ∧
        (t.csv l).timers.idle =
          (if (s.csv l).values.idleTimeoutS = 0 then none else some (1000 * (s.csv l).values.idleTimeoutS)) ∧
        (t.unit l).rx.mode = .framing ∧ Latched t (stateEvent l) ∧ (t.unit l).tx = (s.unit l).tx) ∧
    ∀ k : Mech,
      ((s.csv l).timers.prep k ≠ some 0 → exec (.prepExpiry l k) s = .next s) ∧
      ((s.csv l).timers.prep k = some 0 → ∃ u t, exec (.prepExpiry l k) s = .next t ∧ Settled noLine u t ∧
        u = { s with sup := u.sup, mtc := u.mtc } ∧
        u.csv l = { s.csv l with timers := (s.csv l).timers.endPrep k } ∧ (∀ j, j ≠ l → u.csv j = s.csv j) ∧
        u.motor k = (s.motor k).setPrestart l false ∧ ∀ j, j ≠ k → u.motor j = s.motor j)

/-- CLEAR_CONFIRM_EXPIRY ends the connection and enters GUARD, and GUARD_EXPIRY frees the line (R86, R93, R99, R101,
R109, R110, log entry 13, log entry 18, log entry 48). That nothing of the supervisor's stays placed is the model's
reading of log entry 13, and that a sub-state NONE stays NONE is that of log entry 18; the order of several joins
in one step is log entry 48; that a row changes nothing when it is not due is log entry 2. -/
def Obligations.ClearedLineGuardsAndFrees : Prop :=
  ∀ (l : LineId) (s : State),
    (¬ ((s.csv l).state = .clearing ∧ (s.csv l).timers.clearConfirm = some 0) →
      exec (.clearConfirmExpiry l) s = .next s) ∧
    ((s.csv l).state = .clearing → (s.csv l).timers.clearConfirm = some 0 →
      ∃ t, exec (.clearConfirmExpiry l) s = .next t ∧ OtherLineKept s t l ∧ t.tbu = s.tbu ∧ t.ctr = s.ctr ∧
        (t.csv l).state = .guard ∧ (t.csv l).lastClear = (s.csv l).lastClear ∧
        (t.csv l).timers.guard = some (s.csv l).values.guardMs ∧ (t.csv l).ending = false ∧
        (t.csv l).exch.half = false ∧
        (t.csv l).exch.sub = (if (s.csv l).exch.sub.isOpen || (s.csv l).exch.sub.isPaging then .abandoned
          else (s.csv l).exch.sub) ∧
        (t.framerOf l).phase = .idle ∧ t.stm.reservation.get l = 0 ∧
        t.stm.episode.get l = ((s.framerOf l).phase = .idle && s.stm.episode.get l) ∧
        (t.selector l).grant = none ∧ NothingPlaced t l ∧ (t.unit l).tx.ordered = .space ∧
        (t.unit l).rx.mode = .condition ∧ Latched t (stateEvent l) ∧
        ∃ u, Settled (oneLine l) u t ∧ ConnectionEnded s u l) ∧
    (¬ ((s.csv l).state = .guard ∧ (s.csv l).timers.guard = some 0) → exec (.guardExpiry l) s = .next s) ∧
    ((s.csv l).state = .guard → (s.csv l).timers.guard = some 0 → (s.unit l).rx.mode = .condition →
      ∃ t, exec (.guardExpiry l) s = .next t ∧ t = { s with lu := t.lu, sup := t.sup, tbu := t.tbu } ∧
        OtherLineKept s t l ∧ (t.unit l).rx = (s.unit l).rx ∧ (t.unit l).tx.ordered = .space ∧
        (t.csv l).lastClear = (s.csv l).lastClear ∧ (t.csv l).callCount = (s.csv l).callCount ∧
        ((s.unit l).rx.known = .space → (t.csv l).state = .free ∧ t.tbu = s.tbu) ∧
        ((s.unit l).rx.known = .mark → (t.csv l).state = .incoming ∧
          (t.csv l).timers.recognize = some (s.csv l).values.callRecognizeMs))

/-- What the supervisor does with received characters, and how a call asks, captures, decides and ends itself (R7, R10,
R91, R108, R112, R113, R114, R115, log entry 13, log entry 54, log entry 57). The model's readings: R108's
conditions count a closed live record as work only while it is in SEND_x, by log entry 57 (R89 and R91 do not say
so); nothing stays placed with the selector in CLEARING by entry 13; the characters dropped in a clear are those
after a capture of 20 by entry 54; a row not due changes nothing by entry 2. -/
def Obligations.OutgoingCallAsksCapturesAndEnds : Prop :=
  (∀ (l : LineId) (s : State),
    (¬ ((s.csv l).state = .awaitConnect ∧ (s.csv l).phase = .progress true ∧ (s.csv l).timers.quiet = some 0) →
      exec (.progressQuietExpiry l) s = .next s) ∧
    (¬ ((s.csv l).phase = .capturing ∧ (s.csv l).timers.capture = some 0) →
      exec (.captureQuietExpiry l) s = .next s) ∧
    (callDone s l = false → exec (.outgoingCallEnd l) s = .next s)) ∧
  (∀ (l : LineId) (s : State), NothingPlaced s l → (translateChr s.ctr.table 5).isSome = true →
    let asks (t : State) : Prop := (t.csv l).phase = .asking ∧ (t.csv l).timers.quiet = none ∧
      (t.selector l).seqs = [⟨.wru, [.chr 5]⟩] ∧ (t.csv l).state = (s.csv l).state ∧ OtherLineKept s t l ∧
      t.ctr = s.ctr ∧ t.stm.cells = s.stm.cells ∧ (t.unit l).tx = (s.unit l).tx ∧ (t.unit l).rx = (s.unit l).rx
    ((s.csv l).state = .awaitConnect → (s.csv l).phase = .progress true → (s.csv l).timers.quiet = some 0 →
      ∃ t, exec (.progressQuietExpiry l) s = .next t ∧ asks t) ∧
    (callDone s l = true → (s.csv l).values.endWru = true →
      ∃ t, exec (.outgoingCallEnd l) s = .next t ∧ asks t ∧ (t.csv l).ending = true)) ∧
  (∀ (l : LineId) (s : State), callDone s l = true → (s.csv l).values.endWru = false →
    ∃ t, exec (.outgoingCallEnd l) s = .next t ∧ EnteredClearing s t l .done) ∧
  (∀ (l : LineId) (s : State), (s.csv l).phase = .capturing → (s.csv l).timers.capture = some 0 →
    let got := (s.csv l).captured
    let ok : Prop := ∀ e, (s.csv l).expected = some e → (s.csv l).matchLen ≤ got.length ∧
      got.take (s.csv l).matchLen = (e.take (s.csv l).matchLen).map (⟨·, false⟩)
    let remote := if got = [] then none else some (got.map (·.chr))
    ((s.csv l).state = .awaitConnect → ok → NothingPlaced s l → ∃ t, exec (.captureQuietExpiry l) s = .next t ∧
      (t.csv l).state = .connected ∧ (t.csv l).remote = remote ∧ (t.csv l).direction = (s.csv l).direction ∧
      Latched t (stateEvent l) ∧ OtherLineKept s t l ∧ (t.csv l).exch.sub = (s.csv l).exch.sub) ∧
    ((s.csv l).state = .awaitConnect → ¬ ok → ∃ t, exec (.captureQuietExpiry l) s = .next t ∧
      EnteredClearing s t l .wrongStation ∧ (t.csv l).remote = remote ∧ Latched t .wrongStation) ∧
    ((s.csv l).state = .connected → ∃ t, exec (.captureQuietExpiry l) s = .next t ∧
      EnteredClearing s t l .done ∧ (t.csv l).remote = remote ∧ (¬ ok → Latched t .wrongStation))) ∧
  (∀ (l : LineId) (s : State), callDone s l = true ↔
    (s.csv l).state = .connected ∧ (s.csv l).direction = .outgoing ∧
    ((s.csv l).exch.sub = .done ∨ (s.csv l).exch.sub = .plain) ∧ (s.csv l).ending = false ∧
    (s.framerOf l).phase = .idle ∧ (s.selector l).grant = none ∧ (s.selector l).cutoff = none ∧
    (∀ i r, s.record i = some r → r.state = .opened → r.live l = false) ∧
    ∀ i r, s.record i = some r → (r.stamp.get (sendOf l)).isSome = true → r.state = .closed →
      r.live l = false ∧ ∃ n, (s.csv l).remaining = .blocks n ∧ n < max 1 ((r.length + 31) / 32)) ∧
  ∀ (l : LineId) (f : Frame) (c : Comb) (good : Bool) (s : State), CharacterIn s l f c good →
    (s.csv l).exch.sub.isPaging = false →
    let v := s.csv l
    let d := delivered s l f c good
    let w := d.csv l
    let does (u : State) : Prop := Does (.stopSample l) (oneLine l) s u
    let kind := (readComb s.ctr.table (s.ctr.rx.get l) c).kind
    let settingUp := v.state = .calling ∨ v.state = .selecting ∨ v.state = .awaitConnect
    let selects := kind = .proceed ∧ v.state = .calling ∧ v.phase = .proceedWait
    let kept : SupTimers := { SupTimers.stopped with
      prepPrint := v.timers.prepPrint, prepPunch := v.timers.prepPunch, clearRecognize := v.timers.clearRecognize }
    (good = true → kind = .proceed ∨ kind = .selectEnd →
      (selects → does ((d.setCsv l { w with state := .selecting, phase := .none, captured := [], timers := kept }).onSelector
        l fun y => { y with seqs := y.seqs ++ [⟨.selection, v.digits.map .chr ++ [.selectEnd]⟩] })) ∧
      (settingUp → ¬ selects → does d) ∧
      (¬ settingUp → does (d.onStats l fun y => { y with undefinedCount := min (y.undefinedCount + 1) 65535 }))) ∧
    ∀ x, Delivers s l c good x →
      let caught := v.captured ++ [x]
      let ok : Prop := ∀ e, v.expected = some e → v.matchLen ≤ caught.length ∧
        caught.take v.matchLen = (e.take v.matchLen).map (⟨·, false⟩)
      let remote := some (caught.map (·.chr))
      (∀ any, v.state = .awaitConnect → v.phase = .progress any → does (d.setCsv l { w with
        progress := if v.progress.length < 32 then v.progress ++ [x.chr] else v.progress, phase := .progress true
        timers := { w.timers with quiet := some 1000 } })) ∧
      (v.state = .awaitConnect ∨ v.state = .connected → v.phase = .capturing → caught.length < 20 →
        does (d.setCsv l { w with captured := caught, timers := { w.timers with capture := some 500 } })) ∧
      (v.state = .awaitConnect → v.phase = .capturing → 20 ≤ caught.length →
        (ok → does ((d.setCsv l { w with
          state := .connected, phase := .none, captured := [], remote := remote
          exch := { w.exch with offerTimer := if v.exch.sub = .offerWait then some s.xcfg.offerWaitMs
                                              else v.exch.offerTimer }
          timers := { kept with idle := if v.values.idleTimeoutS = 0 then none
                                        else some (1000 * v.values.idleTimeoutS) } }).latch (stateEvent l))) ∧
        (¬ ok → ∃ u, does u ∧ EnteredClearing d u l .wrongStation ∧ (u.csv l).remote = remote ∧
          (u.csv l).phase = .captureFull ∧ Latched u .wrongStation)) ∧
      (v.state = .connected → v.phase = .capturing → 20 ≤ caught.length → ∃ u, does u ∧ EnteredClearing d u l .done ∧
        (u.csv l).remote = remote ∧ (u.csv l).phase = .captureFull ∧ (¬ ok → Latched u .wrongStation)) ∧
      (v.state = .calling ∨ v.state = .selecting ∨ (v.state = .awaitConnect ∧ v.phase = .asking) ∨
        (v.state = .clearing ∧ v.phase = .captureFull) → does d)

/-- PRIVATE_FAULT_EXPIRY takes a private line to FAULT, and PRIVATE_RECOVERY_EXPIRY back to RUNNING (R86, R92, R93,
R98, R99, R100, R117, R119, log entry 48). That a row changes nothing when it is not due is the model's choice of
log entry 2; the order of several joins in one step is log entry 48. -/
def Obligations.PrivateLineFaultsAndRecovers : Prop :=
  ∀ (l : LineId) (s : State),
    (¬ ((s.csv l).state = .running ∧ (s.csv l).timers.fault = some 0) → exec (.privateFaultExpiry l) s = .next s) ∧
    ((s.csv l).state = .running → (s.csv l).timers.fault = some 0 → ModesFollow s →
      ∃ t, exec (.privateFaultExpiry l) s = .next t ∧ OtherLineKept s t l ∧ t.tbu = s.tbu ∧ t.ctr = s.ctr ∧
        (t.csv l).state = .fault ∧ (t.csv l).callCount = (s.csv l).callCount ∧ (t.unit l).tx.ordered = .mark ∧
        (t.unit l).rx.mode = .condition ∧ (t.unit l).rx.known = (s.unit l).rx.pin ∧
        (t.csv l).timers.recovery = (if (s.unit l).rx.pin = .mark then some 100 else none) ∧
        (t.framerOf l).phase = .idle ∧ t.stm.reservation.get l = 0 ∧ (t.selector l).grant = none ∧
        Latched t (stateEvent l) ∧ ∃ u, Settled (oneLine l) u t ∧ ConnectionEnded s u l) ∧
    (¬ ((s.csv l).state = .fault ∧ (s.csv l).timers.recovery = some 0) →
      exec (.privateRecoveryExpiry l) s = .next s) ∧
    ((s.csv l).state = .fault → (s.csv l).timers.recovery = some 0 → ModesFollow s → NothingPlaced s l →
      ∃ t, exec (.privateRecoveryExpiry l) s = .next t ∧ OtherLineKept s t l ∧ t.tbu = s.tbu ∧
        t.stm.cells = s.stm.cells ∧ (t.csv l).state = .running ∧
        (t.csv l).callCount = nextCall (s.csv l).callCount ∧ (t.csv l).direction = .none ∧
        (t.csv l).remaining = .unlimited ∧ t.stm.reservation.get l = 0 ∧ t.ctr.tx.get l = .unknown ∧
        t.ctr.rx.get l = .unknown ∧ (t.unit l).tx.ordered = .mark ∧
        (t.unit l).rx.mode = (if s.running then .framing else .watch) ∧
        (t.csv l).timers.fault =
          (if s.running = true ∧ (s.unit l).rx.pin = .space then some 1000 else none) ∧
        Latched t (stateEvent l) ∧
        ∃ u, Settled (oneLine l) u t ∧ ∀ i, u.record i = (s.record i).map fun r => { r with charged := r.charged.set l false })

/-- SET_EXCHANGE and the exchange's timers, and what the answerback and the exchange engine do with a received
combination (R53, R104, R121, R122, R123, R124, section 7.5, R129, R130, log entry 40, log entry 55, log entry 59).
By log entry 2 a row not due changes nothing; by entry 50 a second page 2 with the wrong ACK ends with
WRONG_NUMBER; by entry 55 the who-are-you due at the very expiry that placed the offer is still a request, and a
frame all at space ends that mark; by entry 40 the sample that agrees HALF takes HUNTING or BLANKED by the duplex
before it; by entry 59 BLANKs count through the whole of AWAIT_CONNECT. -/
def Obligations.ExchangeConfigurationAndTimers : Prop :=
  (∀ (ov ab pt : Byte) (wait accept reserve : Nat) (s : State), Ready s → wait < 65536 → accept < 65536 →
    reserve < 65536 →
    let p := [ov, ab] ++ e2 wait ++ [pt] ++ e2 accept ++ e2 reserve
    let legal := ov.toNat ≤ 1 ∧ ab.toNat < 16 ∧ 500 ≤ wait ∧ wait ≤ 10000 ∧ pt.toNat ≤ 3 ∧ accept ≤ 4095 ∧ reserve ≤ 511
    (¬ legal → exec (.setExchange p) s = .next (refused 9 .badArgument s)) ∧
    (legal → ∀ x : ExchangeConfig, x = ⟨decide (ov = 1), ⟨ab.getLsbD 0, ab.getLsbD 1, ab.getLsbD 2, ab.getLsbD 3⟩, wait,
        if pt = 0 then .ms100 else if pt = 1 then .ms200 else if pt = 2 then .ms500 else .ms1000, accept, reserve⟩ →
      exec (.setExchange p) s =
        .next (answered 9 .ok [BitVec.ofNat 8 (s.cpe.straps.toNat % 16)] { s with xcfg := x }))) ∧
  (∀ (l : LineId) (s : State),
    (offerWaiting s l = true ↔ (s.csv l).exch.sub = .offerWait ∧ (s.csv l).direction = .incoming ∧
      (s.csv l).state = .connected) ∧
    (¬ (offerWaiting s l = true ∧ (s.csv l).exch.offerTimer = some 0) →
      exec (.offerWaitExpiryAnswering l) s = .next s) ∧
    (offerWaiting s l = true → (s.csv l).exch.offerTimer = some 0 → NothingPlaced s l →
      ∃ t, exec (.offerWaitExpiryAnswering l) s = .next t ∧ (t.csv l).exch.sub = .offered ∧
        (t.csv l).exch.offerTimer = none ∧ (t.selector l).seqs = [⟨.offer, [.raw 0, .raw 0, .raw 0]⟩] ∧
        ((t.csv l).exch.together = true ↔ (s.unit l).rx.mode = .framing ∧
          ∃ f, (s.unit l).rx.sub = .character f ∧ 416 ≤ f.pos ∧ f.started = true) ∧
        (t.csv l).state = .connected ∧ OtherLineKept s t l ∧ t.ctr = s.ctr ∧ t.stm.cells = s.stm.cells ∧
        (t.unit l).tx = (s.unit l).tx ∧ (t.unit l).rx = (s.unit l).rx) ∧
    ∀ e ∈ ([(.offerWaitExpiryCalling l, (s.csv l).exch.offerTimer, .noOffer,
        decide ((s.csv l).exch.sub = .offerWait) && decide ((s.csv l).direction = .outgoing)
          && decide ((s.csv l).state = .connected)),
        (.pageTimerExpiry l, (s.csv l).exch.pageTimer, .noPage, (s.csv l).exch.sub.isPaging)]
          : List (Instr × Option Nat × PlainCause × Bool)),
      (¬ (e.2.2.2 = true ∧ e.2.1 = some 0) → exec e.1 s = .next s) ∧
      (e.2.2.2 = true → e.2.1 = some 0 → (s.csv l).exch.held = [] → NothingPlaced s l →
        (s.csv l).state = .connected → ∃ t, exec e.1 s = .next t ∧ (t.csv l).exch.sub = .plain ∧
          (t.csv l).exch.cause = e.2.2.1 ∧ (t.csv l).exch.offerTimer = none ∧ (t.csv l).exch.pageTimer = none ∧
          (t.csv l).state = .connected ∧ t.stm.reservation.get l = 0 ∧ Latched t (stateEvent l) ∧
          OtherLineKept s t l ∧ t.ctr = s.ctr ∧ t.stm.cells = s.stm.cells ∧ (t.unit l).rx = (s.unit l).rx) ∧
      (e.2.2.2 = true → e.2.1 = some 0 →
        Does e.1 (oneLine l) s (handedBack
          (if (s.csv l).state = .awaitConnect ∧ (s.csv l).phase = .progress false then placeWru (gaveUp s l e.2.2.1) l
            else gaveUp s l e.2.2.1) l ((s.csv l).exch.held.map (·, false))) ∧
        ((s.csv l).exch.held = [] → NothingPlaced s l → (s.csv l).state = .awaitConnect →
          (s.csv l).phase = .progress false → (translateChr s.ctr.table 5).isSome = true →
          ∃ t, exec e.1 s = .next t ∧ (t.selector l).seqs = [⟨.wru, [.chr 5]⟩] ∧ (t.csv l).phase = .asking ∧
            (t.csv l).state = .awaitConnect ∧ (t.csv l).exch = { (s.csv l).exch with
              sub := .plain, cause := e.2.2.1, offerTimer := none, pageTimer := none, blankRun := 0, pageTwo := false
              held := [] }))) ∧
  (∀ (l : LineId) (f : Frame) (s : State), (s.unit l).rx.mode = .framing → (s.unit l).rx.sub = .character f →
    416 ≤ f.pos → f.started = true → combOf f.samples = (0 : Comb) → (s.unit l).rx.last = .space →
    (s.csv l).state = .connected → NothingPlaced s l → ∃ t, exec (.stopSample l) s = .next t ∧
      (t.csv l).exch = { (s.csv l).exch with together := false }) ∧
  (∀ (number content : Nat) (next ack : Bool), number < 4 → content < 32768 → ∃ b0 b1 b2 b3 : Comb,
    pageOf number next ack content = [b0, b1, b2, b3] ∧ b0.getLsbD 0 = true ∧ b0.toNat / 2 % 4 = number ∧
    b0.getLsbD 3 = next ∧ b0.getLsbD 4 = ack ∧ b1.toNat + 32 * b2.toNat + 1024 * b3.toNat = content) ∧
  (∀ (l : LineId) (n : Nat) (s : State), ∃ t, setReservation s l n = t ∧
    t = { s with
      stm := { s.stm with reservation := s.stm.reservation.set l n, low := decide (unreserved t.stm < s.stm.cfg.storeLow) }
      kbs := { s.kbs with storeFull := s.kbs.storeFull && decide (s.stm.reservation.get l ≤ n) }
      cpe := { s.cpe with latches := t.cpe.latches } }) ∧
  (∀ s : State, s.xcfg.override = true → ownAbilities s = s.xcfg.abilities) ∧
  (∀ s : State, s.xcfg.override = false → ownAbilities s =
    ⟨s.cpe.straps.getLsbD 0, s.cpe.straps.getLsbD 1, s.cpe.straps.getLsbD 2, s.cpe.straps.getLsbD 3⟩) ∧
  ∀ (l : LineId) (f : Frame) (c : Comb) (good : Bool) (s : State), CharacterIn s l f c good →
    let v := s.csv l
    let e := v.exch
    let r := received s l f good
    let d := endBlankRun r l
    let kind := (readComb s.ctr.table (s.ctr.rx.get l) c).kind
    let does (u : State) : Prop := Does (.stopSample l) (oneLine l) s u
    let answers := v.state = .awaitConnect ∨ v.state = .connected ∨ v.state = .running
    let answerback (z : State) (text : List Chr) : State := (z.onCsv l fun y => { y with abActive := true }).onSelector l
      fun y => { y with answerback := some ⟨text, true⟩ }
    let place (z : State) (k : SeqKind) (items : List TxItem) : State :=
      z.onSelector l fun y => { y with seqs := y.seqs ++ [⟨k, items⟩] }
    let page (z : State) (k : SeqKind) (p : List Comb) (sub : ExchSub) : State := place (z.onExch l fun y =>
      { y with lastSent := some p, sub := sub, pageTimer := none, pageTwo := false }) k (p.map .raw)
    let own := ownAbilities s
    let abilities := bits [own.limit, own.urgent, own.numbering, own.half]
    let page0 (z : State) (ack : Bool) (sub : ExchSub) : State :=
      page (z.onExch l fun y => { y with own := some own }) .page (pageOf 0 true ack abilities) sub
    let accept := min (min s.xcfg.maxAccept
      (s.stm.free.length - (s.stm.reservation.a + s.stm.reservation.b) - s.xcfg.keepReserve)) 4095
    let page1 (z : State) (sub : ExchSub) : State :=
      page (setReservation (z.onExch l fun y => { y with ownAccept := some accept }) l accept) .page
        (pageOf 1 false true accept) sub
    let timed (z : State) : State := if (s.selector l).seqs.any fun q => decide (q.kind = .offer ∨ q.kind = .page) then z
      else z.onExch l fun y => { y with pageTimer := some s.xcfg.pageTimer.ms }
    let ends (why : PlainCause) (back : List (Comb × Bool)) : Prop :=
      does (handedBack (if v.state = .awaitConnect ∧ v.phase = .progress false then placeWru (gaveUp r l why) l
        else gaveUp r l why) l back)
    (e.sub.isPaging = false → does (translateReceived r l c (!good)) ∧
      (good = true →
        (kind = .ltrs → does (d.setRxShift l (.held .letters))) ∧
        (kind = .figs → does (d.setRxShift l (.held .figures))) ∧
        (kind = .none → c ≠ 0 → does (d.onStats l fun y => { y with undefinedCount := min (y.undefinedCount + 1) 65535 })) ∧
        (kind = .none → c = 0 →
          let counts := e.sub = .offerWait ∧ v.direction = .outgoing ∧ (v.state = .awaitConnect ∨ v.state = .connected)
          (¬ counts → does r) ∧
          (counts → e.blankRun < 2 → does (r.onExch l fun y => { y with blankRun := e.blankRun + 1 })) ∧
          (counts → 2 ≤ e.blankRun → does (page0
            (r.onExch l fun y => { y with blankRun := 0, offerTimer := none, held := [] }) false .awaitPage0))) ∧
        (kind = .wru →
          let waits := e.sub = .offerWait ∧ v.direction = .incoming ∧ v.state = .connected
          let z := if waits then d.onExch l fun y => { y with offerTimer := none } else d
          (¬ answers → does d) ∧
          (answers → v.abActive = true → does z) ∧
          (answers → v.abActive = false → ∀ text, s.identity = some text → does (answerback z text)) ∧
          (answers → v.abActive = false → s.identity = none → ¬ waits → does d) ∧
          (v.abActive = false → s.identity = none → waits → does (place (z.onExch l fun y =>
            { y with sub := .offered, offerTimer := none, held := [], pageTwo := false }) .offer
              [.raw 0, .raw 0, .raw 0]))))) ∧
    (e.sub.isPaging = true → e.together = true → good = true → kind = .wru →
      (v.abActive = false → answers → ∀ text, s.identity = some text → does (answerback r text)) ∧
      (v.abActive = true ∨ s.identity = none ∨ ¬ answers → does r)) ∧
    (e.sub.isPaging = true → ¬ (e.together = true ∧ good = true ∧ kind = .wru) →
      (good = false → ends .framing (e.held.map (·, false) ++ [(c, true)])) ∧
      (good = true → e.held = [] → c.getLsbD 0 = false → ends .notAPage [(c, false)]) ∧
      (good = true → e.held ≠ [] ∨ c.getLsbD 0 = true → e.held.length < 3 →
        does (timed (r.onExch l fun y => { y with held := e.held ++ [c] }))) ∧
      ∀ b0 b1 b2, good = true → e.held = [b0, b1, b2] →
        let p := [b0, b1, b2, c]
        let n := b0.toNat / 2 % 4
        let content := b1.toNat + 32 * b2.toNat + 1024 * c.toNat
        let remote : Abilities := ⟨content.testBit 0, content.testBit 1, content.testBit 2, content.testBit 3⟩
        let number := match e.sub with | .awaitPage1 => 1 | .awaitClose => 3 | _ => 0
        let ack := decide (e.sub ≠ .offered)
        let wrongNumber := n ≠ number ∧ (n ≠ 2 ∨ e.pageTwo = true)
        let z := r.onExch l fun y => { y with lastReceived := some p, held := [], pageTwo := false, pageTimer := none }
        (wrongNumber → ends .wrongNumber (p.map (·, false))) ∧
        (¬ wrongNumber → b0.getLsbD 4 ≠ ack → ends .wrongAck (p.map (·, false))) ∧
        (¬ wrongNumber → b0.getLsbD 4 = ack → n ≠ number →
          does (timed (r.onExch l fun y => { y with held := [], pageTwo := true }))) ∧
        (n = number → b0.getLsbD 4 = ack →
          (e.sub = .offered → does (page0 (z.onExch l fun y => { y with remoteAb := some remote }) true .awaitPage1)) ∧
          (e.sub = .awaitPage0 → does (page1 (z.onExch l fun y => { y with remoteAb := some remote }) .awaitPage1)) ∧
          (e.sub = .awaitPage1 →
            let y := z.onExch l fun y => { y with remoteAccept := some (content % 4096) }
            (v.direction = .incoming → does (page1 y .awaitClose)) ∧
            (v.direction ≠ .incoming → does (page y .close (pageOf 3 false true 0) .closing))) ∧
          (e.sub = .awaitClose → ∃ x rem, ExchangeAgreed (z.csv l) x rem ∧
            let y := (z.onCsv l fun y => { y with exch := x, remaining := rem }).latch (stateEvent l)
            does (if v.state = .awaitConnect ∧ v.phase = .progress false then placeWru y l else y))))

/-- RESTART takes every block's own rule in one step, and keeps what those rules keep (R50, R73, R94, R118, R131, R144,
R162, R175, R181, R192, log entry 18, log entry 31). That an exchange which has not begun stays NONE is the model's
reading of log entry 18; that the repeat is spent here is that of log entries 31 and 68, and is left open. -/
def Obligations.RestartActsOnEveryBlock : Prop :=
  ∀ s : State, Ready s → ∃ t, exec (.restart []) s = .next t ∧
    t.tbu = s.tbu ∧ t.identity = s.identity ∧ t.xcfg = s.xcfg ∧ t.pending = s.pending ∧
    t.cpe = { s.cpe with port := .response .ok [], miso := [0, 0, 0], latches := 0 } ∧
    t.ctr = { s.ctr with tx := ⟨.unknown, .unknown⟩, rx := ⟨.unknown, .unknown⟩, tape := .unknown } ∧
    t.fqm = { s.fqm with seq := t.fqm.seq, framer := ⟨⟨.idle, [], none⟩, ⟨.idle, [], none⟩⟩,
                         sel := ⟨⟨none, none, false, none, [], none, none⟩, ⟨none, none, false, none, [], none, none⟩⟩ } ∧
    t.kbs = { s.kbs with fifo := [], repeatTimer := none, repeatSpent := t.kbs.repeatSpent, urgentPending := false,
                         storeFull := false, inputAge := 65535, bell := none } ∧
    t.prc = { s.prc with op := none, abandoned := (s.prc.op.map (·.2)) <|> s.prc.abandoned, grant := none,
                         fault := false, owedCr := true, yieldTimer := none, starved := false, passOver := none } ∧
    t.puc = { s.puc with op := none, abandoned := (s.puc.op.map (·.2)) <|> s.puc.abandoned, grant := none,
                         fault := false } ∧
    ({ s.mtc.print with state := .stopped, start := none, idle := none, prestartA := false, prestartB := false,
                        hold := false } : Motor).Followed true (!s.prc.hold) t.mtc.print ∧
    t.mtc.punch = { s.mtc.punch with state := .stopped, start := none, idle := none, prestartA := false,
                                     prestartB := false, hold := false, demand := false } ∧
    t.stm = { s.stm with recs := t.stm.recs, free := t.stm.free, reservation := ⟨0, 0⟩,
                         low := decide (t.stm.free.length < s.stm.cfg.storeLow), episode := ⟨false, false⟩,
                         lineLink := ⟨none, none⟩, kbLink := none, lineOwed := ⟨none, none⟩, kbOwed := none } ∧
    (∀ l, (t.unit l).cfg = (s.unit l).cfg ∧ (t.unit l).acc = (s.unit l).acc ∧ (t.unit l).stats = (s.unit l).stats ∧
      (t.unit l).tx.state = .idle ∧ (t.unit l).rx.age = 65535 ∧ (t.unit l).rx.pin = (s.unit l).rx.pin ∧
      (t.csv l).values = (s.csv l).values ∧ (t.csv l).refusal = (s.csv l).refusal ∧
      (t.csv l).digits = (s.csv l).digits ∧ (t.csv l).remote = (s.csv l).remote ∧
      (t.csv l).abActive = false ∧ (t.csv l).ending = false ∧ (t.csv l).exch.half = false ∧
      (t.csv l).exch.sub = (if (s.csv l).exch.sub.isOpen then .abandoned else (s.csv l).exch.sub) ∧
      match (s.csv l).state with
      | .disabled => (t.csv l).state = .disabled ∧ (t.unit l).rx.mode = .off ∧ (t.csv l).timers = .stopped ∧
          (t.csv l).callCount = (s.csv l).callCount ∧ (t.csv l).lastClear = (s.csv l).lastClear
      | .running | .fault => (t.csv l).state = .running ∧ (t.unit l).tx.ordered = .mark ∧
          (t.unit l).tx.pin = .mark ∧ (t.unit l).rx.mode = .framing ∧
          (t.unit l).rx.sub = (if (s.unit l).rx.pin = .mark then .hunting false false else .spaceHeld 0) ∧
          (t.csv l).callCount = nextCall (s.csv l).callCount ∧ (t.csv l).direction = .none ∧
          (t.csv l).remaining = .unlimited ∧ (t.csv l).lastClear = (s.csv l).lastClear ∧
          (t.csv l).timers = { SupTimers.stopped with
            fault := if (s.unit l).rx.pin = .space then some 1000 else none }
      | .free | .incoming | .answering | .refusing | .calling | .selecting | .awaitConnect | .connected | .clearing
      | .guard => (t.csv l).state = .guard ∧ (t.unit l).tx.ordered = .space ∧ (t.unit l).tx.pin = .space ∧
          (t.unit l).rx.mode = .condition ∧ (t.unit l).rx.known = (s.unit l).rx.pin ∧
          (t.csv l).lastClear = .restart ∧ (t.csv l).callCount = (s.csv l).callCount ∧
          (t.csv l).direction = (s.csv l).direction ∧ (t.csv l).remaining = (s.csv l).remaining ∧
          (t.csv l).timers = { SupTimers.stopped with guard := some (s.csv l).values.guardMs }) ∧
    ∀ i, i < 48 → (s.record i = none → t.record i = none) ∧ ∀ r, s.record i = some r →
      if r.state = .cancelled ∨ r.dests.isEmpty = true then t.record i = none
      else
        let spoiled := r.dests.out.punch && decide (0 < r.cursor.punch)
        ∃ q, t.record i = some q ∧
          q = { r with
            state := .closed, grants := ⟨false, false, false, false⟩, stops := ⟨false, false, false, false⟩
            attempts := ⟨if r.grants.sendA then min (r.attempts.a + 1) 255 else r.attempts.a,
                         if r.grants.sendB then min (r.attempts.b + 1) 255 else r.attempts.b⟩
            cursor := ⟨r.cursor.print, if spoiled then 0 else r.cursor.punch, 0, 0⟩
            stamp := ⟨r.stamp.print, r.stamp.punch, q.stamp.sendA, q.stamp.sendB⟩
            charged := q.charged
            flags := { r.flags with
              truncated := r.flags.truncated || (decide (r.state = .opened) && decide (r.origin ≠ .keyboard))
              printResume := r.flags.printResume || (r.dests.out.print && decide (0 < r.cursor.print))
              punchSpoiled := r.flags.punchSpoiled || spoiled } } ∧
          (r.dests.out.sendA = true → q.stamp.sendA.isSome = true) ∧
          (r.dests.out.sendB = true → q.stamp.sendB.isSome = true) ∧
          (∀ n, r.stamp.sendA = some n → q.stamp.sendA = some n) ∧
          (∀ n, r.stamp.sendB = some n → q.stamp.sendB = some n)

/-- The status commands report every field that their rules list, and change nothing but the counters that five of them
set to 0 (R15, R16, R46, R47, R48, R69, R71, R97, R143, R160, R174, R182). The model's choices: yes and no as 1 and
0, presence bytes and sets (log entry 8), the timer shown where several run (9), the increment and error line by
line (43), space 0 and mark 1 (44), the OPEN records in index order with their origins (47), NONE before the other
refusal causes (51), the yield timer in milliseconds, two bytes (61), a pin or sensor high as 1 and low as 0 (65). -/
def Obligations.StatusCommandsReport : Prop :=
  ∀ s : State, Ready s →
    let answers (i : Instr) (n : Nat) (pay : List Byte) (u : State) : Prop := exec i s = .next (answered n .ok pay u)
    let code (st : SupState) : List Byte := e1 st.code
    let motor (m : Motor) : List Byte := e1 m.state.code
      ++ eBool (decide (m.state = .starting ∨ m.state = .running ∨ m.state = .low)) ++ eBool (decide (m.state = .low))
      ++ eSet [m.demand, m.prestartA, m.prestartB, m.hold] ++ eBool (!m.speed.level) ++ eBool m.speed.pin
      ++ eOpt e4 (m.start <|> m.idle) ++ e1 m.lastFault.code ++ e2 m.faults ++ e2 m.startLimitMs ++ e2 m.idleLowS
      ++ e2 m.idleStopS
    answers (.timebaseStatus []) 0
      (e1 s.tbu.state.code ++ e4 s.tbu.fRef ++ e1 s.tbu.exitSource.code ++ e1 s.tbu.reason.code ++ e4 s.tbu.lastCount
        ++ e4 s.tbu.fIntEst ++ e2 s.tbu.calKept ++ e2 s.tbu.calDiscarded ++ e2 s.tbu.tickDivisor
        ++ e1 s.tbu.wakeCause.code ++ e4 s.tbu.inc.a ++ eInt2 s.tbu.rateError.a ++ e4 s.tbu.inc.b
        ++ eInt2 s.tbu.rateError.b) s ∧
    (∀ l, let u := s.unit l
      let x := u.stats
      answers (.lineStatus (e1 (lineCode l))) 1
        (e1 u.cfg.lineType.code ++ eBool u.cfg.enable ++ e2 u.cfg.rate ++ e1 u.cfg.stop.code ++ e1 u.cfg.duplex.code
          ++ eBool u.cfg.usos ++ e2 u.cfg.turnaroundMs ++ e1 u.cfg.alarmThreshold
          ++ eBool (decide (u.cfg.duplex = .half) || (s.csv l).exch.half) ++ code (s.csv l).state ++ e1 u.rx.mode.code
          ++ (if u.rx.mode = .framing then [1] ++ e1 u.rx.sub.code else [0]) ++ [if u.rx.last = .mark then 1 else 0]
          ++ e2 u.rx.age ++ eBool (inCharacter u.rx || decide (u.rx.age < u.cfg.turnaroundMs))
          ++ eBool (decide (u.tx.state ≠ .idle)) ++ [if u.tx.ordered = .mark then 1 else 0] ++ e4 (s.tbu.inc.get l)
          ++ eInt2 (s.tbu.rateError.get l) ++ e1 x.lastPeak) s ∧
      answers (.lineStatistics (e1 (lineCode l))) 1
        (e2 x.chars ++ e2 x.framing ++ e2 x.falseStart ++ e2 x.undefinedCount ++ e2 x.untranslatable ++ e2 x.breaks
          ++ e2 x.lostInStandby ++ e2 x.alarmCount ++ e1 x.lastPeak ++ e1 x.runPeak)
        (s.setUnit l { u with stats := ⟨0, 0, 0, 0, 0, 0, 0, 0, x.lastPeak, 0, true⟩ })) ∧
    (∀ l, let c := s.csv l
      let e := c.exch
      let w := c.timers
      let page (p : Option (List Comb)) : List Byte := eField (p.map fun q => q.map (·.setWidth 8))
      let running := [w.recognize, w.clearRecognize, w.confirm, w.clearConfirm, w.guard, w.callConfirm, w.proceed,
        w.connect, w.quiet, w.capture, w.idle, w.fault, w.recovery].filterMap id
      ∃ left : Option Nat, (running = [] → left = none) ∧ (running ≠ [] → ∃ n ∈ running, left = some n) ∧
        answers (.callStatus (e1 (lineCode l))) 1
          (code c.state ++ e1 c.direction.code ++ e2 c.callCount ++ eText c.digits ++ eText (c.expected.getD [])
            ++ e1 c.matchLen ++ eText (c.remote.getD []) ++ eText c.progress
            ++ (e1 e.sub.code ++ eField (e.own.map eAbilities) ++ eField (e.remoteAb.map eAbilities)
              ++ eAbilities e.agreed ++ eOpt e2 e.ownAccept ++ eOpt e2 e.remoteAccept ++ page e.lastSent
              ++ page e.lastReceived ++ e1 e.cause.code ++ e1 e.blankRun ++ e1 e.held.length
              ++ e.held.map (·.setWidth 8) ++ eBool e.pageTwo)
            ++ e2 (s.stm.reservation.get l)
            ++ (match c.remaining with | .unlimited => [0] | .blocks n => [1] ++ e2 n)
            ++ eOpt e1 (s.stm.lineLink.get l) ++ eOpt e1 ((s.selector l).grant.map (·.index)) ++ e1 c.lastClear.code
            ++ e1 c.refusal.code ++ eBool c.abActive ++ eBool c.ending ++ e1 (s.unit l).cfg.lineType.code
            ++ eOpt e4 left) s) ∧
    (let x := s.prc
      let g := x.cfg
      let state := if x.fault then 0 else if x.op.isSome ∨ x.abandoned.isSome then 1 else if x.hold then 2
        else if s.mtc.print.state ≠ .running then 3
        else if x.heatHold = true ∧ ((nextPrintOp s).map PrintOp.kind) = some .strike then 4 else 5
      answers (.printerStatus []) 0
        (e1 state ++ eBool x.fault ++ eField (x.lastFault.map fun y => e1 y.1.code ++ eOpt e1 y.2) ++ eBool x.owedCr
          ++ eBool x.abandoned.isSome ++ eBool x.papLow.level ++ eBool x.papOut.level ++ eBool x.cover.level
          ++ eBool x.hold ++ eBool s.mtc.print.demand
          ++ eField (x.grant.map fun y => e1 y.index ++ e1 y.phase.code
            ++ e2 (((s.record y.index).map fun r => r.cursor.print).getD 0))
          ++ e2 ((x.yieldTimer.map (·.1)).getD 0) ++ eBool x.starved ++ e1 x.lastServed.code ++ e1 x.count ++ e1 x.line
          ++ e2 x.page ++ e2 x.heat ++ eBool x.heatHold
          ++ (e1 g.lineLength ++ e1 g.pageLength ++ e1 g.top ++ e1 g.bottom ++ eBool g.crImpliesLf
            ++ eBool g.lfImpliesCr ++ e1 g.margin.code ++ eBool g.headers ++ e2 g.opTimeoutMs ++ e2 g.crTimeoutMs
            ++ e1 g.yieldS ++ e1 g.strikeHeat ++ e1 g.decayMs ++ e2 g.hHi ++ e2 g.hLo)) s) ∧
    (let x := s.puc
      let g := x.cfg
      let state := if x.fault then 0 else if x.op.isSome ∨ x.abandoned.isSome then 1 else if x.hold ∨ x.tapeHold then 2
        else if s.mtc.punch.state ≠ .running then 3 else 4
      let cause (c : PunchCause) : List Byte := match c with
        | .timeout k => e1 0 ++ e1 k.code
        | .repair => [1, 0]
        | .retryLimit => [2, 0]
      let step (y : PunchFrame) : Nat := match y.steps with
        | [] => 0
        | .back :: _ => 1
        | .erase :: _ => 2
        | .figs :: _ => 3
        | .again :: _ => 4
      answers (.punchStatus []) 0
        (e1 state ++ eBool x.fault ++ eField (x.lastFault.map fun y => cause y.1 ++ e1 (y.2.getD 0))
          ++ eBool x.abandoned.isSome ++ eBool x.tapLow.level ++ eBool x.tapOut.level ++ eBool x.chad.level
          ++ eBool x.hold ++ eOpt e2 x.tape ++ eBool x.tapeHold ++ eBool s.mtc.punch.demand
          ++ eField (x.grant.map fun y => e1 y.index ++ e1 y.phase.code
            ++ e2 (((s.record y.index).map fun r => r.cursor.punch).getD 0)
            ++ e1 ((y.frame.map (·.retry)).getD 0) ++ e1 ((y.frame.map step).getD 0))
          ++ e1 x.lastServed.code ++ e1 s.ctr.tape.code ++ e2 x.untranslatable ++ e2 x.repairs
          ++ (e1 g.leader ++ e1 g.trailer ++ eText g.eom ++ eBool g.verify ++ e1 g.retryLimit ++ e2 g.timeoutMs
            ++ e2 g.tapeReserve))
        { s with puc := { s.puc with untranslatable := 0, repairs := 0 } }) ∧
    answers (.motorStatus []) 0 (motor s.mtc.print ++ motor s.mtc.punch)
      { s with mtc := ⟨{ s.mtc.print with faults := 0 }, { s.mtc.punch with faults := 0 }⟩ } ∧
    (let k := s.kbs
      let down := (List.range 64).filter fun p => ((k.keys[p]?).getD ⟨false, 0⟩).down
      answers (.keyboardStatus []) 0
        (e1 k.mode.code ++ e1 k.debounce ++ eBool (kbLocked s) ++ eBool k.bell.isSome
          ++ eSet [lockLineDown s, lockExchange s, lockTurnaround s, k.storeFull] ++ e1 k.fifo.length
          ++ k.fifo.flatMap (fun a => e1 a.code.1 ++ e1 a.code.2) ++ eOpt e1 s.stm.kbLink ++ eBool k.urgentPending
          ++ eBool k.storeFull ++ e2 k.inputAge ++ (e1 down.length ++ down.flatMap e1) ++ eOpt e1 k.repeatKey
          ++ eBool k.repeatTimer.isSome ++ e2 k.refusals ++ e1 k.lastRefusal.code)
        { s with kbs := { s.kbs with refusals := 0 } }) ∧
    (s.stm.recs.length = 48 →
      let m := s.stm
      let count (st : Option RecState) : Nat :=
        ((List.range 48).filter fun i => decide ((s.record i).map (·.state) = st)).length
      let opens := (List.range 48).filter fun i => decide ((s.record i).map (·.state) = some .opened)
      answers (.storeStatus []) 0
        (e2 m.free.length ++ eOpt e2 m.free.head? ++ e2 m.reservation.a ++ e2 m.reservation.b
          ++ e2 (m.free.length - (m.reservation.a + m.reservation.b)) ++ eBool m.low ++ e1 (count none)
          ++ e1 (count (some .opened)) ++ e1 (count (some .closed)) ++ e1 (count (some .cancelled)) ++ e1 opens.length
          ++ opens.flatMap (fun i => e1 i ++ e1 (((s.record i).map (·.origin.code)).getD 0)) ++ e2 m.nextNum.keyboard
          ++ e2 m.nextNum.console ++ e2 m.nextNum.lineA ++ e2 m.nextNum.lineB ++ eBool m.episode.a ++ eBool m.episode.b
          ++ e2 m.discarded.a ++ e2 m.discarded.b ++ e2 m.cfg.maxMsgLen ++ e2 m.cfg.storeLow ++ eBool m.cfg.clearOnFull)
        { s with stm := { s.stm with discarded := ⟨0, 0⟩ } }) ∧
    (∀ i, i < 48 → s.record i = none → answers (.msgInfo (e1 i)) 1 [0] s) ∧
    (∀ i r, i < 48 → s.record i = some r →
      let q := r.stamp
      answers (.msgInfo (e1 i)) 1
        (e1 r.state.code ++ e1 r.origin.code ++ e2 r.number ++ eBool r.urgent ++ e2 r.length ++ e2 r.chain.length
          ++ e2 (r.chain.headD 0) ++ eDests r.dests ++ eFour r.grants ++ eFour r.stops ++ e2 r.cursor.print
          ++ e2 r.cursor.punch ++ e2 r.cursor.sendA ++ e2 r.cursor.sendB ++ e1 r.attempts.a ++ e1 r.attempts.b
          ++ eSet [r.flags.truncated, r.flags.errored, r.flags.split, r.flags.continuation, r.flags.liveA, r.flags.liveB,
            r.flags.printResume, r.flags.punchSpoiled]
          ++ eField (r.sender.map eText) ++ eField (r.remoteNumber.map e2) ++ eField (r.serial.map e2)
          ++ eSet [q.print.isSome, q.punch.isSome, q.sendA.isSome, q.sendB.isSome]
          ++ ((q.print.map e4).getD [] ++ (q.punch.map e4).getD [] ++ (q.sendA.map e4).getD []
            ++ (q.sendB.map e4).getD [])) s) ∧
    (∀ b : Byte, 2 ≤ b.toNat → exec (.lineStatus [b]) s = .next (refused 1 .badArgument s) ∧
      exec (.callStatus [b]) s = .next (refused 1 .badArgument s) ∧
      exec (.lineStatistics [b]) s = .next (refused 1 .badArgument s)) ∧
    ∀ b : Byte, 48 ≤ b.toNat → exec (.msgInfo [b]) s = .next (refused 1 .badArgument s)

/-- MSG_READ returns the text from the offset, and QUEUE_LIST the queue in its order, and both change nothing (R69,
R77, R79, R184, log entry 46). R69 returns the characters and their number; that the number goes out once, as the
count byte before them, is the model's choice of log entry 46. -/
def Obligations.ReadsReturnTextAndQueueOrder : Prop :=
  ∀ s : State, Ready s →
    (∀ i off n, i < 48 → off < 65536 → 1 ≤ n → n ≤ 240 →
      (s.record i = none → exec (.msgRead (e1 i ++ e2 off ++ e1 n)) s = .next (refused 4 .noRecord s)) ∧
      ∀ r, s.record i = some r →
        (r.length < off → exec (.msgRead (e1 i ++ e2 off ++ e1 n)) s = .next (refused 4 .badArgument s)) ∧
        (off ≤ r.length → ∃ text : List Chr, exec (.msgRead (e1 i ++ e2 off ++ e1 n)) s = .next (answered 4 .ok
            (BitVec.ofNat 8 text.length :: text.map (·.setWidth 8)) s) ∧
          text.length = min n (r.length - off) ∧
          ∀ k, k < text.length → text[k]? = some (readChar s r (off + k)))) ∧
    (∀ (i : Nat) (a b n : Byte), n.toNat = 0 ∨ 240 < n.toNat →
      exec (.msgRead (e1 i ++ [a, b, n])) s = .next (refused 4 .badArgument s)) ∧
    (∀ x ∈ ([(0, .print), (1, .punch), (2, .sendA), (3, .sendB)] : List (Nat × Deliv)), ∃ q : List (Nat × Rec),
      exec (.queueList (e1 x.1)) s = .next (answered 1 .ok
        (e1 q.length ++ q.flatMap (fun e => e1 (e.1 + 64 * e.2.urgent.toNat + 128 * (e.2.grants.get x.2).toNat)
          ++ e4 ((e.2.stamp.get x.2).getD 0)) ++ eLiveField x.2 q) s) ∧
      q.Pairwise (Ahead x.2) ∧
      (∀ i r, (i, r) ∈ q ↔ s.record i = some r ∧ (r.stamp.get x.2).isSome = true)) ∧
    (∃ q : List Nat, exec (.queueList (e1 4)) s = .next (answered 1 .ok (e1 q.length ++ q.flatMap e1) s) ∧
      q.Pairwise (· < ·) ∧
      ∀ i, i ∈ q ↔ ∃ r, s.record i = some r ∧ r.dests.hold = true ∧ r.state ≠ .cancelled) ∧
    ∀ b : Byte, 5 ≤ b.toNat → exec (.queueList [b]) s = .next (refused 1 .badArgument s)

/-- MSG_CREATE opens a console record at the lowest FREE index, or is refused with WRONG_STATE or STORE_FULL (R52, R54,
R55, R56, R57, R66, R77, R78, log entry 48). That PRINT joins before PUNCH is the model's reading of log entry 48. -/
def Obligations.MsgCreateOpensARecord : Prop :=
  ∀ (d : DestSet) (u : Bool) (s : State), Ready s →
    let m := s.stm
    let opens := s.entries.countP fun e => decide (e.2.origin = .console) && decide (e.2.state = .opened)
    let reserved := m.reservation.a + m.reservation.b
    (d.isEmpty = true → exec (.msgCreate (eDests d ++ eBool u)) s = .next (refused 2 .badArgument s)) ∧
    (d.isEmpty = false → 4 ≤ opens → exec (.msgCreate (eDests d ++ eBool u)) s = .next (refused 2 .wrongState s)) ∧
    (d.isEmpty = false → opens < 4 →
      ((∀ i, i < m.recs.length → s.record i ≠ none) ∨ m.free.length ≤ reserved) →
      exec (.msgCreate (eDests d ++ eBool u)) s = .next (refused 2 .storeFull s)) ∧
    ∀ i b rest, d.isEmpty = false → opens < 4 → i < m.recs.length → s.record i = none →
      (∀ j, j < i → s.record j ≠ none) → m.free = b :: rest → reserved < m.free.length →
      ∃ t q, exec (.msgCreate (eDests d ++ eBool u)) s = .next t ∧
        t = answered 2 .ok (e1 i ++ e2 m.nextNum.console) { s with
          stm := { m with recs := t.stm.recs, free := rest, low := decide (rest.length - reserved < m.cfg.storeLow)
                          nextNum := { m.nextNum with
                            console := if m.nextNum.console < 9999 then m.nextNum.console + 1 else 1 } }
          fqm := { s.fqm with seq := t.fqm.seq }
          cpe := { s.cpe with latches := t.cpe.latches } } ∧
        (m.low = false → t.stm.low = true → Latched t .storeLow) ∧
        (∀ j, j ≠ i → t.record j = s.record j) ∧ t.record i = some q ∧
        q = { state := .opened, origin := .console, number := m.nextNum.console, urgent := u, length := 0
              chain := [b], dests := d, cursor := ⟨0, 0, 0, 0⟩, attempts := ⟨0, 0⟩, charged := ⟨false, false⟩
              flags := ⟨false, false, false, false, false, false, false, false⟩, sender := none
              remoteNumber := none, serial := none, stamp := ⟨q.stamp.print, q.stamp.punch, none, none⟩
              grants := ⟨false, false, false, false⟩, stops := ⟨false, false, false, false⟩ } ∧
        let join := joins (openQueues d false false) ⟨none, none, none, none⟩ s.fqm.seq
        q.stamp = join.1 ∧ t.fqm.seq = join.2

/-- MSG_APPEND stores its characters in order, stops when the store is full, and splits at MAX_MSG_LEN (R52, R58, R59,
R67, R77, R78, log entry 48). The order of several joins in one step is the model's reading of log entry 48. -/
def Obligations.MsgAppendStoresTheText : Prop :=
  ∀ (i : Nat) (cs : List Chr) (s : State), Ready s → i < 48 → 1 ≤ cs.length → cs.length ≤ 240 →
    let m := s.stm
    let run := exec (.msgAppend (e1 i ++ eText cs)) s
    let size := cs.length + 2
    let text (s : State) (r : Rec) : List Chr := (List.range r.length).map (readChar s r)
    let kept := cs.filter fun c => decide (c ≠ 0)
    let reserved := m.reservation.a + m.reservation.b
    let othersRead (u : State) : Prop := ∀ j q, j ≠ i → s.record j = some q →
      ∀ n, n < 32 * q.chain.length → readChar u q n = readChar s q n
    (s.record i = none → run = .next (refused size .noRecord s)) ∧
    ∀ r, s.record i = some r →
      (¬ (r.origin = .console ∧ r.state = .opened) → run = .next (refused size .wrongState s)) ∧
      (r.origin = .console → r.state = .opened → r.chain.length = blocksFor r.length → BlocksConserved s →
        (r.length + kept.length < m.cfg.maxMsgLen →
          let more := blocksFor (r.length + kept.length) - blocksFor r.length
          more + reserved ≤ m.free.length →
          ∃ u t, run = .next t ∧ Settled bothLines u t ∧
            u = answered size .ok (e1 cs.length ++ e1 i) { s with
              stm := { m with recs := u.stm.recs, free := m.free.drop more, cells := u.stm.cells, low := u.stm.low }
              cpe := { s.cpe with latches := u.cpe.latches } } ∧
            (∀ j, j ≠ i → u.record j = s.record j) ∧
            (let q := { r with length := r.length + kept.length, chain := r.chain ++ m.free.take more }
             u.record i = some q ∧ text u q = text s r ++ kept) ∧
            othersRead u) ∧
        (∀ c rest, cs = c :: rest → c ≠ 0 → 0 < r.length → r.length % 32 = 0 → r.length < m.cfg.maxMsgLen →
          m.free.length ≤ reserved → ∃ t, run = .next t ∧
            Settled bothLines (answered size .storeFull (e1 0 ++ e1 i) s) t) ∧
        (∀ front c back, cs = front ++ c :: back → c ≠ 0 →
          let spare := m.free.length - reserved
          let stored := front.filter fun c => decide (c ≠ 0)
          r.length + stored.length = 32 * (r.chain.length + spare) → 32 * (r.chain.length + spare) < m.cfg.maxMsgLen →
          ∃ u t, run = .next t ∧ Settled bothLines u t ∧
            u = answered size .storeFull (e1 front.length ++ e1 i) { s with
              stm := { m with recs := u.stm.recs, free := m.free.drop spare, cells := u.stm.cells, low := u.stm.low }
              cpe := { s.cpe with latches := u.cpe.latches } } ∧
            (∀ j, j ≠ i → u.record j = s.record j) ∧
            (let q := { r with length := r.length + stored.length, chain := r.chain ++ m.free.take spare }
             u.record i = some q ∧ text u q = text s r ++ stored) ∧ othersRead u) ∧
        ∀ head tail, kept = head ++ tail → r.dests.isEmpty = false → tail.length < m.cfg.maxMsgLen →
          (head ≠ [] ∧ r.length + head.length = m.cfg.maxMsgLen) ∨
            (head = [] ∧ tail ≠ [] ∧ m.cfg.maxMsgLen ≤ r.length) →
          let more := blocksFor (r.length + head.length) - blocksFor r.length
          let size' := blocksFor tail.length
          let closed (u : State) : Prop := ∃ q, u.record i = some q ∧ text u q = text s r ++ head ∧
            q = closedAs s.fqm.seq { r with
              length := r.length + head.length, chain := r.chain ++ m.free.take more
              flags := { r.flags with split := true } }
          let ended := (joins (closeQueues r.dests) r.stamp s.fqm.seq).2
          let opened := joins (openQueues r.dests r.flags.liveA r.flags.liveB) ⟨none, none, none, none⟩ ended
          (∀ j, j < m.recs.length → s.record j = none → (∀ k, k < j → s.record k ≠ none) →
            more + size' + reserved ≤ m.free.length → ∃ u t x, run = .next t ∧ Settled bothLines u t ∧
              u = answered size .ok (e1 cs.length ++ e1 j) { s with
                stm := { m with recs := u.stm.recs, free := m.free.drop (more + size'), cells := u.stm.cells
                                low := u.stm.low, lineLink := u.stm.lineLink, kbLink := u.stm.kbLink
                                nextNum := { m.nextNum with
                                  console := if m.nextNum.console < 9999 then m.nextNum.console + 1 else 1 } }
                fqm := { s.fqm with seq := opened.2 }
                cpe := { s.cpe with latches := u.cpe.latches } } ∧
              (∀ k, k ≠ i → k ≠ j → u.record k = s.record k) ∧ othersRead u ∧ closed u ∧
              u.record j = some x ∧ x.state = .opened ∧ x.origin = .console ∧ x.number = m.nextNum.console ∧
              x.urgent = r.urgent ∧ x.length = tail.length ∧ x.chain = (m.free.drop more).take size' ∧ text u x = tail ∧
              x.dests = r.dests ∧ x.stamp = opened.1 ∧ x.flags = ⟨false, false, false, true, r.flags.liveA, r.flags.liveB, false, false⟩) ∧
          ((∀ j, j < m.recs.length → s.record j ≠ none) → more + reserved ≤ m.free.length →
            let stops (n : Nat) : Prop := ∃ u t, run = .next t ∧ Settled bothLines u t ∧ closed u ∧
              u = answered size .storeFull (e1 n ++ e1 i) { s with
                stm := { m with recs := u.stm.recs, free := m.free.drop more, cells := u.stm.cells, low := u.stm.low
                                lineLink := u.stm.lineLink, kbLink := u.stm.kbLink }
                fqm := { s.fqm with seq := ended }
                cpe := { s.cpe with latches := u.cpe.latches } } ∧
              (∀ j, j ≠ i → u.record j = s.record j) ∧ othersRead u
            (tail = [] → stops cs.length) ∧
            ∀ front c back, cs = front ++ c :: back → c ≠ 0 → (front.filter fun c => decide (c ≠ 0)) = head →
              stops front.length))

/-- MSG_CLOSE closes a console record, and MSG_DELETE cancels a record and releases it once no grant is left (R61, R63,
R64, R65, R68, R77, R78, log entry 48). That SEND_A joins before SEND_B is the model's reading of log entry 48. -/
def Obligations.MsgCloseAndDelete : Prop :=
  ∀ (i : Nat) (s : State), Ready s → i < 48 →
    (s.record i = none → exec (.msgClose (e1 i)) s = .next (refused 1 .noRecord s) ∧
      exec (.msgDelete (e1 i)) s = .next (refused 1 .noRecord s)) ∧
    ∀ r, s.record i = some r →
      let changed (pay : List Byte) (u : State) : Prop := u = answered 1 .ok pay { s with
          stm := { s.stm with recs := u.stm.recs, free := u.stm.free, low := u.stm.low, lineLink := u.stm.lineLink
                              kbLink := u.stm.kbLink }
          fqm := { s.fqm with seq := u.fqm.seq }
          kbs := { s.kbs with storeFull := u.kbs.storeFull }
          cpe := { s.cpe with latches := u.cpe.latches } } ∧
        (∀ j, j ≠ i → u.record j = s.record j) ∧ (∀ l, u.stm.lineLink.get l ≠ some i) ∧ u.stm.kbLink ≠ some i ∧
        (∀ l, s.stm.lineLink.get l ≠ some i → u.stm.lineLink.get l = s.stm.lineLink.get l) ∧
        (s.stm.kbLink ≠ some i → u.stm.kbLink = s.stm.kbLink)
      let freed (u : State) : Prop := u.record i = none ∧ u.stm.free = s.stm.free ++ r.chain ∧
        u.kbs.storeFull = false ∧ SequenceIs u s.fqm.seq
      (¬ (r.origin = .console ∧ r.state = .opened) →
        exec (.msgClose (e1 i)) s = .next (refused 1 .wrongState s)) ∧
      (r.origin = .console → r.state = .opened → ∃ u t, exec (.msgClose (e1 i)) s = .next t ∧ Settled bothLines u t ∧
        changed (e2 r.number ++ e2 r.length) u ∧
        (r.dests.isEmpty = true → r.grants.any = false → freed u) ∧
        (r.dests.isEmpty = true → r.grants.any = true → u.stm.free = s.stm.free ∧ u.fqm.seq = s.fqm.seq ∧
          u.record i = some { r with state := .cancelled }) ∧
        (r.dests.isEmpty = false → u.stm.free = s.stm.free ∧ (r.dests.hold = true → Latched u .holdReady) ∧
          u.record i = some (closedAs s.fqm.seq r) ∧
          u.fqm.seq = (joins (closeQueues r.dests) r.stamp s.fqm.seq).2)) ∧
      (r.state = .cancelled → exec (.msgDelete (e1 i)) s = .next (answered 1 .ok [] s)) ∧
      (r.state ≠ .cancelled → ∃ u t, exec (.msgDelete (e1 i)) s = .next t ∧ Settled bothLines u t ∧ changed [] u ∧
        (r.grants.any = false → freed u) ∧
        (r.grants.any = true → u.stm.free = s.stm.free ∧ SequenceIs u s.fqm.seq ∧ u.record i = some { r with
          state := .cancelled, dests := ⟨⟨false, false, false, false⟩, false⟩, stamp := ⟨none, none, none, none⟩
          stops := r.grants }))

/-- SET_STORE, STORE_CLEAR, SET_ATTENDANCE, SET_ROUTE and SET_FRAMING do what their rules say and no more (R54, R70,
R72, R74, R75, R81, R139, R184). -/
def Obligations.StoreAndQueueConfiguration : Prop :=
  ∀ s : State, Ready s →
    (∀ (maxLen low : Nat) (clear : Bool), maxLen < 65536 → low < 65536 →
      if 512 ≤ maxLen ∧ maxLen ≤ 8192 ∧ low ≤ 511 then
        ∃ t, exec (.setStore (e2 maxLen ++ e2 low ++ eBool clear)) s = .next t ∧
          t = answered 5 .ok [] { s with
            stm := { s.stm with cfg := ⟨maxLen, low, clear⟩, low := decide (unreserved s.stm < low) }
            cpe := { s.cpe with latches := if unreserved s.stm < low ∧ s.stm.low = false
              then s.cpe.latches ||| BitVec.twoPow 17 7 else s.cpe.latches } }
      else exec (.setStore (e2 maxLen ++ e2 low ++ eBool clear)) s = .next (refused 5 .badArgument s)) ∧
    ((∃ i r, s.record i = some r ∧ (r.state = .opened ∨ r.grants.any = true)) →
      exec (.storeClear []) s = .next (refused 0 .wrongState s)) ∧
    ((∀ i r, s.record i = some r → r.state ≠ .opened ∧ r.grants.any = false) → ∃ u t,
      exec (.storeClear []) s = .next t ∧ Settled noLine u t ∧
      let left := 512 - (s.stm.reservation.a + s.stm.reservation.b)
      u = answered 0 .ok [] { s with
        stm := { s.stm with recs := List.replicate 48 none, free := List.range 512
                            low := decide (left < s.stm.cfg.storeLow) }
        fqm := { s.fqm with seq := 0 }
        kbs := { s.kbs with storeFull := s.kbs.storeFull && decide (left ≤ unreserved s.stm) }
        cpe := { s.cpe with latches := if left < s.stm.cfg.storeLow ∧ s.stm.low = false
          then s.cpe.latches ||| BitVec.twoPow 17 7 else s.cpe.latches } }) ∧
    (∀ b : Byte, exec (.setAttendance [b]) s = .next (if b.toNat ≤ 1
      then answered 1 .ok [] { s with fqm := { s.fqm with attended := decide (b = 0) } }
      else refused 1 .badArgument s)) ∧
    (∀ (o : Origin) (mode : Bool) (d : DestSet),
      let entry (x : Routes) (o : Origin) (mode : Bool) : DestSet :=
        let e := match o with
          | .lineA => x.lineA
          | .lineB => x.lineB
          | .keyboard | .console => x.keyboard
        if mode then e.unattended else e.attended
      if o = .console ∨ d.isEmpty = true ∨ (o = .lineA ∧ d.out.sendA = true) ∨ (o = .lineB ∧ d.out.sendB = true) then
        exec (.setRoute (e1 o.code ++ eBool mode ++ eDests d)) s = .next (refused 3 .badArgument s)
      else ∃ x, exec (.setRoute (e1 o.code ++ eBool mode ++ eDests d)) s =
          .next (answered 3 .ok [] { s with fqm := { s.fqm with routes := x } }) ∧
        entry x o mode = d ∧
        ∀ o' mode', o' ≠ .console → (o' ≠ o ∨ mode' ≠ mode) → entry x o' mode' = entry s.fqm.routes o' mode') ∧
    (∀ (l : LineId) (f : FramingConfig), f.som.length ≤ 100 → f.eom.length ≤ 100 → f.gapS < 65536 →
      let p := e1 (lineCode l) ++ eText f.som ++ eText f.eom ++ e2 f.gapS ++ eBool f.sendOnIncoming
      let legal := f.som.length ≤ 8 ∧ 2 ≤ f.eom.length ∧ f.eom.length ≤ 6 ∧ f.gapS ≤ 3600 ∧
        ∀ c ∈ f.som ++ f.eom, c.toNat ∉ [0, 5, 10, 13]
      if ¬ legal then exec (.setFraming p) s = .next (refused p.length .badArgument s)
      else if (s.framerOf l).phase = .idle ∧ (s.selector l).grant = none ∧ (s.selector l).cutoff = none ∧
          s.stm.episode.get l = false then
        exec (.setFraming p) s = .next (answered p.length .ok []
          { s with fqm := { s.fqm with framing := s.fqm.framing.set l f } })
      else exec (.setFraming p) s = .next (refused p.length .wrongState s)) ∧
    (∀ (len low : Nat) (clear : Byte), 2 ≤ clear.toNat →
      exec (.setStore (e2 len ++ e2 low ++ [clear])) s = .next (refused 5 .badArgument s)) ∧
    (∀ o mode d : Byte, o.toNat ∉ [0, 2, 3] ∨ 2 ≤ mode.toNat ∨ 32 ≤ d.toNat →
      exec (.setRoute [o, mode, d]) s = .next (refused 3 .badArgument s)) ∧
    (∀ (l : LineId) (som eom : List Byte) (gap : Nat) (on : Byte), som.length ≤ 100 → eom.length ≤ 100 →
      2 ≤ on.toNat ∨ (∃ c ∈ som ++ eom, 128 ≤ c.toNat) →
      let p := e1 (lineCode l) ++ e1 som.length ++ som ++ e1 eom.length ++ eom ++ e2 gap ++ [on]
      exec (.setFraming p) s = .next (refused p.length .badArgument s)) ∧
    ∀ (b : Byte) (rest : List Byte), 2 ≤ b.toNat → rest.length ≤ 247 →
      exec (.setFraming (b :: rest)) s = .next (refused (rest.length + 1) .badArgument s)

/-- MSG_REROUTE removes and adds destinations, keeps every other field, and releases what is done (R63, R64, R77, R80,
R184, log entry 39, log entry 48). That the additions of a command whose removals emptied the queues are stamped
from 0 is the model's reading of log entry 39, and the order of several joins in one step that of log entry 48. -/
def Obligations.MsgRerouteRemovesThenAdds : Prop :=
  ∀ (i : Nat) (more gone : DestSet) (s : State), Ready s → i < 48 →
    let run := exec (.msgReroute (e1 i ++ eDests more ++ eDests gone)) s
    let bad := (more.isEmpty = true ∧ gone.isEmpty = true) ∨ (more.hold = true ∧ gone.hold = true) ∨
      ∃ d, more.out.get d = true ∧ gone.out.get d = true
    (bad → run = .next (refused 3 .badArgument s)) ∧
    (¬ bad → (s.record i = none → run = .next (refused 3 .noRecord s)) ∧
      ∀ r, s.record i = some r →
        let back := (r.origin = .lineA ∧ more.out.sendA = true) ∨ (r.origin = .lineB ∧ more.out.sendB = true)
        (back → run = .next (refused 3 .badArgument s)) ∧
        (¬ back → r.state = .cancelled → run = .next (refused 3 .wrongState s)) ∧
        (¬ back → r.state ≠ .cancelled → ∃ (left : DestSet) (u t : State), run = .next t ∧ Settled bothLines u t ∧
          (left.hold = ((r.dests.hold && !gone.hold) || more.hold)) ∧
          (∀ d, left.out.get d = ((r.dests.out.get d && !gone.out.get d) || more.out.get d)) ∧
          u = answered 3 .ok (eDests left) { s with
            stm := { s.stm with recs := u.stm.recs, free := u.stm.free, low := u.stm.low }
            fqm := { s.fqm with seq := u.fqm.seq }
            kbs := { s.kbs with storeFull := u.kbs.storeFull }
            cpe := { s.cpe with latches := u.cpe.latches } } ∧
          (∀ j, j ≠ i → u.record j = s.record j) ∧
          let stops (d : Deliv) : Bool := if gone.out.get d && r.dests.out.get d then r.grants.get d else r.stops.get d
          let granted := r.grants.any
          let gone' (d : Deliv) : Bool := gone.out.get d && r.dests.out.get d
          let left' (d : Deliv) : Option Nat := if gone' d then none else r.stamp.get d
          let emptied := (∃ d, gone' d = true) ∧ (∀ d, left' d = none) ∧
            ∀ j q, j ≠ i → s.record j = some q → ∀ d, q.stamp.get d = none
          let joining := [Deliv.print, .punch, .sendA, .sendB].filter fun d =>
            more.out.get d && !r.dests.out.get d && match d with
              | .print | .punch => true
              | .sendA => decide (r.state = .closed) || r.flags.liveA
              | .sendB => decide (r.state = .closed) || r.flags.liveB
          (r.state = .closed → left.isEmpty = true → granted = false →
            u.record i = none ∧ u.stm.free = s.stm.free ++ r.chain ∧ u.kbs.storeFull = false ∧
            SequenceIs u s.fqm.seq) ∧
          (r.state = .opened ∨ left.isEmpty = false ∨ granted = true → u.stm.free = s.stm.free ∧
            ∃ q, u.record i = some q ∧
              q = { r with
                state := if r.state = .closed ∧ left.isEmpty = true then .cancelled else r.state
                dests := left, cursor := q.cursor, stamp := q.stamp, stops := q.stops } ∧
              (∀ d, q.stops.get d = stops d ∧
                q.cursor.get d = (if more.out.get d && !r.dests.out.get d then 0 else r.cursor.get d)) ∧
              ∃ n, (emptied → n = 0) ∧ (¬ emptied → n = s.fqm.seq) ∧
                let join := joins joining ⟨left' .print, left' .punch, left' .sendA, left' .sendB⟩ n
                q.stamp = join.1 ∧ u.fqm.seq = join.2)))

/-- SEND_GRANT takes live work first, then the first stored record that fits, and charges the acceptance (R35, R77,
R86, R89, R90, R91, R92, R108, R141, log entry 29, log entry 48, log entry 57). That the end begun bars live
records too is the model's reading of log entry 29 (R108 speaks of records that join SEND_x while ending); that a
row which is not due changes nothing is log entry 2; the order of several joins in one step is log entry 48; that a
live record which SEND_x has left holds no stored grant back is the reading of log entry 57. -/
def Obligations.SendGrantChoosesLiveThenStored : Prop :=
  ∀ (l : LineId) (s : State),
    (storedHeldBack s l = true ↔
      (s.kbs.mode = (match l with | .A => .directA | .B => .directB) ∧ ¬ (s.kbs.fifo = [] ∧ 2000 ≤ s.kbs.inputAge)) ∨
        (((s.unit l).cfg.duplex = .half ∨ (s.csv l).exch.half = true) ∧ receiveBusy s l = true)) ∧
    let sel := s.selector l
    let d := sendOf l
    let live (r : Rec) : Prop := (r.stamp.get d).isSome = true ∧ r.live l = true ∧
      (r.state = .closed ∨ (r.state = .opened ∧ r.cursor.get d < r.length))
    let stored (r : Rec) : Prop := (r.stamp.get d).isSome = true ∧ r.state = .closed ∧ r.live l = false
    let fit (r : Rec) : Prop := ∀ n, (s.csv l).remaining = .blocks n → blocksFor r.length ≤ n
    let closed := sel.grant ≠ none ∨ sel.cutoff ≠ none ∨ (s.csv l).ending = true ∨
      ¬ ((s.csv l).state = .running ∨
        ((s.csv l).state = .connected ∧ ((s.csv l).exch.sub = .done ∨ (s.csv l).exch.sub = .plain)))
    let others (u : State) (i : Nat) : Prop := u = { s with
        stm := { s.stm with recs := u.stm.recs }
        fqm := { s.fqm with sel := s.fqm.sel.set l (u.selector l) }
        sup := s.sup.set l (u.csv l)
        cpe := { s.cpe with latches := u.cpe.latches } } ∧ ∀ j, j ≠ i → u.record j = s.record j
    let deferred : State := { s with
      fqm := { s.fqm with sel := s.fqm.sel.set l { sel with deferral := true } }
      cpe := { s.cpe with latches := if sel.deferral then s.cpe.latches
        else s.cpe.latches ||| BitVec.twoPow 17 11 } }
    (closed → exec (.sendGrant l) s = .next s) ∧
    (¬ closed →
      (∀ i r, FirstInQueue s d live i r → ∃ u t, exec (.sendGrant l) s = .next t ∧ Settled (oneLine l) u t ∧
        others u i ∧ u.selector l = { sel with grant := some ⟨i, true, [], none, false⟩ } ∧
        u.record i = some { r with grants := r.grants.set d true, charged := r.charged.set l true } ∧
        u.csv l = { s.csv l with remaining := match (s.csv l).remaining with
          | .unlimited => .unlimited
          | .blocks n => .blocks (if r.charged.get l then n else n - 1) }) ∧
      ((∀ i r, s.record i = some r → ¬ live r) → storedHeldBack s l = false →
        ((s.csv l).state = .running ∨ (s.csv l).direction = .outgoing ∨ (s.framingOf l).sendOnIncoming = true) →
        ((∀ i r, s.record i = some r → ¬ stored r) → exec (.sendGrant l) s = .next s) ∧
        ((∃ i r, s.record i = some r ∧ stored r) → (∀ i r, s.record i = some r → stored r → ¬ fit r) →
          exec (.sendGrant l) s = .next deferred) ∧
        ∀ i r, FirstInQueue s d (fun r => stored r ∧ fit r) i r → ∃ u t,
          exec (.sendGrant l) s = .next t ∧ Settled (oneLine l) u t ∧ others u i ∧
          u.selector l = { sel with
            grant := some ⟨i, false, leadOf s l r, none, false⟩
            deferral := (u.selector l).deferral } ∧
          (FirstInQueue s d stored i r → (u.selector l).deferral = sel.deferral ∧ u.cpe.latches = s.cpe.latches) ∧
          (¬ FirstInQueue s d stored i r → (u.selector l).deferral = true ∧ u.cpe = deferred.cpe) ∧
          u.record i = some { r with grants := r.grants.set d true } ∧
          u.csv l = { s.csv l with remaining := match (s.csv l).remaining with
            | .unlimited => .unlimited
            | .blocks n => .blocks (n - blocksFor r.length) }) ∧
      ((∀ i r, s.record i = some r → ¬ live r) →
        (storedHeldBack s l = true ∨ ¬ ((s.csv l).state = .running ∨ (s.csv l).direction = .outgoing ∨
          (s.framingOf l).sendOnIncoming = true)) → exec (.sendGrant l) s = .next s)) ∧
    (¬ ((s.csv l).state = .running ∧ (s.framerOf l).gap = some 0) → exec (.messageGapExpiry l) s = .next s) ∧
    ((s.csv l).state = .running → (s.framerOf l).gap = some 0 → (s.framerOf l).phase ≠ .idle →
      ∃ u t, exec (.messageGapExpiry l) s = .next t ∧ Settled (oneLine l) u t ∧
        u.framerOf l = ⟨.idle, [], none⟩ ∧ u.stm.episode.get l = false ∧ u.stm.lineOwed.get l = none ∧
        u.lu = s.lu ∧ u.sup = s.sup ∧ u.ctr = s.ctr ∧ u.tbu = s.tbu ∧ MessageEnded s u l ∧
        ∀ i r, (s.framerOf l).held = [] → s.stm.lineLink.get l = some i → s.record i = some r → r.state = .opened →
          r.dests.isEmpty = false → u.stm.cells = s.stm.cells ∧ u.stm.lineLink.get l = none ∧
          (∀ j, j ≠ i → u.record j = s.record j) ∧ (r.origin ≠ .console → Latched u .msgArrived) ∧
          u.record i = some (closedAs s.fqm.seq r) ∧ u.fqm.seq = (joins (closeQueues r.dests) r.stamp s.fqm.seq).2)

/-- SET_KEYMAP loads its entries, SET_KEYBOARD takes DEBOUNCE, the repeat acts from the present entry, the bell ends
(R134, R135, R136, R137, R138, R143, R184, log entry 31). Whether a stopped repeat is spent is left open (log entries
31 and 67). That a timed row changes nothing when it is not due is
the model's choice, log entry 2: the spec has the part take these steps by itself. -/
def Obligations.KeymapRepeatAndBell : Prop :=
  (∀ (es : List (Nat × KeyEntry)) (s : State), Ready s → 1 ≤ es.length → es.length ≤ 64 → (∀ e ∈ es, e.1 < 64) →
    let p := e1 es.length ++ es.flatMap fun e => e1 (e.1 + 64 * (e.2.kind.code % 4))
      ++ e1 (e.2.plain.toNat + 128 * (e.2.kind.code / 4 % 2)) ++ e1 (e.2.shifted.toNat + 128 * (e.2.kind.code / 8))
    let good := (es.map (·.1)).Nodup ∧ ∀ e ∈ es, if e.2.kind = .char
      then e.2.plain ≠ 5 ∧ e.2.shifted ≠ 5 ∧ (e.2.plain ≠ 0 ∨ e.2.shifted ≠ 0)
      else e.2.plain = 0 ∧ e.2.shifted = 0
    (¬ good → exec (.setKeymap p) s = .next (refused p.length .badArgument s)) ∧
    (good → ∃ t, exec (.setKeymap p) s = .next t ∧
      t = answered p.length .ok [] { s with kbs := { s.kbs with
        keymap := t.kbs.keymap, repeatTimer := t.kbs.repeatTimer, repeatSpent := t.kbs.repeatSpent } } ∧
      t.kbs.keymap.length = s.kbs.keymap.length ∧
      (∀ k, k < s.kbs.keymap.length → t.kbs.keymap[k]? = match es.find? (fun e => decide (e.1 = k)) with
        | some e => some e.2
        | none => s.kbs.keymap[k]?) ∧
      ((∀ k, s.kbs.repeatKey = some k → (keyEntry t.kbs k).kind ≠ .char) → t.kbs.repeatTimer = none) ∧
      ∀ n, s.kbs.repeatTimer = some n → repeatHolds t.kbs = true → t.kbs.repeatTimer = some n)) ∧
  (∀ (b : Byte) (s : State), Ready s → exec (.setKeyboard [b]) s = .next (if 2 ≤ b.toNat ∧ b.toNat ≤ 8
    then answered 1 .ok [] { s with kbs := { s.kbs with debounce := b.toNat } } else refused 1 .badArgument s)) ∧
  (∀ s : State, exec .bellPulseEnd s = .next (if s.kbs.bell = some 0
    then { s with kbs := { s.kbs with bell := none } } else s)) ∧
  ∀ s : State,
    (s.kbs.repeatTimer ≠ some 0 → exec .repeatExpiry s = .next s) ∧
    (s.kbs.repeatTimer = some 0 →
      let idle := ∃ t, exec .repeatExpiry s = .next t ∧
        t = { s with kbs := { s.kbs with repeatTimer := none, repeatSpent := t.kbs.repeatSpent } }
      (s.kbs.repeatKey = none → idle) ∧
      ∀ k, s.kbs.repeatKey = some k →
        let e := keyEntry s.kbs k
        let c := if anyDown s.kbs .shift then e.shifted else e.plain
        (e.kind ≠ .char ∨ c = 0 → idle) ∧
        (e.kind = .char → c ≠ 0 →
          (16 ≤ s.kbs.fifo.length → ∃ t, exec .repeatExpiry s = .next t ∧
            Settled bothLines { s with
              kbs := { s.kbs with repeatTimer := some 100, bell := some 100, refusals := bump s.kbs.refusals
                                  lastRefusal := .fifoFull }
              cpe := { s.cpe with latches := s.cpe.latches ||| BitVec.twoPow 17 15 } } t) ∧
          (s.kbs.fifo.length < 16 → kbLocked s = true → ∃ t, exec .repeatExpiry s = .next t ∧
            Settled bothLines { s with kbs := { s.kbs with
              repeatTimer := some 100, inputAge := 0, fifo := s.kbs.fifo ++ [.chr c] } } t) ∧
          (s.kbs.fifo.length < 16 → ∃ t, exec .repeatExpiry s = .next t ∧ t.kbs.repeatTimer = some 100 ∧
            t.kbs.inputAge = 0 ∧ exec .keyFifoDrain { s with kbs := { s.kbs with
              repeatTimer := some 100, inputAge := 0, fifo := s.kbs.fifo ++ [.chr c] } } = .next t)))

/-- KEYBOARD_SCAN debounces the matrix, forms the actions and runs the repeat; KEY_FIFO_DRAIN carries actions out; what
locks the keyboard (R59, R76, section 5.2, R132, R133, R135, section 8.3, R138, R139, R140, R141, log entry 31).
The store is sound (O58). Not due, KEYBOARD_SCAN changes nothing: the model's choice, log entry 2. That a pending
urgent mark also reaches an owed continuation is log entry 15; a stopped repeat stays spent until any CHAR key, or
a REPEAT key while the repeat key is DOWN, goes down, by log entry 31; a scan's flips are looked at together by
log entry 69; a sample that agrees clears a count above a
lowered DEBOUNCE by log entry 60; the order of joins is entry 48. -/
def Obligations.ScanDebouncesAndKeysAreCarriedOut : Prop :=
  let refusal (why : KeyRefusal) (s : State) : State := { s with
    kbs := { s.kbs with bell := some 100, refusals := bump s.kbs.refusals, lastRefusal := why
                        storeFull := s.kbs.storeFull || decide (why = .storeFull) }
    cpe := { s.cpe with latches := s.cpe.latches ||| BitVec.twoPow 17 15 } }
  let shut (v u : State) (i : Nat) (q : Rec) : Prop := (q.origin ≠ .console → Latched u .msgArrived) ∧
    (q.dests.hold = true → Latched u .holdReady) ∧ u.record i = some (closedAs v.fqm.seq q) ∧
    ∀ l, u.stm.lineLink.get l = if v.stm.lineLink.get l = some i then none else v.stm.lineLink.get l
  let closed (v u : State) (i : Nat) (q : Rec) : Prop := shut v u i q ∧ (∀ j, j ≠ i → u.record j = v.record j) ∧
    u.fqm.seq = (joins (closeQueues q.dests) q.stamp v.fqm.seq).2
  let ends (v u : State) (m : KbMode) (age : Nat) : Prop :=
    (v.stm.kbLink = none → u = { v with
      stm := { v.stm with kbOwed := none }, kbs := { v.kbs with mode := m, inputAge := age } }) ∧
    ∀ i r, v.stm.kbLink = some i → v.record i = some r → r.state = .opened → r.dests.isEmpty = false →
      closed v u i r ∧ u = { v with
        stm := { v.stm with recs := u.stm.recs, kbLink := none, lineLink := u.stm.lineLink, kbOwed := none }
        fqm := { v.fqm with seq := u.fqm.seq }
        kbs := { v.kbs with mode := m, inputAge := age }
        cpe := { v.cpe with latches := u.cpe.latches } }
  (∀ s : State, kbLocked s = true ↔ s.kbs.storeFull = true ∨
    ∃ l, ((l = .A ∧ s.kbs.mode = .directA) ∨ (l = .B ∧ s.kbs.mode = .directB)) ∧
      (((s.csv l).state ≠ .connected ∧ (s.csv l).state ≠ .running) ∨
        ((s.csv l).state = .connected ∧ (s.csv l).exch.sub ≠ .done ∧ (s.csv l).exch.sub ≠ .plain) ∨
        (((s.unit l).cfg.duplex = .half ∨ (s.csv l).exch.half = true) ∧ receiveBusy s l = true))) ∧
  (∀ (closed : BitVec 64) (s : State),
    (s.kbs.scanTimer ≠ 0 → exec (.keyboardScan closed) s = .next s) ∧
    (s.kbs.scanTimer = 0 → ∃ t, exec (.keyboardScan closed) s = .next t ∧
      t.kbs.scanTimer = (if s.running then 4 else 64) ∧
      (∀ k x, s.kbs.keys[k]? = some x → t.kbs.keys[k]? = some
        (if closed.getLsbD k = x.down then ⟨x.down, 0⟩
         else if s.kbs.debounce ≤ x.count + 1 then ⟨closed.getLsbD k, 0⟩ else ⟨x.down, x.count + 1⟩)) ∧
      t.kbs.keys.length = s.kbs.keys.length ∧
      let fresh := (List.range 64).filter fun k => !keyDown s.kbs k && keyDown t.kbs k
      let act (k : Nat) : Option KeyAction :=
        let e := keyEntry s.kbs k
        let c := if anyDown t.kbs .shift then e.shifted else e.plain
        match e.kind with
        | .char => if c = 0 then none else some (.chr c)
        | .msgEnd => some .msgEnd
        | .hereIs => some .hereIs
        | .wruKey => some .wru
        | .urgent => some .urgent
        | .modeLocal => some (.mode .localMode)
        | .modeDirectA => some (.mode .directA)
        | .modeDirectB => some (.mode .directB)
        | .none | .shift | .repeatKey => none
      let acts := fresh.filterMap act
      let struck := (fresh.filter fun k => decide ((keyEntry s.kbs k).kind = .char) && (act k).isSome).getLast?
      let scanned : State := { s with kbs := { s.kbs with
        keys := t.kbs.keys, scanTimer := t.kbs.scanTimer, repeatKey := t.kbs.repeatKey
        repeatTimer := t.kbs.repeatTimer, repeatSpent := t.kbs.repeatSpent } }
      let joined : State := { scanned with kbs := { scanned.kbs with fifo := s.kbs.fifo ++ acts, inputAge := 0 } }
      let holds : Prop := anyDown t.kbs .repeatKey = true ∧
        ∃ k, t.kbs.repeatKey = some k ∧ keyDown t.kbs k = true ∧ (keyEntry s.kbs k).kind = .char
      (s.running = false → t = { s with
          tbu := t.tbu, kbs := { s.kbs with keys := t.kbs.keys, scanTimer := t.kbs.scanTimer } } ∧
        (fresh = [] ∨ s.tbu.state = .waking → t.tbu = s.tbu) ∧
        (fresh ≠ [] → s.tbu.state = .standby → t.tbu.state = .waking ∧ t.tbu.wakeCause = .key)) ∧
      (s.running = true →
        t.kbs.repeatKey = (match struck with
          | some k => some k
          | none => s.kbs.repeatKey) ∧
        (¬ holds → t.kbs.repeatTimer = none) ∧
        (holds → (struck ≠ none → t.kbs.repeatTimer = some 500) ∧
          (∀ n, struck = none → s.kbs.repeatTimer = some n → t.kbs.repeatTimer = some n) ∧
          (struck = none → s.kbs.repeatTimer = none → s.kbs.repeatSpent = false ∨
            (∃ k ∈ fresh, (keyEntry s.kbs k).kind = .char ∨ (keyEntry s.kbs k).kind = .repeatKey) →
            t.kbs.repeatTimer = some 500) ∧
          (struck = none → s.kbs.repeatTimer = none → s.kbs.repeatSpent = true →
            (∀ k ∈ fresh, (keyEntry s.kbs k).kind ≠ .char ∧ (keyEntry s.kbs k).kind ≠ .repeatKey) →
            t.kbs.repeatTimer = none)) ∧
        (acts = [] → Settled bothLines scanned t) ∧
        (acts ≠ [] → s.kbs.fifo.length + acts.length ≤ 16 →
          (∀ m, .mode m ∉ acts) ∨ (kbLocked s = false ∧ acts.length = 1) → exec .keyFifoDrain joined = .next t) ∧
        (∀ a, acts = [a] → (kbLocked s = true → ∀ m, a ≠ .mode m) → 16 ≤ s.kbs.fifo.length →
          Settled bothLines (refusal .fifoFull scanned) t) ∧
        ∀ m, acts = [.mode m] → kbLocked s = true → s.kbs.fifo.length ≤ 16 →
          ∃ u, exec .keyFifoDrain u = .next t ∧
            (m = s.kbs.mode → u = { scanned with kbs := { scanned.kbs with inputAge := 0 } }) ∧
            (m ≠ s.kbs.mode → ends scanned u m 0)))) ∧
  (∀ s : State, ∃ t, exec .keyFifoDrain s = .next t ∧ (kbLocked s = true ∨ s.kbs.fifo = [] → Settled bothLines s t)) ∧
  ∀ (a : KeyAction) (rest : List KeyAction) (s : State),
    kbLocked s = false → s.kbs.fifo = a :: rest → s.kbs.fifo.length ≤ 16 →
    let took : State := { s with kbs := { s.kbs with fifo := rest } }
    let asked : State := { took with stm := { s.stm with
      kbOwed := s.stm.kbOwed.map fun o => { o with urgent := o.urgent || s.kbs.urgentPending } } }
    let goesOn (u : State) : Prop := ∃ t, exec .keyFifoDrain s = .next t ∧ exec .keyFifoDrain u = .next t
    (a = .urgent → s.stm.kbLink = none → goesOn { took with kbs := { took.kbs with urgentPending := true } }) ∧
    (∀ i r, a = .urgent → s.stm.kbLink = some i → s.record i = some r →
      goesOn (took.setRecord i (some { r with urgent := true }))) ∧
    (a = .hereIs → s.identity = none → goesOn (refusal .noIdentity took)) ∧
    (a = .wru → s.kbs.mode = .localMode → goesOn (refusal .wrongMode took)) ∧
    (a = .mode s.kbs.mode → goesOn took) ∧
    (∀ m, (a = .msgEnd ∧ m = s.kbs.mode) ∨ (a = .mode m ∧ m ≠ s.kbs.mode) →
      ∃ u, goesOn u ∧ ends took u m s.kbs.inputAge) ∧
    ∀ cs, cs ≠ [] → (∃ c, a = .chr c ∧ cs = [c]) ∨
        (a = .wru ∧ s.kbs.mode ≠ .localMode ∧ cs = [5]) ∨ (a = .hereIs ∧ s.identity = some cs) →
      BlocksConserved s → CellsCanonical s →
      let avail := s.stm.free.length - (s.stm.reservation.a + s.stm.reservation.b)
      let lowered (n : Nat) (u : State) : Prop := u.stm.low =
        (if n = 0 then s.stm.low else decide (unreserved u.stm < s.stm.cfg.storeLow))
      let clean (xs : List Chr) : List RxChar := xs.map (⟨·, false⟩)
      let onlyIn (u : State) (q : Rec) (a n : Nat) : Prop := ∀ x, (∀ k < n, x ≠ cellAddr q (a + k)) →
        Memory.read u.stm.cells x = Memory.read s.stm.cells x
      let owes (r : Rec) (urgent : Bool) : OpenSpec :=
        ⟨urgent, r.dests, true, r.flags.liveA, r.flags.liveB, r.sender, r.serial⟩
      let numbered : NextNumbers := { s.stm.nextNum with
        keyboard := if s.stm.nextNum.keyboard < 9999 then s.stm.nextNum.keyboard + 1 else 1 }
      let opened (spec : OpenSpec) (n : Nat) (chain : List Nat) (stamp : Four (Option Nat)) : Rec :=
        { state := .opened, origin := .keyboard, number := s.stm.nextNum.keyboard, urgent := spec.urgent, length := n
          chain := chain, dests := spec.dests, cursor := ⟨0, 0, 0, 0⟩, attempts := ⟨0, 0⟩, charged := ⟨false, false⟩
          flags := ⟨false, false, false, spec.continuation, spec.liveA, spec.liveB, false, false⟩, sender := spec.sender
          remoteNumber := none, serial := spec.serial, stamp := stamp, grants := ⟨false, false, false, false⟩
          stops := ⟨false, false, false, false⟩ }
      (∀ i r, s.stm.kbLink = some i → s.record i = some r → r.state = .opened → r.chain.length = blocksFor r.length →
        let n := min cs.length (32 * (r.chain.length + avail) - r.length)
        let taken := blocksFor (r.length + n) - r.chain.length
        let grown : Rec := { r with length := r.length + n, chain := r.chain ++ s.stm.free.take taken }
        (r.length + n < s.stm.cfg.maxMsgLen → ∃ u, goesOn (if n = cs.length then u else refusal .storeFull u) ∧
          u = { took with
            stm := { asked.stm with recs := u.stm.recs, cells := u.stm.cells, low := u.stm.low
                                    free := s.stm.free.drop taken }
            cpe := { s.cpe with latches := u.cpe.latches } } ∧
          (∀ j, j ≠ i → u.record j = s.record j) ∧ u.record i = some grown ∧ lowered taken u ∧
          TextAppended s u i r grown (clean (cs.take n)) ∧ onlyIn u grown r.length n) ∧
        (n = cs.length → r.length + n = s.stm.cfg.maxMsgLen → r.dests.isEmpty = false → ∃ u, goesOn u ∧
          u = { took with
            stm := { s.stm with recs := u.stm.recs, cells := u.stm.cells, low := u.stm.low
                                free := s.stm.free.drop taken, kbLink := none, lineLink := u.stm.lineLink
                                kbOwed := some (owes r r.urgent) }
            fqm := { s.fqm with seq := u.fqm.seq }
            cpe := { s.cpe with latches := u.cpe.latches } } ∧
          closed s u i { grown with flags := { r.flags with split := true } } ∧ lowered taken u ∧
          TextAppended s u i r grown (clean cs) ∧ onlyIn u grown r.length n) ∧
        (∀ head tail, cs = head ++ tail → head ≠ [] → tail ≠ [] → r.length + head.length = s.stm.cfg.maxMsgLen →
          tail.length < s.stm.cfg.maxMsgLen → r.dests.isEmpty = false →
          let taken := blocksFor (r.length + head.length) - r.chain.length
          let grown : Rec := { r with length := r.length + head.length, chain := r.chain ++ s.stm.free.take taken }
          let split : Rec := { grown with flags := { r.flags with split := true } }
          let spec := owes r (r.urgent || s.kbs.urgentPending)
          taken ≤ avail →
          ((∀ j, j < s.stm.recs.length → s.record j ≠ none) ∨ avail = taken → ∃ u, goesOn (refusal .storeFull u) ∧
            u = { took with
              stm := { s.stm with recs := u.stm.recs, cells := u.stm.cells, low := u.stm.low
                                  free := s.stm.free.drop taken, kbLink := none, lineLink := u.stm.lineLink
                                  kbOwed := some spec }
              fqm := { s.fqm with seq := u.fqm.seq }
              cpe := { s.cpe with latches := u.cpe.latches } } ∧
            closed s u i split ∧ lowered taken u ∧ TextAppended s u i r grown (clean head) ∧
            onlyIn u grown r.length head.length) ∧
          ∀ j, j < s.stm.recs.length → s.record j = none → (∀ k, k < j → s.record k ≠ none) → taken < avail →
            let n := min tail.length (32 * (avail - taken))
            let join := joins (openQueues spec.dests spec.liveA spec.liveB) ⟨none, none, none, none⟩
              (joins (closeQueues r.dests) r.stamp s.fqm.seq).2
            let q := opened spec n ((s.stm.free.drop taken).take (blocksFor n)) join.1
            ∃ u, goesOn (if n = tail.length then u else refusal .storeFull u) ∧
              u = { took with
                stm := { s.stm with recs := u.stm.recs, cells := u.stm.cells, low := u.stm.low
                                    free := s.stm.free.drop (taken + blocksFor n), kbLink := some j
                                    lineLink := u.stm.lineLink, kbOwed := none, nextNum := numbered }
                fqm := { s.fqm with seq := join.2 }
                kbs := { took.kbs with urgentPending := false }
                cpe := { s.cpe with latches := u.cpe.latches } } ∧
              shut s u i split ∧ u.record j = some q ∧ (∀ k, k ≠ i → k ≠ j → u.record k = s.record k) ∧
              lowered (taken + blocksFor n) u ∧ TextAppended s u i r grown (clean head) ∧
              (∀ k c, k < n → tail[k]? = some c → readChar u q k = c) ∧
              ∀ x, (∀ k < head.length, x ≠ cellAddr grown (r.length + k)) → (∀ k < n, x ≠ cellAddr q k) →
                Memory.read u.stm.cells x = Memory.read s.stm.cells x) ∧
        (s.stm.cfg.maxMsgLen ≤ r.length → r.dests.isEmpty = false → s.kbs.urgentPending = false → ∃ w, goesOn w ∧
          closed s w i { r with flags := { r.flags with split := true } } ∧ w = { s with
            stm := { s.stm with
              recs := w.stm.recs, kbLink := none, lineLink := w.stm.lineLink
              kbOwed := some (owes r r.urgent) }
            fqm := { s.fqm with seq := w.fqm.seq }
            cpe := { s.cpe with latches := w.cpe.latches } })) ∧
      (s.stm.kbLink = none →
        let route := if s.fqm.attended then s.fqm.routes.keyboard.attended else s.fqm.routes.keyboard.unattended
        let toA := decide (s.kbs.mode = .directA)
        let toB := decide (s.kbs.mode = .directB)
        let spec : OpenSpec := match asked.stm.kbOwed with
          | some o => o
          | none => ⟨s.kbs.urgentPending, ⟨⟨route.out.print, route.out.punch, route.out.sendA || toA,
              route.out.sendB || toB⟩, route.hold⟩, false, toA, toB, none, none⟩
        ((∀ i, i < s.stm.recs.length → s.record i ≠ none) ∨ avail = 0 → goesOn (refusal .storeFull asked)) ∧
        ∀ i, i < s.stm.recs.length → s.record i = none → (∀ j, j < i → s.record j ≠ none) → 0 < avail →
          let n := min cs.length (32 * avail)
          let join := joins (openQueues spec.dests spec.liveA spec.liveB) ⟨none, none, none, none⟩ s.fqm.seq
          let q := opened spec n (s.stm.free.take (blocksFor n)) join.1
          n < s.stm.cfg.maxMsgLen → ∃ u, goesOn (if n = cs.length then u else refusal .storeFull u) ∧
            u = { took with
              stm := { s.stm with recs := u.stm.recs, cells := u.stm.cells, low := u.stm.low
                                  free := s.stm.free.drop (blocksFor n), kbLink := some i, kbOwed := none
                                  nextNum := numbered }
              fqm := { s.fqm with seq := join.2 }
              kbs := { took.kbs with urgentPending := false }
              cpe := { s.cpe with latches := u.cpe.latches } } ∧
            (∀ j, j ≠ i → u.record j = s.record j) ∧ u.record i = some q ∧ lowered (blocksFor n) u ∧
            (∀ k c, k < n → cs[k]? = some c → readChar u q k = c) ∧ onlyIn u q 0 n)

/-- SET_PRINTER, PRINTER_SET_TOP, HEAT_DECAY, the printer's sensors, its hold release and an abandoned operation's end
(R149, R157, R158, R159, R162, R184). That a row taken when it is not due changes nothing is the model's choice,
log entry 2: the spec has the part take these steps by itself. -/
def Obligations.PrinterConfigurationSensorsAndHeat : Prop :=
  (∀ (c : PrinterConfig) (s : State), Ready s → c.lineLength < 256 → c.pageLength < 256 → c.top < 256 →
    c.bottom < 256 → c.opTimeoutMs < 65536 → c.crTimeoutMs < 65536 → c.yieldS < 256 → c.strikeHeat < 256 →
    c.decayMs < 256 → c.hHi < 65536 → c.hLo < 65536 →
    let p := e1 c.lineLength ++ e1 c.pageLength ++ e1 c.top ++ e1 c.bottom ++ eBool c.crImpliesLf
      ++ eBool c.lfImpliesCr ++ e1 c.margin.code ++ eBool c.headers ++ e2 c.opTimeoutMs ++ e2 c.crTimeoutMs
      ++ e1 c.yieldS ++ e1 c.strikeHeat ++ e1 c.decayMs ++ e2 c.hHi ++ e2 c.hLo
    let good := 40 ≤ c.lineLength ∧ c.lineLength ≤ 80 ∧
      (c.pageLength = 0 ∨ (20 ≤ c.pageLength ∧ c.pageLength ≤ 99 ∧ c.top + c.bottom + 10 ≤ c.pageLength)) ∧
      c.top ≤ 40 ∧ c.bottom ≤ 40 ∧ 100 ≤ c.opTimeoutMs ∧ c.opTimeoutMs ≤ 2000 ∧ 200 ≤ c.crTimeoutMs ∧
      c.crTimeoutMs ≤ 4000 ∧ 1 ≤ c.yieldS ∧ c.yieldS ≤ 30 ∧ 1 ≤ c.strikeHeat ∧ c.strikeHeat ≤ 63 ∧ 1 ≤ c.decayMs ∧
      c.decayMs ≤ 50 ∧ 1 ≤ c.hHi ∧ c.hHi ≤ 960 ∧ c.hLo ≤ 959 ∧ c.hLo < c.hHi
    (¬ good → exec (.setPrinter p) s = .next (refused 19 .badArgument s)) ∧
    (good → s.prc.grant ≠ none → exec (.setPrinter p) s = .next (refused 19 .wrongState s)) ∧
    (good → s.prc.grant = none → exec (.setPrinter p) s = .next (answered 19 .ok [] { s with prc := { s.prc with
      cfg := c, count := min s.prc.count c.lineLength, heatHold := s.prc.heatHold && decide (c.hLo < s.prc.heat)
      line := (if c.pageLength = 0 then 0 else if s.prc.cfg.pageLength = 0 then c.top + 1
        else max (c.top + 1) (min s.prc.line (c.pageLength - c.bottom))) } }))) ∧
  (∀ s : State, Ready s →
    (s.prc.op ≠ none → exec (.printerSetTop []) s = .next (refused 0 .wrongState s)) ∧
    (s.prc.op = none → exec (.printerSetTop []) s = .next (answered 0 .ok [] { s with prc := { s.prc with
      line := if s.prc.cfg.pageLength = 0 then s.prc.line else s.prc.cfg.top + 1 } }))) ∧
  ∀ s : State,
    exec .heatDecay s = .next (if s.prc.decay = 0 then { s with prc := { s.prc with
      heat := s.prc.heat - 1, decay := s.prc.cfg.decayMs
      heatHold := s.prc.heatHold && decide (s.prc.cfg.hLo < s.prc.heat - 1) } } else s) ∧
    (exec (.printerSensorQualified .papLow) s = .next (if 20 ≤ s.prc.papLow.count then { s with
      prc := { s.prc with papLow := ⟨s.prc.papLow.pin, !s.prc.papLow.level, 0⟩ }
      cpe := { s.cpe with latches := if s.prc.papLow.level then s.cpe.latches
        else s.cpe.latches ||| BitVec.twoPow 17 12 } } else s)) ∧
    (∀ x ∈ ([(.papOut, s.prc.papOut, s.prc.cover), (.cover, s.prc.cover, s.prc.papOut)]
        : List (PrintSensor × Sensor × Sensor)),
      (x.2.1.count < 20 → exec (.printerSensorQualified x.1) s = .next s) ∧
      (20 ≤ x.2.1.count → ∃ u t, exec (.printerSensorQualified x.1) s = .next t ∧ Settled noLine u t ∧
        let y : Sensor := ⟨x.2.1.pin, !x.2.1.level, 0⟩
        let p := { s.prc with papOut := if x.1 = .papOut then y else s.prc.papOut
                              cover := if x.1 = .cover then y else s.prc.cover }
        u = { s with
          prc := if x.2.1.level then
              (if s.prc.hold = true ∧ x.2.2.level = false then { p with release := some 500 } else p)
            else { p with hold := true, release := none }
          cpe := { s.cpe with latches := if x.2.1.level || s.prc.hold then s.cpe.latches
            else s.cpe.latches ||| BitVec.twoPow 17 12 } })) ∧
    (s.prc.release ≠ some 0 → exec .printerHoldRelease s = .next s) ∧
    (s.prc.release = some 0 → ∃ t, exec .printerHoldRelease s = .next t ∧
      Settled noLine { s with prc := { s.prc with hold := false, release := none } } t) ∧
    ∀ ready : Bool,
      (s.prc.abandoned = none ∨ (ready = false ∧ s.prc.abandoned ≠ some 0) →
        exec (.printAbandonEnd ready) s = .next s) ∧
      (s.prc.abandoned ≠ none → ready = true ∨ s.prc.abandoned = some 0 →
        ∃ t, exec (.printAbandonEnd ready) s = .next t ∧
          Settled noLine { s with prc := { s.prc with abandoned := none } } t)

/-- The printer chooses a record, prints its lead, header, text and trailer, yields, stops, delivers, heats and faults
as its rules say (section 4.5, R145, R146, R148, R150, R151, R152, R153, R154, R156, R157, log entry 62). Where a
grant ends or passes to a phase, the punch has no grant or an operation in flight. That a row not due changes
nothing is the model's choice, log entry 2; that PRINT_RESUME is given only while PRINT is pending is log entry 28;
that the heat hold is set only with nothing in flight is log entry 62. -/
def Obligations.PrinterPrintsItsQueue : Prop :=
  let feed (p : Printer) : List PrintOp := if p.cfg.pageLength = 0 then [.lf none]
    else if p.line + p.cfg.bottom < p.cfg.pageLength then [.lf (some (p.line + 1, false))]
    else List.replicate (p.cfg.top + p.cfg.bottom) (.lf none) ++ [.lf (some (p.cfg.top + 1, true))]
  let page (p : Printer) : List PrintOp := if p.cfg.pageLength = 0 then [.lf none]
    else List.replicate (p.cfg.pageLength - p.line + p.cfg.top) (.lf none) ++ [.lf (some (p.cfg.top + 1, true))]
  let settles (u t : State) : Prop := Settled noLine u t ∧ PrintKept u t
  let resumed (r : Rec) : Rec := { r with
    grants := { r.grants with print := false }, stops := { r.stops with print := false }
    flags := { r.flags with printResume := r.flags.printResume || r.dests.out.print } }
  (∀ s : State,
    let C (i : Nat) (r : Rec) : Prop := Candidate s .print i r ∧
      (s.prc.passOver = some i → ∀ j q, Candidate s .print j q → j = i)
    (s.prc.grant ≠ none ∨ s.prc.fault = true ∨ s.running = false ∨ (∀ i r, ¬ Candidate s .print i r) →
      exec .printGrant s = .next s) ∧
    ∀ i r, s.prc.grant = none → s.prc.fault = false → s.running = true → Chosen C .print s.prc.lastServed i r →
      ∃ u t, exec .printGrant s = .next t ∧ settles u t ∧
        u = { s with
          stm := { s.stm with recs := u.stm.recs }
          prc := { s.prc with grant := some ⟨i, .lead, none, []⟩, lastServed := r.origin, passOver := none
                              yieldTimer := none, starved := false } } ∧
        (∀ j, j ≠ i → u.record j = s.record j) ∧
        u.record i = some { r with
          grants := { r.grants with print := true }
          flags := { r.flags with printResume := r.flags.printResume && s.prc.cfg.headers } } ∧
        (PunchStill s → s.prc.op = none → s.prc.owedCr = false → s.prc.cfg.headers = true → r.stops.print = false →
          t.prc.grant = some ⟨i, if 0 < s.prc.count then .lead else .header, none, []⟩)) ∧
  (∀ (p : Printer) (c : Chr),
    let back : List PrintOp := if p.cfg.lfImpliesCr = true ∧ 0 < p.count then [.cr] else []
    let full : List PrintOp := if p.cfg.margin = .wrap then .cr :: feed p else []
    charOps p c = if c = 0 ∨ c = 5 then [] else if c = 7 then [.bell]
      else if c = 13 then (if p.cfg.crImpliesLf then .cr :: feed p else [.cr])
      else if c = 10 then back ++ feed p else if c = 12 then back ++ page p
      else if c = 32 then (if p.count < p.cfg.lineLength then [.space] else full)
      else (if p.count < p.cfg.lineLength then [] else full) ++ [.strike c]) ∧
  (∀ (g : PrintGrant) (p : Printer) (r : Rec),
    let tag : Chr := match r.origin with
      | .keyboard => 75
      | .console => 67
      | .lineA => 65
      | .lineB => 66
    let number : List Chr := [r.number / 1000 % 10, r.number / 100 % 10, r.number / 10 % 10, r.number % 10].map
      fun d => BitVec.ofNat 7 (48 + d)
    let sender : List Chr := match r.sender with
      | some cs => 32 :: cs.filter fun c => !decide (c.toNat ∈ [5, 7, 10, 12, 13])
      | none => []
    let header : List Chr := [tag, 32] ++ number
      ++ (if r.urgent then [32, 85, 82, 71, 69, 78, 84] else []) ++ sender
      ++ (if r.flags.printResume then [32, 67, 79, 78, 84] else [])
    let truncated : List Script := if r.flags.truncated then
      .crLfIfCount :: ([42, 84, 82, 85, 78, 67, 65, 84, 69, 68, 42] : List Chr).map .chr else []
    let errored : List Script := if r.flags.errored then
      .crLfIfCount :: ([42, 69, 82, 82, 79, 82, 69, 68, 42] : List Chr).map .chr else []
    g.items p r = match g.script with
      | some xs => xs
      | none => match g.phase with
        | .lead | .yielding => [.crLfIfCount]
        | .header => if p.cfg.headers then header.map .chr ++ [.cr, .lineFeed] else []
        | .trailer => if p.cfg.headers then truncated ++ errored ++ [.cr, .lineFeed, .lineFeed] else []
        | .text => []) ∧
  (∀ (g : PrintGrant) (r : Rec) (s : State), s.record g.index = some r →
    grantOps s g = if g.ops ≠ [] then g.ops
      else if g.phase = .text then
        (if r.cursor.print < r.length then charOps s.prc (readChar s r r.cursor.print) else [])
      else match (g.items s.prc r).head? with
        | some (.chr c) => charOps s.prc c
        | some .cr => [.cr]
        | some .lineFeed => feed s.prc
        | some .crLfIfCount => if 0 < s.prc.count then .cr :: feed s.prc else []
        | none => []) ∧
  ∀ s : State,
    let p := s.prc
    let out (o : PrintOp) (g : Option PrintGrant) : State := { s with prc := { p with
      op := some (o, if o = .cr then p.cfg.crTimeoutMs else p.cfg.opTimeoutMs)
      pop := (match o with
        | .strike _ => 1
        | .space => 2
        | .cr => 3
        | .lf _ => 4
        | .bell => 5)
      pdata := (match o with
        | .strike c => c
        | .space | .cr | .lf _ | .bell => 0)
      heat := (match o with
        | .strike _ => min (p.heat + p.cfg.strikeHeat) 1023
        | .space | .cr | .lf _ | .bell => p.heat)
      grant := g } }
    let moved (o : PrintOp) : Printer := match o with
      | .strike _ | .space => { p with op := none, count := if p.count < p.cfg.lineLength then p.count + 1 else p.count }
      | .cr => { p with op := none, count := 0 }
      | .lf (some (n, crosses)) => { p with op := none, line := n, page := if crosses then bump p.page else p.page }
      | .lf none | .bell => { p with op := none }
    let laid (o : PrintOp) (t : State) : Prop := t.prc.op = none ∧ t.prc.count = (moved o).count ∧
      t.prc.line = (moved o).line ∧ t.prc.page = (moved o).page
    let other (i : Nat) : Prop := ∃ j q, j ≠ i ∧ Candidate s .print j q
    let yielded (i : Nat) (t : State) : Prop := t.prc.grant = none ∧ t.prc.yieldTimer = none ∧ t.prc.starved = false ∧
      (other i → t.prc.passOver = some i) ∧ (¬ other i → t.prc.passOver = none)
    (p.op ≠ none → exec .printOperationIssue s = .next s) ∧
    (¬ PrinterReady s →
      let heats := p.op = none ∧ p.owedCr = false ∧ p.cfg.hHi ≤ p.heat ∧
        ∃ g c os, p.grant = some g ∧ grantOps s g = .strike c :: os
      (heats → exec .printOperationIssue s = .next { s with prc := { p with heatHold := true } }) ∧
      (¬ heats → exec .printOperationIssue s = .next s)) ∧
    (PrinterReady s → p.owedCr = true → ∃ t, exec .printOperationIssue s = .next t ∧
      settles (out .cr p.grant) t) ∧
    (PrinterReady s → p.owedCr = false → (∀ g, p.grant = some g → grantOps s g = []) →
      exec .printOperationIssue s = .next s) ∧
    (∀ g r o os, PrinterReady s → p.owedCr = false → p.grant = some g → s.record g.index = some r →
      grantOps s g = o :: os →
      let hot := (∃ c, o = .strike c) ∧ (p.heatHold = true ∨ p.cfg.hHi ≤ p.heat)
      (hot → exec .printOperationIssue s = .next { s with prc := { p with heatHold := true } }) ∧
      (¬ hot → ∃ t, exec .printOperationIssue s = .next t ∧ settles (out o (some { g with
        ops := os, script := if g.phase = .text then g.script else some (g.items p r) })) t)) ∧
    (p.op = none → p.abandoned = none → exec .prdy s = .next s) ∧
    (p.op = none → p.abandoned ≠ none → ∃ t, exec .prdy s = .next t ∧
      settles { s with prc := { p with abandoned := none } } t) ∧
    (∀ o n, p.op = some (o, n) →
      (p.owedCr = true → ∃ t, exec .prdy s = .next t ∧
        settles { s with prc := { moved o with owedCr := false } } t) ∧
      (p.owedCr = false → p.grant = none ∨ (∃ g, p.grant = some g ∧ g.ops ≠ []) → ∃ t, exec .prdy s = .next t ∧
        settles { s with prc := moved o } t) ∧
      (∀ g r, p.owedCr = false → p.grant = some g → s.record g.index = some r →
        (g.ops = [] → r.stops.print = false →
          (g.phase = .text → ∃ t, exec .prdy s = .next t ∧
            settles ({ s with prc := moved o }.setRecord g.index
              (some { r with cursor := { r.cursor with print := r.cursor.print + 1 } })) t ∧
            (PunchStill s → r.cursor.print + 1 = r.length → r.state ≠ .opened → p.cfg.headers = true →
              ∃ h, t.prc.grant = some h ∧ h.index = g.index ∧ h.phase = .trailer ∧ h.ops = []) ∧
            ∀ m, PunchStill s → r.cursor.print + 1 ≤ m → m ≤ r.length → r.length ≤ 8192 →
              (∀ k, r.cursor.print + 1 ≤ k → k < m → charOps (moved o) (readChar s r k) = []) →
              (m < r.length ∧ charOps (moved o) (readChar s r m) ≠ []) ∨
                (m = r.length ∧ r.state = .opened ∧ p.starved = false) →
              t.prc.grant = some g ∧ t.record g.index = some { r with cursor := { r.cursor with print := m } } ∧
              (m = r.length → p.yieldTimer = none →
                t.prc.yieldTimer = some (0, 1000 * p.cfg.yieldS) ∧ t.prc.starved = false)) ∧
          (∀ x xs, g.phase ≠ .text → g.script = some (x :: xs) → ∃ t, exec .prdy s = .next t ∧
            settles (if g.phase = .header ∧ xs = [] then
                { s with prc := { moved o with grant := some { g with script := some xs } } }.setRecord g.index
                  (some { r with flags := { r.flags with printResume := false } })
              else { s with prc := { moved o with grant := some { g with script := some xs } } }) t ∧
            (PunchStill s → xs = [] → g.phase = .lead → p.cfg.headers = true →
              t.prc.grant = some { g with phase := .header, script := none }) ∧
            (PunchStill s → xs = [] → (g.phase = .header ∨ (g.phase = .lead ∧ p.cfg.headers = false)) →
              (r.cursor.print = r.length ∧ r.state = .opened) ∨
                (r.cursor.print < r.length ∧ charOps (moved o) (readChar s r r.cursor.print) ≠ []) →
              t.prc.grant = some { g with phase := .text, script := none } ∧
                (r.cursor.print = r.length → t.prc.yieldTimer = some (0, 1000 * p.cfg.yieldS) ∧ t.prc.starved = false)) ∧
            (PunchStill s → xs = [] → g.phase = .yielding → yielded g.index t ∧
              RecordLeft s t g.index (resumed r))) ∧
          ((∃ x, g.phase = .trailer ∧ g.script = some [x]) ∨
              (g.phase = .text ∧ r.cursor.print + 1 = r.length ∧ r.state ≠ .opened ∧ p.cfg.headers = false) →
            PunchStill s → ∃ t, exec .prdy s = .next t ∧ laid o t ∧ t.prc.grant = none ∧
              RecordLeft s t g.index { r with
                dests := { r.dests with out := { r.dests.out with print := false } }
                stamp := { r.stamp with print := none }, grants := { r.grants with print := false }
                stops := { r.stops with print := false }
                cursor := { r.cursor with print := if g.phase = .text then r.cursor.print + 1 else r.cursor.print } })) ∧
        (r.stops.print = true → PunchStill s → ∃ t, exec .prdy s = .next t ∧ laid o t ∧ t.prc.grant = none ∧
          RecordLeft s t g.index { r with
            grants := { r.grants with print := false }, stops := { r.stops with print := false }
            cursor := { r.cursor with
              print := if g.phase = .text ∧ g.ops = [] then r.cursor.print + 1 else r.cursor.print }
            flags := { r.flags with printResume := r.flags.printResume &&
              !(decide (g.phase = .header) && g.ops.isEmpty && decide (g.script.map List.tail = some [])) } })) ∧
      (n ≠ 0 → exec .printOperationTimeout s = .next s) ∧
      (n = 0 → p.grant = none → ∃ t, exec .printOperationTimeout s = .next t ∧ settles { s with
        prc := { p with fault := true, lastFault := some (o.kind, none), op := none }
        cpe := { s.cpe with latches := s.cpe.latches ||| BitVec.twoPow 17 12 } } t) ∧
      ∀ g r, n = 0 → p.grant = some g → s.record g.index = some r → r.state ≠ .cancelled →
        r.dests.out.print = true → ∃ t, exec .printOperationTimeout s = .next t ∧ settles ({ s with
          prc := { p with fault := true, lastFault := some (o.kind, some g.index), op := none, grant := none
                          yieldTimer := none, starved := false }
          cpe := { s.cpe with latches := s.cpe.latches ||| BitVec.twoPow 17 12 } }.setRecord g.index (some { r with
            grants := { r.grants with print := false }, stops := { r.stops with print := false }
            flags := { r.flags with printResume := true } })) t) ∧
    (p.op = none → exec .printOperationTimeout s = .next s) ∧
    (∀ g r, YieldRuns s → Ready s → p.grant = some g → g.index < 48 → s.record g.index = some r → r.origin = .console →
      (∃ t, exec (.msgClose (e1 g.index)) s = .next t ∧ t.prc.yieldTimer = none ∧ t.prc.starved = false) ∧
      ∀ c : Chr, ∃ t, exec (.msgAppend (e1 g.index ++ eText [c])) s = .next t ∧
        ∀ q, t.record g.index = some q → r.length < q.length → charOps p (readChar t q r.length) ≠ [] →
          t.prc.yieldTimer = none ∧ t.prc.starved = false) ∧
    (p.yieldTimer = none → exec .yieldExpiry s = .next s) ∧
    ∀ n m, p.yieldTimer = some (n, m) → (n < m → exec .yieldExpiry s = .next s) ∧
      (m ≤ n → ∃ t, exec .yieldExpiry s = .next t ∧ settles { s with prc := { p with starved := true } } t ∧
        ∀ g r, PunchStill s → p.grant = some g → g.phase = .text → g.ops = [] → p.op = none → p.owedCr = false →
          s.record g.index = some r → r.state = .opened → r.cursor.print = r.length → r.stops.print = false →
          (¬ other g.index → t.prc.grant = some g ∧ t.prc.starved = true ∧ t.prc.yieldTimer = some (n, m)) ∧
          (other g.index → 0 < p.count → t.prc.grant = some { g with phase := .yielding, script := none } ∧
            t.prc.yieldTimer = none ∧ t.prc.starved = false) ∧
          (other g.index → p.count = 0 → yielded g.index t ∧ RecordLeft s t g.index (resumed r)))

/-- SET_PUNCH, the punch's sensors and tape-low counter, its hold release, and an abandoned operation's end (R165,
R167, R168, R173, R175, R184). That a row taken when it is not due changes nothing is the model's choice, log entry
2: the spec has the part take these steps by itself. -/
def Obligations.PunchConfigurationAndSensors : Prop :=
  (∀ (c : PunchConfig) (s : State), Ready s → c.leader < 256 → c.trailer < 256 → c.eom.length ≤ 100 →
    c.retryLimit < 256 → c.timeoutMs < 65536 → c.tapeReserve < 65536 →
    let p := e1 c.leader ++ e1 c.trailer ++ eText c.eom ++ eBool c.verify ++ e1 c.retryLimit ++ e2 c.timeoutMs
      ++ e2 c.tapeReserve
    let good := c.leader ≤ 120 ∧ c.trailer ≤ 120 ∧ 2 ≤ c.eom.length ∧ c.eom.length ≤ 6 ∧
      (∀ x ∈ c.eom, x.toNat ∉ [0, 5, 10, 13]) ∧ 1 ≤ c.retryLimit ∧ c.retryLimit ≤ 4 ∧ 50 ≤ c.timeoutMs ∧
      c.timeoutMs ≤ 1000 ∧ c.tapeReserve ≤ 10000
    exec (.setPunch p) s = .next (if good then (if s.puc.grant = none
        then answered p.length .ok [] { s with puc := { s.puc with cfg := c } } else refused p.length .wrongState s)
      else refused p.length .badArgument s)) ∧
  ∀ s : State,
    let x := s.puc
    (x.tapLow.count < 20 → exec (.punchSensorQualified .tapLow) s = .next s) ∧
    (20 ≤ x.tapLow.count → ∃ t, exec (.punchSensorQualified .tapLow) s = .next t ∧
      Settled noLine (if x.tapLow.level then
          { s with puc := { x with tapLow := ⟨x.tapLow.pin, false, 0⟩, tape := none, tapeHold := false } }
        else { s with
          puc := { x with tapLow := ⟨x.tapLow.pin, true, 0⟩, tape := some x.cfg.tapeReserve
                          tapeHold := x.tapeHold || decide (x.cfg.tapeReserve = 0) }
          cpe := { s.cpe with latches := s.cpe.latches ||| BitVec.twoPow 17 13 } }) t) ∧
    (∀ y ∈ ([(.tapOut, x.tapOut, x.chad), (.chad, x.chad, x.tapOut)] : List (PunchSensor × Sensor × Sensor)),
      (y.2.1.count < 20 → exec (.punchSensorQualified y.1) s = .next s) ∧
      (20 ≤ y.2.1.count → ∃ u t, exec (.punchSensorQualified y.1) s = .next t ∧ Settled noLine u t ∧
        let z : Sensor := ⟨y.2.1.pin, !y.2.1.level, 0⟩
        let p := { x with tapOut := if y.1 = .tapOut then z else x.tapOut
                          chad := if y.1 = .chad then z else x.chad }
        u = { s with
          puc := if y.2.1.level then
              (if x.hold = true ∧ y.2.2.level = false then { p with release := some 500 } else p)
            else { p with hold := true, release := none }
          cpe := { s.cpe with latches := if y.2.1.level || x.hold then s.cpe.latches
            else s.cpe.latches ||| BitVec.twoPow 17 13 } })) ∧
    (x.release ≠ some 0 → exec .punchHoldRelease s = .next s) ∧
    (x.release = some 0 → ∃ t, exec .punchHoldRelease s = .next t ∧
      Settled noLine { s with puc := { x with hold := false, release := none } } t) ∧
    ∀ ready : Bool,
      (x.abandoned = none ∨ (ready = false ∧ x.abandoned ≠ some 0) → exec (.punchAbandonEnd ready) s = .next s) ∧
      (x.abandoned ≠ none → ready = true ∨ x.abandoned = some 0 → ∃ t, exec (.punchAbandonEnd ready) s = .next t ∧
        Settled noLine { s with puc := { x with abandoned := none } } t)

/-- The punch chooses a record, issues, verifies and repairs its frames phase by phase, stops, delivers, counts tape
and faults as its rules say (R12, R62, R63, R164, R165, R166, R168, R169, R170, R171, R172, R175). Where a grant
ends or passes to a phase, the printer has no grant or an operation in flight. That a row not due changes nothing
is log entry 2, and that a repair stopped in READY goes on is log entry 20: the model's choices. -/
def Obligations.PunchPunchesItsQueue : Prop :=
  let settles (u t : State) : Prop := Settled noLine u t ∧ SectionKept u t
  (∀ s : State,
    (s.puc.grant ≠ none ∨ s.puc.fault = true ∨ s.running = false ∨ (∀ i r, ¬ Candidate s .punch i r) →
      exec .punchGrant s = .next s) ∧
    ∀ i r, s.puc.grant = none → s.puc.fault = false → s.running = true →
      Chosen (Candidate s .punch) .punch s.puc.lastServed i r → ∃ t, exec .punchGrant s = .next t ∧
        settles ({ s with
          ctr := { s.ctr with tape := .unknown }
          puc := { s.puc with lastServed := r.origin
                              grant := some ⟨i, if r.flags.punchSpoiled then .erase else .leader, 0, [], none, none⟩ } }
            |>.setRecord i (some { r with grants := { r.grants with punch := true } })) t) ∧
  (∀ s : State,
    let x := s.puc
    let issues (g : PunchGrant) (o : PunchOp) (f : Option PunchFrame) (tape : ShiftRecord) : Prop :=
      ∃ u t, exec .punchOperationIssue s = .next t ∧ settles u t ∧
        u = { s with
          ctr := { s.ctr with tape := tape }
          puc := { x with op := some (o, x.cfg.timeoutMs), udata := u.puc.udata
                          uop := (match o with
                            | .punch _ => 1
                            | .feed => 2
                            | .backspace => 3)
                          grant := some { g with frame := f } } } ∧
        ∀ c, o = .punch c → u.puc.udata = c
    (¬ PunchReady s ∨ x.grant = none → exec .punchOperationIssue s = .next s) ∧
    (∀ g, x.grant = some g → (g.frame = none ∧ ¬ SectionNext s g) ∨ (∃ f, g.frame = some f ∧ f.steps = []) →
      exec .punchOperationIssue s = .next s) ∧
    ∀ g, PunchReady s → x.grant = some g →
      (∀ f k more, g.frame = some f → f.steps = k :: more → issues g (match k with
        | .back => .backspace
        | .erase => .punch 31
        | .figs => .punch 27
        | .again => .punch f.comb) (some f) s.ctr.tape) ∧
      (g.frame = none →
        (∀ b, g.owed = some b → issues g (.punch b) (some ⟨.char, b, 0, []⟩) s.ctr.tape) ∧
        (g.owed = none →
          (g.phase = .erase → g.done < 5 → issues g (.punch 31) (some ⟨.erase, 31, 0, []⟩) s.ctr.tape) ∧
          (g.phase = .leader → g.done < x.cfg.leader → issues g .feed none s.ctr.tape) ∧
          (g.phase = .openShift → g.done = 0 →
            issues g (.punch 31) (some ⟨.openShift, 31, 0, []⟩) (.held .letters)) ∧
          (g.phase = .trailer → g.done < x.cfg.trailer → issues g .feed none s.ctr.tape) ∧
          ∀ c y, ((g.phase = .text ∧ ∃ r, s.record g.index = some r ∧ r.cursor.punch < r.length ∧
              readChar s r r.cursor.punch = c) ∨ (g.phase = .close ∧ g.closing.head? = some c)) →
            translateChr s.ctr.table c = some y →
            (y.need = none ∨ (∃ sh, y.need = some sh ∧ s.ctr.tape = .held sh) →
              issues g (.punch y.comb) (some ⟨.char, y.comb, 0, []⟩) s.ctr.tape) ∧
            ∀ sh, y.need = some sh → s.ctr.tape ≠ .held sh →
              let b : Comb := match sh with
                | .letters => 31
                | .figures => 27
              issues g (.punch b) (some ⟨.shift sh y.comb, b, 0, []⟩) (.held sh)))) ∧
  ∀ (sensed : Comb) (s : State),
    let x := s.puc
    (x.op = none → exec .punchOperationTimeout s = .next s ∧
      (x.abandoned = none → exec (.urdy sensed) s = .next s) ∧
      (x.abandoned ≠ none → ∃ t, exec (.urdy sensed) s = .next t ∧
        Settled noLine { s with puc := { x with abandoned := none } } t)) ∧
    ∀ o n, x.op = some (o, n) →
      let counts := o ≠ .backspace ∧ x.tape ≠ none ∧ x.tape ≠ some 0
      let lastOne := counts ∧ x.tape = some 1
      let p := { x with op := none, tape := if counts then x.tape.map (· - 1) else x.tape
                        tapeHold := if lastOne then true else x.tapeHold }
      let done (g : Option PunchGrant) (tape : ShiftRecord) : State := { s with
        puc := { p with grant := g }
        ctr := { s.ctr with tape := tape }
        cpe := { s.cpe with latches := if lastOne then s.cpe.latches ||| BitVec.twoPow 17 13 else s.cpe.latches } }
      let urdyTo (u : State) : Prop := ∃ t, exec (.urdy sensed) s = .next t ∧ settles u t
      let faulted (c : PunchCause) (g : PunchGrant) (t : State) : Prop := t.puc.fault = true ∧
        t.puc.lastFault = some (c, some g.index) ∧ t.puc.op = none ∧ t.puc.grant = none ∧ Latched t .punchAttn ∧
        ∀ r, s.record g.index = some r → r.dests.out.punch = true → r.state ≠ .cancelled →
          (∀ h, s.prc.grant = some h → h.index ≠ g.index) →
          t.record g.index = some { r with
            grants := { r.grants with punch := false }, stops := { r.stops with punch := false }
            cursor := { r.cursor with punch := 0 }, flags := { r.flags with punchSpoiled := true } }
      let passes (c : Comb) : Prop := x.cfg.verify = false ∨ sensed = c
      (n ≠ 0 → exec .punchOperationTimeout s = .next s) ∧
      (∀ g, n = 0 → x.grant = some g → ∃ t, exec .punchOperationTimeout s = .next t ∧
        faulted (.timeout o.kind) g t) ∧
      (n = 0 → x.grant = none → ∃ t, exec .punchOperationTimeout s = .next t ∧ Settled noLine { s with
        puc := { x with fault := true, lastFault := some (.timeout o.kind, none), op := none }
        cpe := { s.cpe with latches := s.cpe.latches ||| BitVec.twoPow 17 13 } } t) ∧
      (x.grant = none → urdyTo (done none s.ctr.tape)) ∧
      ∀ g, x.grant = some g →
        (g.frame = none → urdyTo (done (some { g with done := g.done + 1 }) s.ctr.tape)) ∧
        ∀ f, g.frame = some f →
          (∀ more, f.steps = .back :: more → urdyTo (done (some { g with frame := some { f with steps := more } })
            s.ctr.tape)) ∧
          (∀ k c more, (k = .erase ∧ c = 31) ∨ (k = .figs ∧ c = 27) → f.steps = k :: more →
            (passes c → urdyTo (done (some { g with frame := some { f with steps := more } }) s.ctr.tape)) ∧
            (¬ passes c → ∃ t, exec (.urdy sensed) s = .next t ∧ faulted .repair g t)) ∧
          ((f.steps = [] ∨ ∃ more, f.steps = .again :: more) →
            (passes f.comb →
              (∀ r, f.kind = .char → g.phase = .text → s.record g.index = some r → r.stops.punch = false →
                urdyTo ((done (some { g with frame := none, owed := none })
                    (if f.retry = 0 then s.ctr.tape else .unknown)).setRecord g.index
                  (some { r with cursor := { r.cursor with punch := r.cursor.punch + 1 } }))) ∧
              (f.kind = .char → g.phase = .close → urdyTo (done
                (some { g with frame := none, owed := none, closing := g.closing.tail })
                (if f.retry = 0 then s.ctr.tape else .unknown))) ∧
              (f.kind = .erase → g.done ≠ 4 → urdyTo (done (some { g with frame := none, done := g.done + 1 })
                (if f.retry = 0 then s.ctr.tape else .unknown))) ∧
              (∀ r, f.kind = .erase → g.done = 4 → s.record g.index = some r →
                urdyTo ((done (some { g with frame := none, done := 5 })
                    (if f.retry = 0 then s.ctr.tape else .unknown)).setRecord g.index
                  (some { r with flags := { r.flags with punchSpoiled := false } }))) ∧
              (∀ sh b, f.kind = .shift sh b → urdyTo (done (some { g with frame := none, owed := some b })
                (if f.retry = 0 then s.ctr.tape else .held sh))) ∧
              (f.kind = .openShift → urdyTo (done (some { g with frame := none, done := 1 })
                (if f.retry = 0 then s.ctr.tape else .held .letters)))) ∧
            (¬ passes f.comb →
              (f.kind = .erase → ∃ t, exec (.urdy sensed) s = .next t ∧ faulted .repair g t) ∧
              (f.kind ≠ .erase → x.cfg.retryLimit ≤ f.retry → ∃ t, exec (.urdy sensed) s = .next t ∧
                faulted .retryLimit g t) ∧
              (f.kind ≠ .erase → f.retry < x.cfg.retryLimit →
                let u := done (some { g with frame := some { f with
                  retry := f.retry + 1
                  steps := if s.ctr.tape = .held .figures then [.back, .erase, .figs, .again]
                    else [.back, .erase, .again] } }) s.ctr.tape
                urdyTo { u with puc := { u.puc with repairs := bump x.repairs } })) ∧
        ∀ r, s.record g.index = some r → PrinterStill s →
          let left (t : State) (q : Rec) : Prop := t.puc.grant = none ∧ t.puc.op = none ∧ RecordLeft s t g.index q
          let own (f : PunchFrame) : Prop := f.steps = [] ∨ ∃ more, f.steps = .again :: more
          let ready : Prop := x.fault = false ∧ x.abandoned = none ∧ x.hold = false ∧ p.tapeHold = false ∧
            s.mtc.punch.state = .running
          let stopped (q : Rec) : Rec := { q with
            grants := { q.grants with punch := false }, stops := { q.stops with punch := false } }
          (r.stops.punch = false →
            (g.frame = none ∧ g.owed = none ∧ g.phase = .trailer ∧ x.cfg.trailer ≤ g.done + 1) ∨
              (∃ f c, g.frame = some f ∧ own f ∧ passes f.comb ∧ f.kind = .char ∧ g.phase = .close ∧ g.closing = [c] ∧
                x.cfg.trailer = 0) →
            ∃ t, exec (.urdy sensed) s = .next t ∧ left t (stopped { r with
              dests := { r.dests with out := { r.dests.out with punch := false } }
              stamp := { r.stamp with punch := none } })) ∧
          (∀ f m, r.stops.punch = false → g.frame = some f → own f → passes f.comb → f.kind = .char → g.phase = .text →
            r.cursor.punch + 1 ≤ m → m ≤ r.length → r.length ≤ 8192 →
            (∀ k, r.cursor.punch + 1 ≤ k → k < m → translateChr s.ctr.table (readChar s r k) = none) →
            (m < r.length ∧ translateChr s.ctr.table (readChar s r m) ≠ none) ∨ (m = r.length ∧ r.state = .opened) →
            ∃ t, exec (.urdy sensed) s = .next t ∧ t.puc.grant = some { g with frame := none, owed := none } ∧
              t.puc.untranslatable = bump^[m - (r.cursor.punch + 1)] x.untranslatable ∧
              t.record g.index = some { r with cursor := { r.cursor with punch := m } }) ∧
          (r.stops.punch = true → g.frame = none ∨ (∃ f, g.frame = some f ∧ own f ∧ passes f.comb) →
            ∃ t, exec (.urdy sensed) s = .next t ∧ left t (stopped { r with
              cursor := { r.cursor with punch := if g.frame.map (·.kind) = some .char ∧ g.phase = .text
                then r.cursor.punch + 1 else r.cursor.punch }
              flags := { r.flags with punchSpoiled := r.flags.punchSpoiled &&
                !(decide (g.frame.map (·.kind) = some .erase ∧ g.done = 4)) } })) ∧
          (∀ f, r.stops.punch = true → g.frame = some f → (∃ more, f.steps = .back :: more) ∨
              (∃ k c more, ((k = .erase ∧ c = 31) ∨ (k = .figs ∧ c = 27)) ∧ f.steps = k :: more ∧ passes c) ∨
              (own f ∧ ¬ passes f.comb ∧ f.kind ≠ .erase ∧ f.retry < x.cfg.retryLimit) →
            ∃ t, exec (.urdy sensed) s = .next t ∧
              (ready → ∃ h, t.puc.grant = some h ∧ h.frame ≠ none ∧ h.phase = g.phase ∧ h.index = g.index) ∧
              (¬ ready → left t (stopped r))))

/-- SET_MOTORS, MOTOR_HOLD, MECH_RESUME, the qualified speed, the start limit and the idle times act on a motor (R147,
R148, R165, R166, R176, R177, R178, R179, R180, R182, log entry 12, log entry 53). That a mechanism asks for its
motor also while its last operation is in flight is the model's reading of log entry 12; that an idle time is
judged by the thresholds of the last tick is entry 53; that a row taken when it is not due changes nothing is entry
2. -/
def Obligations.MotorsFollowTheirCommandsAndTimers : Prop :=
  (∀ s : State, printDemand s = true ↔ s.prc.fault = false ∧ s.prc.hold = false ∧
    (s.prc.op ≠ none ∨ s.prc.owedCr = true ∨ ∃ g, s.prc.grant = some g ∧ grantOps s g ≠ [])) ∧
  (∀ s : State, punchDemand s = true ↔ s.puc.fault = false ∧ s.puc.hold = false ∧ s.puc.tapeHold = false ∧
    (s.puc.op ≠ none ∨ ∃ g, s.puc.grant = some g ∧
      ((∃ f, g.frame = some f ∧ f.steps ≠ []) ∨ (g.frame = none ∧ SectionNext s g)))) ∧
  (∀ (b : Byte) (start low stop : Nat) (s : State), Ready s → start < 65536 → low < 65536 → stop < 65536 →
    let legal := b.toNat ≤ 1 ∧ 200 ≤ start ∧ start ≤ 5000 ∧ 1 ≤ low ∧ low ≤ 600 ∧ stop ≤ 3600 ∧ low ≤ stop
    let run := exec (.setMotors ([b] ++ e2 start ++ e2 low ++ e2 stop)) s
    (¬ legal → run = .next (refused 7 .badArgument s)) ∧
    (legal → ∀ k, b.toNat = mechCode k → run = .next (answered 7 .ok [] { s with mtc := s.mtc.set k { s.mtc.get k with
      startLimitMs := start, idleLowS := low, idleStopS := stop } }))) ∧
  (∀ (b v : Byte) (s : State), Ready s →
    (2 ≤ b.toNat ∨ 2 ≤ v.toNat → exec (.motorHold [b, v]) s = .next (refused 2 .badArgument s)) ∧
    (2 ≤ b.toNat → exec (.mechResume [b]) s = .next (refused 1 .badArgument s))) ∧
  (∀ (k : Mech) (v : Bool) (s : State), Ready s → ∃ t,
    exec (.motorHold (e1 (mechCode k) ++ eBool v)) s = .next t ∧
      Settled noLine (answered 2 .ok [] { s with mtc := s.mtc.set k { s.mtc.get k with hold := v } }) t) ∧
  (∀ (k : Mech) (s : State), Ready s →
    let broken := match k with
      | .print => s.prc.fault
      | .punch => s.puc.fault
    let m := s.mtc.get k
    (broken = false → m.state ≠ .fault → exec (.mechResume (e1 (mechCode k))) s = .next (refused 1 .wrongState s)) ∧
    (broken = true ∨ m.state = .fault → ∃ t, exec (.mechResume (e1 (mechCode k))) s = .next t ∧
      Settled noLine (answered 1 .ok [] { s with
        prc := if k = .print ∧ broken = true then { s.prc with fault := false, owedCr := true } else s.prc
        puc := if k = .punch ∧ broken = true then { s.puc with fault := false } else s.puc
        mtc := s.mtc.set k { m with state := if m.state = .fault then .stopped else m.state } }) t)) ∧
  ∀ (k : Mech) (s : State),
    let m := s.mtc.get k
    let put (n : Motor) : State := { s with mtc := s.mtc.set k n }
    let failed (n : Motor) (c : MotorCause) : State := { put { n with
        state := .fault, start := none, idle := none, lastFault := c, faults := bump n.faults } with
      cpe := { s.cpe with latches := s.cpe.latches ||| BitVec.twoPow 17 14 } }
    let does (i : Instr) (u : State) : Prop := ∃ t, exec i s = .next t ∧ Settled noLine u t
    let past (seconds : Nat) : Prop := ∃ n, m.idle = some n ∧ 1000 * seconds ≤ n
    let flipped : Motor := { m with speed := ⟨m.speed.pin, !m.speed.level, 0⟩ }
    (m.speed.count < 5 → exec (.speedQualified k) s = .next s) ∧
    (5 ≤ m.speed.count →
      (m.state = .starting → m.speed.level = false →
        does (.speedQualified k) (put { flipped with state := .running, start := none })) ∧
      (m.state = .running → m.speed.level = true → does (.speedQualified k) (failed flipped .speedLost)) ∧
      (¬ (m.state = .starting ∧ m.speed.level = false) → ¬ (m.state = .running ∧ m.speed.level = true) →
        exec (.speedQualified k) s = .next (put flipped))) ∧
    (¬ (m.state = .starting ∧ m.start = some 0) → exec (.startLimitExpiry k) s = .next s) ∧
    (m.state = .starting → m.start = some 0 → does (.startLimitExpiry k) (failed m .startLimit)) ∧
    (¬ (m.state = .running ∧ past m.lowS) → exec (.idleLowExpiry k) s = .next s) ∧
    (m.state = .running → past m.lowS →
      (¬ past m.stopS → does (.idleLowExpiry k) (put { m with state := .low })) ∧
      (past m.stopS → does (.idleLowExpiry k) (put { m with state := .stopped, idle := none }))) ∧
    (¬ ((m.state = .low ∨ m.state = .running) ∧ past m.stopS) → exec (.idleStopExpiry k) s = .next s) ∧
    (m.state = .low ∨ m.state = .running → past m.stopS →
      does (.idleStopExpiry k) (put { m with state := .stopped, idle := none }))

/-- Every step keeps every block in exactly one place, every chain at its record's length, and the cells canonical
(R51, R52, R56, R58, R64, R72, R73). -/
def Obligations.StoreStaysSound : Prop :=
  ∀ s t : State, BlocksConserved s → ChainsFit s → CellsCanonical s → step s = .next t →
    BlocksConserved t ∧ ChainsFit t ∧ CellsCanonical t

/-- Every step keeps receivers in the mode of their supervisor's state, the code table sound, and bounded figures
bounded (R1, R2, R18, R39, R49, R50, R118, R136, R154, R157, R158). -/
def Obligations.ModesTableAndBoundsStay : Prop :=
  ∀ s t : State, ModesFollow s → TableSound s.ctr.table → Bounded s → step s = .next t →
    ModesFollow t ∧ TableSound t.ctr.table ∧ Bounded t

/-- Right after reset, with every strap setting, every property that the steps keep holds (R1, R39, R50, R51, R58,
R118, R144, R161). -/
def Obligations.InvariantsHoldAfterPowerOn : Prop :=
  State.reset = State.powerOn 0 ∧
  ∀ straps : BitVec 5, BlocksConserved (State.powerOn straps) ∧ ChainsFit (State.powerOn straps) ∧
    CellsCanonical (State.powerOn straps) ∧ ModesFollow (State.powerOn straps) ∧ TableSound (State.powerOn straps).ctr.table ∧ Bounded (State.powerOn straps)
end

