-- ==== Sys2Proof/Laws/State.lean ====
section
/-! SUPPORT. One lemma per field of the state and per update of it, so that no proof unfolds a record update. -/

namespace Sys2Proof

theorem Pair.get_set_same {α : Type} (p : Pair α) (l : LineId) (x : α) : (p.set l x).get l = x := by cases l <;> rfl
theorem Pair.get_set_ne {α : Type} (p : Pair α) {l k : LineId} (x : α) (h : k ≠ l) : (p.set l x).get k = p.get k := by
  cases l <;> cases k <;> first | rfl | exact absurd rfl h
theorem Pair.ext_get {α : Type} {p q : Pair α} (h : ∀ l, p.get l = q.get l) : p = q := by
  cases p; cases q; have a := h .A; have b := h .B; simp only [Pair.get] at a b; rw [a, b]
theorem Pair.set_get {α : Type} (p : Pair α) (l : LineId) : p.set l (p.get l) = p := by cases l <;> rfl

end Sys2Proof

namespace Sys2Proof.Machine

open Sys2Proof

theorem Motors.get_set_same (m : Motors) (k : Mech) (x : Motor) : (m.set k x).get k = x := by cases k <;> rfl
theorem Motors.get_set_ne (m : Motors) {k j : Mech} (x : Motor) (h : j ≠ k) : (m.set k x).get j = m.get j := by
  cases k <;> cases j <;> first | rfl | exact absurd rfl h

@[simp] theorem State.setUnit_tbu (s : State) (l : LineId) (u : LineUnit) : (s.setUnit l u).tbu = s.tbu := rfl
@[simp] theorem State.setUnit_ctr (s : State) (l : LineId) (u : LineUnit) : (s.setUnit l u).ctr = s.ctr := rfl
@[simp] theorem State.setUnit_identity (s : State) (l : LineId) (u : LineUnit) : (s.setUnit l u).identity = s.identity := rfl
@[simp] theorem State.setUnit_xcfg (s : State) (l : LineId) (u : LineUnit) : (s.setUnit l u).xcfg = s.xcfg := rfl
@[simp] theorem State.setUnit_sup (s : State) (l : LineId) (u : LineUnit) : (s.setUnit l u).sup = s.sup := rfl
@[simp] theorem State.setUnit_stm (s : State) (l : LineId) (u : LineUnit) : (s.setUnit l u).stm = s.stm := rfl
@[simp] theorem State.setUnit_fqm (s : State) (l : LineId) (u : LineUnit) : (s.setUnit l u).fqm = s.fqm := rfl
@[simp] theorem State.setUnit_kbs (s : State) (l : LineId) (u : LineUnit) : (s.setUnit l u).kbs = s.kbs := rfl
@[simp] theorem State.setUnit_prc (s : State) (l : LineId) (u : LineUnit) : (s.setUnit l u).prc = s.prc := rfl
@[simp] theorem State.setUnit_puc (s : State) (l : LineId) (u : LineUnit) : (s.setUnit l u).puc = s.puc := rfl
@[simp] theorem State.setUnit_mtc (s : State) (l : LineId) (u : LineUnit) : (s.setUnit l u).mtc = s.mtc := rfl
@[simp] theorem State.setUnit_cpe (s : State) (l : LineId) (u : LineUnit) : (s.setUnit l u).cpe = s.cpe := rfl
@[simp] theorem State.setUnit_pending (s : State) (l : LineId) (u : LineUnit) : (s.setUnit l u).pending = s.pending := rfl

@[simp] theorem State.setCsv_tbu (s : State) (l : LineId) (c : Supervisor) : (s.setCsv l c).tbu = s.tbu := rfl
@[simp] theorem State.setCsv_ctr (s : State) (l : LineId) (c : Supervisor) : (s.setCsv l c).ctr = s.ctr := rfl
@[simp] theorem State.setCsv_lu (s : State) (l : LineId) (c : Supervisor) : (s.setCsv l c).lu = s.lu := rfl
@[simp] theorem State.setCsv_identity (s : State) (l : LineId) (c : Supervisor) : (s.setCsv l c).identity = s.identity := rfl
@[simp] theorem State.setCsv_xcfg (s : State) (l : LineId) (c : Supervisor) : (s.setCsv l c).xcfg = s.xcfg := rfl
@[simp] theorem State.setCsv_stm (s : State) (l : LineId) (c : Supervisor) : (s.setCsv l c).stm = s.stm := rfl
@[simp] theorem State.setCsv_fqm (s : State) (l : LineId) (c : Supervisor) : (s.setCsv l c).fqm = s.fqm := rfl
@[simp] theorem State.setCsv_kbs (s : State) (l : LineId) (c : Supervisor) : (s.setCsv l c).kbs = s.kbs := rfl
@[simp] theorem State.setCsv_prc (s : State) (l : LineId) (c : Supervisor) : (s.setCsv l c).prc = s.prc := rfl
@[simp] theorem State.setCsv_puc (s : State) (l : LineId) (c : Supervisor) : (s.setCsv l c).puc = s.puc := rfl
@[simp] theorem State.setCsv_mtc (s : State) (l : LineId) (c : Supervisor) : (s.setCsv l c).mtc = s.mtc := rfl
@[simp] theorem State.setCsv_cpe (s : State) (l : LineId) (c : Supervisor) : (s.setCsv l c).cpe = s.cpe := rfl
@[simp] theorem State.setCsv_pending (s : State) (l : LineId) (c : Supervisor) : (s.setCsv l c).pending = s.pending := rfl

@[simp] theorem State.setSelector_tbu (s : State) (l : LineId) (x : Selector) : (s.setSelector l x).tbu = s.tbu := rfl
@[simp] theorem State.setSelector_ctr (s : State) (l : LineId) (x : Selector) : (s.setSelector l x).ctr = s.ctr := rfl
@[simp] theorem State.setSelector_lu (s : State) (l : LineId) (x : Selector) : (s.setSelector l x).lu = s.lu := rfl
@[simp] theorem State.setSelector_identity (s : State) (l : LineId) (x : Selector) : (s.setSelector l x).identity = s.identity := rfl
@[simp] theorem State.setSelector_xcfg (s : State) (l : LineId) (x : Selector) : (s.setSelector l x).xcfg = s.xcfg := rfl
@[simp] theorem State.setSelector_sup (s : State) (l : LineId) (x : Selector) : (s.setSelector l x).sup = s.sup := rfl
@[simp] theorem State.setSelector_stm (s : State) (l : LineId) (x : Selector) : (s.setSelector l x).stm = s.stm := rfl
@[simp] theorem State.setSelector_kbs (s : State) (l : LineId) (x : Selector) : (s.setSelector l x).kbs = s.kbs := rfl
@[simp] theorem State.setSelector_prc (s : State) (l : LineId) (x : Selector) : (s.setSelector l x).prc = s.prc := rfl
@[simp] theorem State.setSelector_puc (s : State) (l : LineId) (x : Selector) : (s.setSelector l x).puc = s.puc := rfl
@[simp] theorem State.setSelector_mtc (s : State) (l : LineId) (x : Selector) : (s.setSelector l x).mtc = s.mtc := rfl
@[simp] theorem State.setSelector_cpe (s : State) (l : LineId) (x : Selector) : (s.setSelector l x).cpe = s.cpe := rfl
@[simp] theorem State.setSelector_pending (s : State) (l : LineId) (x : Selector) : (s.setSelector l x).pending = s.pending := rfl

@[simp] theorem State.setFramer_tbu (s : State) (l : LineId) (x : Framer) : (s.setFramer l x).tbu = s.tbu := rfl
@[simp] theorem State.setFramer_ctr (s : State) (l : LineId) (x : Framer) : (s.setFramer l x).ctr = s.ctr := rfl
@[simp] theorem State.setFramer_lu (s : State) (l : LineId) (x : Framer) : (s.setFramer l x).lu = s.lu := rfl
@[simp] theorem State.setFramer_identity (s : State) (l : LineId) (x : Framer) : (s.setFramer l x).identity = s.identity := rfl
@[simp] theorem State.setFramer_xcfg (s : State) (l : LineId) (x : Framer) : (s.setFramer l x).xcfg = s.xcfg := rfl
@[simp] theorem State.setFramer_sup (s : State) (l : LineId) (x : Framer) : (s.setFramer l x).sup = s.sup := rfl
@[simp] theorem State.setFramer_stm (s : State) (l : LineId) (x : Framer) : (s.setFramer l x).stm = s.stm := rfl
@[simp] theorem State.setFramer_kbs (s : State) (l : LineId) (x : Framer) : (s.setFramer l x).kbs = s.kbs := rfl
@[simp] theorem State.setFramer_prc (s : State) (l : LineId) (x : Framer) : (s.setFramer l x).prc = s.prc := rfl
@[simp] theorem State.setFramer_puc (s : State) (l : LineId) (x : Framer) : (s.setFramer l x).puc = s.puc := rfl
@[simp] theorem State.setFramer_mtc (s : State) (l : LineId) (x : Framer) : (s.setFramer l x).mtc = s.mtc := rfl
@[simp] theorem State.setFramer_cpe (s : State) (l : LineId) (x : Framer) : (s.setFramer l x).cpe = s.cpe := rfl
@[simp] theorem State.setFramer_pending (s : State) (l : LineId) (x : Framer) : (s.setFramer l x).pending = s.pending := rfl

@[simp] theorem State.onUnit_tbu (s : State) (l : LineId) (f : LineUnit → LineUnit) : (s.onUnit l f).tbu = s.tbu := rfl
@[simp] theorem State.onUnit_ctr (s : State) (l : LineId) (f : LineUnit → LineUnit) : (s.onUnit l f).ctr = s.ctr := rfl
@[simp] theorem State.onUnit_identity (s : State) (l : LineId) (f : LineUnit → LineUnit) : (s.onUnit l f).identity = s.identity := rfl
@[simp] theorem State.onUnit_xcfg (s : State) (l : LineId) (f : LineUnit → LineUnit) : (s.onUnit l f).xcfg = s.xcfg := rfl
@[simp] theorem State.onUnit_sup (s : State) (l : LineId) (f : LineUnit → LineUnit) : (s.onUnit l f).sup = s.sup := rfl
@[simp] theorem State.onUnit_stm (s : State) (l : LineId) (f : LineUnit → LineUnit) : (s.onUnit l f).stm = s.stm := rfl
@[simp] theorem State.onUnit_fqm (s : State) (l : LineId) (f : LineUnit → LineUnit) : (s.onUnit l f).fqm = s.fqm := rfl
@[simp] theorem State.onUnit_kbs (s : State) (l : LineId) (f : LineUnit → LineUnit) : (s.onUnit l f).kbs = s.kbs := rfl
@[simp] theorem State.onUnit_prc (s : State) (l : LineId) (f : LineUnit → LineUnit) : (s.onUnit l f).prc = s.prc := rfl
@[simp] theorem State.onUnit_puc (s : State) (l : LineId) (f : LineUnit → LineUnit) : (s.onUnit l f).puc = s.puc := rfl
@[simp] theorem State.onUnit_mtc (s : State) (l : LineId) (f : LineUnit → LineUnit) : (s.onUnit l f).mtc = s.mtc := rfl
@[simp] theorem State.onUnit_cpe (s : State) (l : LineId) (f : LineUnit → LineUnit) : (s.onUnit l f).cpe = s.cpe := rfl
@[simp] theorem State.onUnit_pending (s : State) (l : LineId) (f : LineUnit → LineUnit) : (s.onUnit l f).pending = s.pending := rfl

@[simp] theorem State.onRx_tbu (s : State) (l : LineId) (f : Receiver → Receiver) : (s.onRx l f).tbu = s.tbu := rfl
@[simp] theorem State.onRx_ctr (s : State) (l : LineId) (f : Receiver → Receiver) : (s.onRx l f).ctr = s.ctr := rfl
@[simp] theorem State.onRx_identity (s : State) (l : LineId) (f : Receiver → Receiver) : (s.onRx l f).identity = s.identity := rfl
@[simp] theorem State.onRx_xcfg (s : State) (l : LineId) (f : Receiver → Receiver) : (s.onRx l f).xcfg = s.xcfg := rfl
@[simp] theorem State.onRx_sup (s : State) (l : LineId) (f : Receiver → Receiver) : (s.onRx l f).sup = s.sup := rfl
@[simp] theorem State.onRx_stm (s : State) (l : LineId) (f : Receiver → Receiver) : (s.onRx l f).stm = s.stm := rfl
@[simp] theorem State.onRx_fqm (s : State) (l : LineId) (f : Receiver → Receiver) : (s.onRx l f).fqm = s.fqm := rfl
@[simp] theorem State.onRx_kbs (s : State) (l : LineId) (f : Receiver → Receiver) : (s.onRx l f).kbs = s.kbs := rfl
@[simp] theorem State.onRx_prc (s : State) (l : LineId) (f : Receiver → Receiver) : (s.onRx l f).prc = s.prc := rfl
@[simp] theorem State.onRx_puc (s : State) (l : LineId) (f : Receiver → Receiver) : (s.onRx l f).puc = s.puc := rfl
@[simp] theorem State.onRx_mtc (s : State) (l : LineId) (f : Receiver → Receiver) : (s.onRx l f).mtc = s.mtc := rfl
@[simp] theorem State.onRx_cpe (s : State) (l : LineId) (f : Receiver → Receiver) : (s.onRx l f).cpe = s.cpe := rfl
@[simp] theorem State.onRx_pending (s : State) (l : LineId) (f : Receiver → Receiver) : (s.onRx l f).pending = s.pending := rfl

@[simp] theorem State.onTx_tbu (s : State) (l : LineId) (f : Transmitter → Transmitter) : (s.onTx l f).tbu = s.tbu := rfl
@[simp] theorem State.onTx_ctr (s : State) (l : LineId) (f : Transmitter → Transmitter) : (s.onTx l f).ctr = s.ctr := rfl
@[simp] theorem State.onTx_identity (s : State) (l : LineId) (f : Transmitter → Transmitter) : (s.onTx l f).identity = s.identity := rfl
@[simp] theorem State.onTx_xcfg (s : State) (l : LineId) (f : Transmitter → Transmitter) : (s.onTx l f).xcfg = s.xcfg := rfl
@[simp] theorem State.onTx_sup (s : State) (l : LineId) (f : Transmitter → Transmitter) : (s.onTx l f).sup = s.sup := rfl
@[simp] theorem State.onTx_stm (s : State) (l : LineId) (f : Transmitter → Transmitter) : (s.onTx l f).stm = s.stm := rfl
@[simp] theorem State.onTx_fqm (s : State) (l : LineId) (f : Transmitter → Transmitter) : (s.onTx l f).fqm = s.fqm := rfl
@[simp] theorem State.onTx_kbs (s : State) (l : LineId) (f : Transmitter → Transmitter) : (s.onTx l f).kbs = s.kbs := rfl
@[simp] theorem State.onTx_prc (s : State) (l : LineId) (f : Transmitter → Transmitter) : (s.onTx l f).prc = s.prc := rfl
@[simp] theorem State.onTx_puc (s : State) (l : LineId) (f : Transmitter → Transmitter) : (s.onTx l f).puc = s.puc := rfl
@[simp] theorem State.onTx_mtc (s : State) (l : LineId) (f : Transmitter → Transmitter) : (s.onTx l f).mtc = s.mtc := rfl
@[simp] theorem State.onTx_cpe (s : State) (l : LineId) (f : Transmitter → Transmitter) : (s.onTx l f).cpe = s.cpe := rfl
@[simp] theorem State.onTx_pending (s : State) (l : LineId) (f : Transmitter → Transmitter) : (s.onTx l f).pending = s.pending := rfl

@[simp] theorem State.onStats_tbu (s : State) (l : LineId) (f : LineStats → LineStats) : (s.onStats l f).tbu = s.tbu := rfl
@[simp] theorem State.onStats_ctr (s : State) (l : LineId) (f : LineStats → LineStats) : (s.onStats l f).ctr = s.ctr := rfl
@[simp] theorem State.onStats_identity (s : State) (l : LineId) (f : LineStats → LineStats) : (s.onStats l f).identity = s.identity := rfl
@[simp] theorem State.onStats_xcfg (s : State) (l : LineId) (f : LineStats → LineStats) : (s.onStats l f).xcfg = s.xcfg := rfl
@[simp] theorem State.onStats_sup (s : State) (l : LineId) (f : LineStats → LineStats) : (s.onStats l f).sup = s.sup := rfl
@[simp] theorem State.onStats_stm (s : State) (l : LineId) (f : LineStats → LineStats) : (s.onStats l f).stm = s.stm := rfl
@[simp] theorem State.onStats_fqm (s : State) (l : LineId) (f : LineStats → LineStats) : (s.onStats l f).fqm = s.fqm := rfl
@[simp] theorem State.onStats_kbs (s : State) (l : LineId) (f : LineStats → LineStats) : (s.onStats l f).kbs = s.kbs := rfl
@[simp] theorem State.onStats_prc (s : State) (l : LineId) (f : LineStats → LineStats) : (s.onStats l f).prc = s.prc := rfl
@[simp] theorem State.onStats_puc (s : State) (l : LineId) (f : LineStats → LineStats) : (s.onStats l f).puc = s.puc := rfl
@[simp] theorem State.onStats_mtc (s : State) (l : LineId) (f : LineStats → LineStats) : (s.onStats l f).mtc = s.mtc := rfl
@[simp] theorem State.onStats_cpe (s : State) (l : LineId) (f : LineStats → LineStats) : (s.onStats l f).cpe = s.cpe := rfl
@[simp] theorem State.onStats_pending (s : State) (l : LineId) (f : LineStats → LineStats) : (s.onStats l f).pending = s.pending := rfl

@[simp] theorem State.onCsv_tbu (s : State) (l : LineId) (f : Supervisor → Supervisor) : (s.onCsv l f).tbu = s.tbu := rfl
@[simp] theorem State.onCsv_ctr (s : State) (l : LineId) (f : Supervisor → Supervisor) : (s.onCsv l f).ctr = s.ctr := rfl
@[simp] theorem State.onCsv_lu (s : State) (l : LineId) (f : Supervisor → Supervisor) : (s.onCsv l f).lu = s.lu := rfl
@[simp] theorem State.onCsv_identity (s : State) (l : LineId) (f : Supervisor → Supervisor) : (s.onCsv l f).identity = s.identity := rfl
@[simp] theorem State.onCsv_xcfg (s : State) (l : LineId) (f : Supervisor → Supervisor) : (s.onCsv l f).xcfg = s.xcfg := rfl
@[simp] theorem State.onCsv_stm (s : State) (l : LineId) (f : Supervisor → Supervisor) : (s.onCsv l f).stm = s.stm := rfl
@[simp] theorem State.onCsv_fqm (s : State) (l : LineId) (f : Supervisor → Supervisor) : (s.onCsv l f).fqm = s.fqm := rfl
@[simp] theorem State.onCsv_kbs (s : State) (l : LineId) (f : Supervisor → Supervisor) : (s.onCsv l f).kbs = s.kbs := rfl
@[simp] theorem State.onCsv_prc (s : State) (l : LineId) (f : Supervisor → Supervisor) : (s.onCsv l f).prc = s.prc := rfl
@[simp] theorem State.onCsv_puc (s : State) (l : LineId) (f : Supervisor → Supervisor) : (s.onCsv l f).puc = s.puc := rfl
@[simp] theorem State.onCsv_mtc (s : State) (l : LineId) (f : Supervisor → Supervisor) : (s.onCsv l f).mtc = s.mtc := rfl
@[simp] theorem State.onCsv_cpe (s : State) (l : LineId) (f : Supervisor → Supervisor) : (s.onCsv l f).cpe = s.cpe := rfl
@[simp] theorem State.onCsv_pending (s : State) (l : LineId) (f : Supervisor → Supervisor) : (s.onCsv l f).pending = s.pending := rfl

@[simp] theorem State.onTimers_tbu (s : State) (l : LineId) (f : SupTimers → SupTimers) : (s.onTimers l f).tbu = s.tbu := rfl
@[simp] theorem State.onTimers_ctr (s : State) (l : LineId) (f : SupTimers → SupTimers) : (s.onTimers l f).ctr = s.ctr := rfl
@[simp] theorem State.onTimers_lu (s : State) (l : LineId) (f : SupTimers → SupTimers) : (s.onTimers l f).lu = s.lu := rfl
@[simp] theorem State.onTimers_identity (s : State) (l : LineId) (f : SupTimers → SupTimers) : (s.onTimers l f).identity = s.identity := rfl
@[simp] theorem State.onTimers_xcfg (s : State) (l : LineId) (f : SupTimers → SupTimers) : (s.onTimers l f).xcfg = s.xcfg := rfl
@[simp] theorem State.onTimers_stm (s : State) (l : LineId) (f : SupTimers → SupTimers) : (s.onTimers l f).stm = s.stm := rfl
@[simp] theorem State.onTimers_fqm (s : State) (l : LineId) (f : SupTimers → SupTimers) : (s.onTimers l f).fqm = s.fqm := rfl
@[simp] theorem State.onTimers_kbs (s : State) (l : LineId) (f : SupTimers → SupTimers) : (s.onTimers l f).kbs = s.kbs := rfl
@[simp] theorem State.onTimers_prc (s : State) (l : LineId) (f : SupTimers → SupTimers) : (s.onTimers l f).prc = s.prc := rfl
@[simp] theorem State.onTimers_puc (s : State) (l : LineId) (f : SupTimers → SupTimers) : (s.onTimers l f).puc = s.puc := rfl
@[simp] theorem State.onTimers_mtc (s : State) (l : LineId) (f : SupTimers → SupTimers) : (s.onTimers l f).mtc = s.mtc := rfl
@[simp] theorem State.onTimers_cpe (s : State) (l : LineId) (f : SupTimers → SupTimers) : (s.onTimers l f).cpe = s.cpe := rfl
@[simp] theorem State.onTimers_pending (s : State) (l : LineId) (f : SupTimers → SupTimers) : (s.onTimers l f).pending = s.pending := rfl

@[simp] theorem State.onExch_tbu (s : State) (l : LineId) (f : Exchange → Exchange) : (s.onExch l f).tbu = s.tbu := rfl
@[simp] theorem State.onExch_ctr (s : State) (l : LineId) (f : Exchange → Exchange) : (s.onExch l f).ctr = s.ctr := rfl
@[simp] theorem State.onExch_lu (s : State) (l : LineId) (f : Exchange → Exchange) : (s.onExch l f).lu = s.lu := rfl
@[simp] theorem State.onExch_identity (s : State) (l : LineId) (f : Exchange → Exchange) : (s.onExch l f).identity = s.identity := rfl
@[simp] theorem State.onExch_xcfg (s : State) (l : LineId) (f : Exchange → Exchange) : (s.onExch l f).xcfg = s.xcfg := rfl
@[simp] theorem State.onExch_stm (s : State) (l : LineId) (f : Exchange → Exchange) : (s.onExch l f).stm = s.stm := rfl
@[simp] theorem State.onExch_fqm (s : State) (l : LineId) (f : Exchange → Exchange) : (s.onExch l f).fqm = s.fqm := rfl
@[simp] theorem State.onExch_kbs (s : State) (l : LineId) (f : Exchange → Exchange) : (s.onExch l f).kbs = s.kbs := rfl
@[simp] theorem State.onExch_prc (s : State) (l : LineId) (f : Exchange → Exchange) : (s.onExch l f).prc = s.prc := rfl
@[simp] theorem State.onExch_puc (s : State) (l : LineId) (f : Exchange → Exchange) : (s.onExch l f).puc = s.puc := rfl
@[simp] theorem State.onExch_mtc (s : State) (l : LineId) (f : Exchange → Exchange) : (s.onExch l f).mtc = s.mtc := rfl
@[simp] theorem State.onExch_cpe (s : State) (l : LineId) (f : Exchange → Exchange) : (s.onExch l f).cpe = s.cpe := rfl
@[simp] theorem State.onExch_pending (s : State) (l : LineId) (f : Exchange → Exchange) : (s.onExch l f).pending = s.pending := rfl

@[simp] theorem State.onSelector_tbu (s : State) (l : LineId) (f : Selector → Selector) : (s.onSelector l f).tbu = s.tbu := rfl
@[simp] theorem State.onSelector_ctr (s : State) (l : LineId) (f : Selector → Selector) : (s.onSelector l f).ctr = s.ctr := rfl
@[simp] theorem State.onSelector_lu (s : State) (l : LineId) (f : Selector → Selector) : (s.onSelector l f).lu = s.lu := rfl
@[simp] theorem State.onSelector_identity (s : State) (l : LineId) (f : Selector → Selector) : (s.onSelector l f).identity = s.identity := rfl
@[simp] theorem State.onSelector_xcfg (s : State) (l : LineId) (f : Selector → Selector) : (s.onSelector l f).xcfg = s.xcfg := rfl
@[simp] theorem State.onSelector_sup (s : State) (l : LineId) (f : Selector → Selector) : (s.onSelector l f).sup = s.sup := rfl
@[simp] theorem State.onSelector_stm (s : State) (l : LineId) (f : Selector → Selector) : (s.onSelector l f).stm = s.stm := rfl
@[simp] theorem State.onSelector_kbs (s : State) (l : LineId) (f : Selector → Selector) : (s.onSelector l f).kbs = s.kbs := rfl
@[simp] theorem State.onSelector_prc (s : State) (l : LineId) (f : Selector → Selector) : (s.onSelector l f).prc = s.prc := rfl
@[simp] theorem State.onSelector_puc (s : State) (l : LineId) (f : Selector → Selector) : (s.onSelector l f).puc = s.puc := rfl
@[simp] theorem State.onSelector_mtc (s : State) (l : LineId) (f : Selector → Selector) : (s.onSelector l f).mtc = s.mtc := rfl
@[simp] theorem State.onSelector_cpe (s : State) (l : LineId) (f : Selector → Selector) : (s.onSelector l f).cpe = s.cpe := rfl
@[simp] theorem State.onSelector_pending (s : State) (l : LineId) (f : Selector → Selector) : (s.onSelector l f).pending = s.pending := rfl

@[simp] theorem State.onFramer_tbu (s : State) (l : LineId) (f : Framer → Framer) : (s.onFramer l f).tbu = s.tbu := rfl
@[simp] theorem State.onFramer_ctr (s : State) (l : LineId) (f : Framer → Framer) : (s.onFramer l f).ctr = s.ctr := rfl
@[simp] theorem State.onFramer_lu (s : State) (l : LineId) (f : Framer → Framer) : (s.onFramer l f).lu = s.lu := rfl
@[simp] theorem State.onFramer_identity (s : State) (l : LineId) (f : Framer → Framer) : (s.onFramer l f).identity = s.identity := rfl
@[simp] theorem State.onFramer_xcfg (s : State) (l : LineId) (f : Framer → Framer) : (s.onFramer l f).xcfg = s.xcfg := rfl
@[simp] theorem State.onFramer_sup (s : State) (l : LineId) (f : Framer → Framer) : (s.onFramer l f).sup = s.sup := rfl
@[simp] theorem State.onFramer_stm (s : State) (l : LineId) (f : Framer → Framer) : (s.onFramer l f).stm = s.stm := rfl
@[simp] theorem State.onFramer_kbs (s : State) (l : LineId) (f : Framer → Framer) : (s.onFramer l f).kbs = s.kbs := rfl
@[simp] theorem State.onFramer_prc (s : State) (l : LineId) (f : Framer → Framer) : (s.onFramer l f).prc = s.prc := rfl
@[simp] theorem State.onFramer_puc (s : State) (l : LineId) (f : Framer → Framer) : (s.onFramer l f).puc = s.puc := rfl
@[simp] theorem State.onFramer_mtc (s : State) (l : LineId) (f : Framer → Framer) : (s.onFramer l f).mtc = s.mtc := rfl
@[simp] theorem State.onFramer_cpe (s : State) (l : LineId) (f : Framer → Framer) : (s.onFramer l f).cpe = s.cpe := rfl
@[simp] theorem State.onFramer_pending (s : State) (l : LineId) (f : Framer → Framer) : (s.onFramer l f).pending = s.pending := rfl

@[simp] theorem State.onSend_tbu (s : State) (l : LineId) (f : SendGrant → SendGrant) : (s.onSend l f).tbu = s.tbu := rfl
@[simp] theorem State.onSend_ctr (s : State) (l : LineId) (f : SendGrant → SendGrant) : (s.onSend l f).ctr = s.ctr := rfl
@[simp] theorem State.onSend_lu (s : State) (l : LineId) (f : SendGrant → SendGrant) : (s.onSend l f).lu = s.lu := rfl
@[simp] theorem State.onSend_identity (s : State) (l : LineId) (f : SendGrant → SendGrant) : (s.onSend l f).identity = s.identity := rfl
@[simp] theorem State.onSend_xcfg (s : State) (l : LineId) (f : SendGrant → SendGrant) : (s.onSend l f).xcfg = s.xcfg := rfl
@[simp] theorem State.onSend_sup (s : State) (l : LineId) (f : SendGrant → SendGrant) : (s.onSend l f).sup = s.sup := rfl
@[simp] theorem State.onSend_stm (s : State) (l : LineId) (f : SendGrant → SendGrant) : (s.onSend l f).stm = s.stm := rfl
@[simp] theorem State.onSend_kbs (s : State) (l : LineId) (f : SendGrant → SendGrant) : (s.onSend l f).kbs = s.kbs := rfl
@[simp] theorem State.onSend_prc (s : State) (l : LineId) (f : SendGrant → SendGrant) : (s.onSend l f).prc = s.prc := rfl
@[simp] theorem State.onSend_puc (s : State) (l : LineId) (f : SendGrant → SendGrant) : (s.onSend l f).puc = s.puc := rfl
@[simp] theorem State.onSend_mtc (s : State) (l : LineId) (f : SendGrant → SendGrant) : (s.onSend l f).mtc = s.mtc := rfl
@[simp] theorem State.onSend_cpe (s : State) (l : LineId) (f : SendGrant → SendGrant) : (s.onSend l f).cpe = s.cpe := rfl
@[simp] theorem State.onSend_pending (s : State) (l : LineId) (f : SendGrant → SendGrant) : (s.onSend l f).pending = s.pending := rfl

@[simp] theorem State.setRecord_tbu (s : State) (i : Nat) (r : Option Rec) : (s.setRecord i r).tbu = s.tbu := rfl
@[simp] theorem State.setRecord_ctr (s : State) (i : Nat) (r : Option Rec) : (s.setRecord i r).ctr = s.ctr := rfl
@[simp] theorem State.setRecord_lu (s : State) (i : Nat) (r : Option Rec) : (s.setRecord i r).lu = s.lu := rfl
@[simp] theorem State.setRecord_identity (s : State) (i : Nat) (r : Option Rec) : (s.setRecord i r).identity = s.identity := rfl
@[simp] theorem State.setRecord_xcfg (s : State) (i : Nat) (r : Option Rec) : (s.setRecord i r).xcfg = s.xcfg := rfl
@[simp] theorem State.setRecord_sup (s : State) (i : Nat) (r : Option Rec) : (s.setRecord i r).sup = s.sup := rfl
@[simp] theorem State.setRecord_fqm (s : State) (i : Nat) (r : Option Rec) : (s.setRecord i r).fqm = s.fqm := rfl
@[simp] theorem State.setRecord_kbs (s : State) (i : Nat) (r : Option Rec) : (s.setRecord i r).kbs = s.kbs := rfl
@[simp] theorem State.setRecord_prc (s : State) (i : Nat) (r : Option Rec) : (s.setRecord i r).prc = s.prc := rfl
@[simp] theorem State.setRecord_puc (s : State) (i : Nat) (r : Option Rec) : (s.setRecord i r).puc = s.puc := rfl
@[simp] theorem State.setRecord_mtc (s : State) (i : Nat) (r : Option Rec) : (s.setRecord i r).mtc = s.mtc := rfl
@[simp] theorem State.setRecord_cpe (s : State) (i : Nat) (r : Option Rec) : (s.setRecord i r).cpe = s.cpe := rfl
@[simp] theorem State.setRecord_pending (s : State) (i : Nat) (r : Option Rec) : (s.setRecord i r).pending = s.pending := rfl

@[simp] theorem State.onRecord_tbu (s : State) (i : Nat) (f : Rec → Rec) : (s.onRecord i f).tbu = s.tbu := by unfold State.onRecord; split <;> rfl
@[simp] theorem State.onRecord_ctr (s : State) (i : Nat) (f : Rec → Rec) : (s.onRecord i f).ctr = s.ctr := by unfold State.onRecord; split <;> rfl
@[simp] theorem State.onRecord_lu (s : State) (i : Nat) (f : Rec → Rec) : (s.onRecord i f).lu = s.lu := by unfold State.onRecord; split <;> rfl
@[simp] theorem State.onRecord_identity (s : State) (i : Nat) (f : Rec → Rec) : (s.onRecord i f).identity = s.identity := by unfold State.onRecord; split <;> rfl
@[simp] theorem State.onRecord_xcfg (s : State) (i : Nat) (f : Rec → Rec) : (s.onRecord i f).xcfg = s.xcfg := by unfold State.onRecord; split <;> rfl
@[simp] theorem State.onRecord_sup (s : State) (i : Nat) (f : Rec → Rec) : (s.onRecord i f).sup = s.sup := by unfold State.onRecord; split <;> rfl
@[simp] theorem State.onRecord_fqm (s : State) (i : Nat) (f : Rec → Rec) : (s.onRecord i f).fqm = s.fqm := by unfold State.onRecord; split <;> rfl
@[simp] theorem State.onRecord_kbs (s : State) (i : Nat) (f : Rec → Rec) : (s.onRecord i f).kbs = s.kbs := by unfold State.onRecord; split <;> rfl
@[simp] theorem State.onRecord_prc (s : State) (i : Nat) (f : Rec → Rec) : (s.onRecord i f).prc = s.prc := by unfold State.onRecord; split <;> rfl
@[simp] theorem State.onRecord_puc (s : State) (i : Nat) (f : Rec → Rec) : (s.onRecord i f).puc = s.puc := by unfold State.onRecord; split <;> rfl
@[simp] theorem State.onRecord_mtc (s : State) (i : Nat) (f : Rec → Rec) : (s.onRecord i f).mtc = s.mtc := by unfold State.onRecord; split <;> rfl
@[simp] theorem State.onRecord_cpe (s : State) (i : Nat) (f : Rec → Rec) : (s.onRecord i f).cpe = s.cpe := by unfold State.onRecord; split <;> rfl
@[simp] theorem State.onRecord_pending (s : State) (i : Nat) (f : Rec → Rec) : (s.onRecord i f).pending = s.pending := by unfold State.onRecord; split <;> rfl

@[simp] theorem State.onRecords_tbu (s : State) (f : Nat → Rec → Rec) : (s.onRecords f).tbu = s.tbu := rfl
@[simp] theorem State.onRecords_ctr (s : State) (f : Nat → Rec → Rec) : (s.onRecords f).ctr = s.ctr := rfl
@[simp] theorem State.onRecords_lu (s : State) (f : Nat → Rec → Rec) : (s.onRecords f).lu = s.lu := rfl
@[simp] theorem State.onRecords_identity (s : State) (f : Nat → Rec → Rec) : (s.onRecords f).identity = s.identity := rfl
@[simp] theorem State.onRecords_xcfg (s : State) (f : Nat → Rec → Rec) : (s.onRecords f).xcfg = s.xcfg := rfl
@[simp] theorem State.onRecords_sup (s : State) (f : Nat → Rec → Rec) : (s.onRecords f).sup = s.sup := rfl
@[simp] theorem State.onRecords_fqm (s : State) (f : Nat → Rec → Rec) : (s.onRecords f).fqm = s.fqm := rfl
@[simp] theorem State.onRecords_kbs (s : State) (f : Nat → Rec → Rec) : (s.onRecords f).kbs = s.kbs := rfl
@[simp] theorem State.onRecords_prc (s : State) (f : Nat → Rec → Rec) : (s.onRecords f).prc = s.prc := rfl
@[simp] theorem State.onRecords_puc (s : State) (f : Nat → Rec → Rec) : (s.onRecords f).puc = s.puc := rfl
@[simp] theorem State.onRecords_mtc (s : State) (f : Nat → Rec → Rec) : (s.onRecords f).mtc = s.mtc := rfl
@[simp] theorem State.onRecords_cpe (s : State) (f : Nat → Rec → Rec) : (s.onRecords f).cpe = s.cpe := rfl
@[simp] theorem State.onRecords_pending (s : State) (f : Nat → Rec → Rec) : (s.onRecords f).pending = s.pending := rfl

@[simp] theorem State.onMotor_tbu (s : State) (k : Mech) (f : Motor → Motor) : (s.onMotor k f).tbu = s.tbu := rfl
@[simp] theorem State.onMotor_ctr (s : State) (k : Mech) (f : Motor → Motor) : (s.onMotor k f).ctr = s.ctr := rfl
@[simp] theorem State.onMotor_lu (s : State) (k : Mech) (f : Motor → Motor) : (s.onMotor k f).lu = s.lu := rfl
@[simp] theorem State.onMotor_identity (s : State) (k : Mech) (f : Motor → Motor) : (s.onMotor k f).identity = s.identity := rfl
@[simp] theorem State.onMotor_xcfg (s : State) (k : Mech) (f : Motor → Motor) : (s.onMotor k f).xcfg = s.xcfg := rfl
@[simp] theorem State.onMotor_sup (s : State) (k : Mech) (f : Motor → Motor) : (s.onMotor k f).sup = s.sup := rfl
@[simp] theorem State.onMotor_stm (s : State) (k : Mech) (f : Motor → Motor) : (s.onMotor k f).stm = s.stm := rfl
@[simp] theorem State.onMotor_fqm (s : State) (k : Mech) (f : Motor → Motor) : (s.onMotor k f).fqm = s.fqm := rfl
@[simp] theorem State.onMotor_kbs (s : State) (k : Mech) (f : Motor → Motor) : (s.onMotor k f).kbs = s.kbs := rfl
@[simp] theorem State.onMotor_prc (s : State) (k : Mech) (f : Motor → Motor) : (s.onMotor k f).prc = s.prc := rfl
@[simp] theorem State.onMotor_puc (s : State) (k : Mech) (f : Motor → Motor) : (s.onMotor k f).puc = s.puc := rfl
@[simp] theorem State.onMotor_cpe (s : State) (k : Mech) (f : Motor → Motor) : (s.onMotor k f).cpe = s.cpe := rfl
@[simp] theorem State.onMotor_pending (s : State) (k : Mech) (f : Motor → Motor) : (s.onMotor k f).pending = s.pending := rfl

@[simp] theorem State.latch_tbu (s : State) (e : Event) : (s.latch e).tbu = s.tbu := rfl
@[simp] theorem State.latch_ctr (s : State) (e : Event) : (s.latch e).ctr = s.ctr := rfl
@[simp] theorem State.latch_lu (s : State) (e : Event) : (s.latch e).lu = s.lu := rfl
@[simp] theorem State.latch_identity (s : State) (e : Event) : (s.latch e).identity = s.identity := rfl
@[simp] theorem State.latch_xcfg (s : State) (e : Event) : (s.latch e).xcfg = s.xcfg := rfl
@[simp] theorem State.latch_sup (s : State) (e : Event) : (s.latch e).sup = s.sup := rfl
@[simp] theorem State.latch_stm (s : State) (e : Event) : (s.latch e).stm = s.stm := rfl
@[simp] theorem State.latch_fqm (s : State) (e : Event) : (s.latch e).fqm = s.fqm := rfl
@[simp] theorem State.latch_kbs (s : State) (e : Event) : (s.latch e).kbs = s.kbs := rfl
@[simp] theorem State.latch_prc (s : State) (e : Event) : (s.latch e).prc = s.prc := rfl
@[simp] theorem State.latch_puc (s : State) (e : Event) : (s.latch e).puc = s.puc := rfl
@[simp] theorem State.latch_mtc (s : State) (e : Event) : (s.latch e).mtc = s.mtc := rfl
@[simp] theorem State.latch_pending (s : State) (e : Event) : (s.latch e).pending = s.pending := rfl

@[simp] theorem State.recompute_ctr (s : State) (l : LineId) : (s.recompute l).ctr = s.ctr := rfl
@[simp] theorem State.recompute_lu (s : State) (l : LineId) : (s.recompute l).lu = s.lu := rfl
@[simp] theorem State.recompute_identity (s : State) (l : LineId) : (s.recompute l).identity = s.identity := rfl
@[simp] theorem State.recompute_xcfg (s : State) (l : LineId) : (s.recompute l).xcfg = s.xcfg := rfl
@[simp] theorem State.recompute_sup (s : State) (l : LineId) : (s.recompute l).sup = s.sup := rfl
@[simp] theorem State.recompute_stm (s : State) (l : LineId) : (s.recompute l).stm = s.stm := rfl
@[simp] theorem State.recompute_fqm (s : State) (l : LineId) : (s.recompute l).fqm = s.fqm := rfl
@[simp] theorem State.recompute_kbs (s : State) (l : LineId) : (s.recompute l).kbs = s.kbs := rfl
@[simp] theorem State.recompute_prc (s : State) (l : LineId) : (s.recompute l).prc = s.prc := rfl
@[simp] theorem State.recompute_puc (s : State) (l : LineId) : (s.recompute l).puc = s.puc := rfl
@[simp] theorem State.recompute_mtc (s : State) (l : LineId) : (s.recompute l).mtc = s.mtc := rfl
@[simp] theorem State.recompute_cpe (s : State) (l : LineId) : (s.recompute l).cpe = s.cpe := rfl
@[simp] theorem State.recompute_pending (s : State) (l : LineId) : (s.recompute l).pending = s.pending := rfl

@[simp] theorem State.recomputeBoth_ctr (s : State) : s.recomputeBoth.ctr = s.ctr := rfl
@[simp] theorem State.recomputeBoth_lu (s : State) : s.recomputeBoth.lu = s.lu := rfl
@[simp] theorem State.recomputeBoth_identity (s : State) : s.recomputeBoth.identity = s.identity := rfl
@[simp] theorem State.recomputeBoth_xcfg (s : State) : s.recomputeBoth.xcfg = s.xcfg := rfl
@[simp] theorem State.recomputeBoth_sup (s : State) : s.recomputeBoth.sup = s.sup := rfl
@[simp] theorem State.recomputeBoth_stm (s : State) : s.recomputeBoth.stm = s.stm := rfl
@[simp] theorem State.recomputeBoth_fqm (s : State) : s.recomputeBoth.fqm = s.fqm := rfl
@[simp] theorem State.recomputeBoth_kbs (s : State) : s.recomputeBoth.kbs = s.kbs := rfl
@[simp] theorem State.recomputeBoth_prc (s : State) : s.recomputeBoth.prc = s.prc := rfl
@[simp] theorem State.recomputeBoth_puc (s : State) : s.recomputeBoth.puc = s.puc := rfl
@[simp] theorem State.recomputeBoth_mtc (s : State) : s.recomputeBoth.mtc = s.mtc := rfl
@[simp] theorem State.recomputeBoth_cpe (s : State) : s.recomputeBoth.cpe = s.cpe := rfl
@[simp] theorem State.recomputeBoth_pending (s : State) : s.recomputeBoth.pending = s.pending := rfl

@[simp] theorem State.requestWake_ctr (s : State) (c : WakeCause) : (s.requestWake c).ctr = s.ctr := by unfold State.requestWake; split <;> rfl
@[simp] theorem State.requestWake_lu (s : State) (c : WakeCause) : (s.requestWake c).lu = s.lu := by unfold State.requestWake; split <;> rfl
@[simp] theorem State.requestWake_identity (s : State) (c : WakeCause) : (s.requestWake c).identity = s.identity := by unfold State.requestWake; split <;> rfl
@[simp] theorem State.requestWake_xcfg (s : State) (c : WakeCause) : (s.requestWake c).xcfg = s.xcfg := by unfold State.requestWake; split <;> rfl
@[simp] theorem State.requestWake_sup (s : State) (c : WakeCause) : (s.requestWake c).sup = s.sup := by unfold State.requestWake; split <;> rfl
@[simp] theorem State.requestWake_stm (s : State) (c : WakeCause) : (s.requestWake c).stm = s.stm := by unfold State.requestWake; split <;> rfl
@[simp] theorem State.requestWake_fqm (s : State) (c : WakeCause) : (s.requestWake c).fqm = s.fqm := by unfold State.requestWake; split <;> rfl
@[simp] theorem State.requestWake_kbs (s : State) (c : WakeCause) : (s.requestWake c).kbs = s.kbs := by unfold State.requestWake; split <;> rfl
@[simp] theorem State.requestWake_prc (s : State) (c : WakeCause) : (s.requestWake c).prc = s.prc := by unfold State.requestWake; split <;> rfl
@[simp] theorem State.requestWake_puc (s : State) (c : WakeCause) : (s.requestWake c).puc = s.puc := by unfold State.requestWake; split <;> rfl
@[simp] theorem State.requestWake_mtc (s : State) (c : WakeCause) : (s.requestWake c).mtc = s.mtc := by unfold State.requestWake; split <;> rfl
@[simp] theorem State.requestWake_cpe (s : State) (c : WakeCause) : (s.requestWake c).cpe = s.cpe := by unfold State.requestWake; split <;> rfl
@[simp] theorem State.requestWake_pending (s : State) (c : WakeCause) : (s.requestWake c).pending = s.pending := by unfold State.requestWake; split <;> rfl

@[simp] theorem State.order_tbu (s : State) (l : LineId) (v : Level) : (s.order l v).tbu = s.tbu := rfl
@[simp] theorem State.order_ctr (s : State) (l : LineId) (v : Level) : (s.order l v).ctr = s.ctr := rfl
@[simp] theorem State.order_identity (s : State) (l : LineId) (v : Level) : (s.order l v).identity = s.identity := rfl
@[simp] theorem State.order_xcfg (s : State) (l : LineId) (v : Level) : (s.order l v).xcfg = s.xcfg := rfl
@[simp] theorem State.order_sup (s : State) (l : LineId) (v : Level) : (s.order l v).sup = s.sup := rfl
@[simp] theorem State.order_stm (s : State) (l : LineId) (v : Level) : (s.order l v).stm = s.stm := rfl
@[simp] theorem State.order_fqm (s : State) (l : LineId) (v : Level) : (s.order l v).fqm = s.fqm := rfl
@[simp] theorem State.order_kbs (s : State) (l : LineId) (v : Level) : (s.order l v).kbs = s.kbs := rfl
@[simp] theorem State.order_prc (s : State) (l : LineId) (v : Level) : (s.order l v).prc = s.prc := rfl
@[simp] theorem State.order_puc (s : State) (l : LineId) (v : Level) : (s.order l v).puc = s.puc := rfl
@[simp] theorem State.order_mtc (s : State) (l : LineId) (v : Level) : (s.order l v).mtc = s.mtc := rfl
@[simp] theorem State.order_cpe (s : State) (l : LineId) (v : Level) : (s.order l v).cpe = s.cpe := rfl
@[simp] theorem State.order_pending (s : State) (l : LineId) (v : Level) : (s.order l v).pending = s.pending := rfl

@[simp] theorem State.forgetShifts_tbu (s : State) (l : LineId) : (s.forgetShifts l).tbu = s.tbu := rfl
@[simp] theorem State.forgetShifts_lu (s : State) (l : LineId) : (s.forgetShifts l).lu = s.lu := rfl
@[simp] theorem State.forgetShifts_identity (s : State) (l : LineId) : (s.forgetShifts l).identity = s.identity := rfl
@[simp] theorem State.forgetShifts_xcfg (s : State) (l : LineId) : (s.forgetShifts l).xcfg = s.xcfg := rfl
@[simp] theorem State.forgetShifts_sup (s : State) (l : LineId) : (s.forgetShifts l).sup = s.sup := rfl
@[simp] theorem State.forgetShifts_stm (s : State) (l : LineId) : (s.forgetShifts l).stm = s.stm := rfl
@[simp] theorem State.forgetShifts_fqm (s : State) (l : LineId) : (s.forgetShifts l).fqm = s.fqm := rfl
@[simp] theorem State.forgetShifts_kbs (s : State) (l : LineId) : (s.forgetShifts l).kbs = s.kbs := rfl
@[simp] theorem State.forgetShifts_prc (s : State) (l : LineId) : (s.forgetShifts l).prc = s.prc := rfl
@[simp] theorem State.forgetShifts_puc (s : State) (l : LineId) : (s.forgetShifts l).puc = s.puc := rfl
@[simp] theorem State.forgetShifts_mtc (s : State) (l : LineId) : (s.forgetShifts l).mtc = s.mtc := rfl
@[simp] theorem State.forgetShifts_cpe (s : State) (l : LineId) : (s.forgetShifts l).cpe = s.cpe := rfl
@[simp] theorem State.forgetShifts_pending (s : State) (l : LineId) : (s.forgetShifts l).pending = s.pending := rfl

@[simp] theorem State.abandonTx_tbu (s : State) (l : LineId) : (s.abandonTx l).tbu = s.tbu := by unfold State.abandonTx; split <;> rfl
@[simp] theorem State.abandonTx_identity (s : State) (l : LineId) : (s.abandonTx l).identity = s.identity := by unfold State.abandonTx; split <;> rfl
@[simp] theorem State.abandonTx_xcfg (s : State) (l : LineId) : (s.abandonTx l).xcfg = s.xcfg := by unfold State.abandonTx; split <;> rfl
@[simp] theorem State.abandonTx_sup (s : State) (l : LineId) : (s.abandonTx l).sup = s.sup := by unfold State.abandonTx; split <;> rfl
@[simp] theorem State.abandonTx_stm (s : State) (l : LineId) : (s.abandonTx l).stm = s.stm := by unfold State.abandonTx; split <;> rfl
@[simp] theorem State.abandonTx_fqm (s : State) (l : LineId) : (s.abandonTx l).fqm = s.fqm := by unfold State.abandonTx; split <;> rfl
@[simp] theorem State.abandonTx_kbs (s : State) (l : LineId) : (s.abandonTx l).kbs = s.kbs := by unfold State.abandonTx; split <;> rfl
@[simp] theorem State.abandonTx_prc (s : State) (l : LineId) : (s.abandonTx l).prc = s.prc := by unfold State.abandonTx; split <;> rfl
@[simp] theorem State.abandonTx_puc (s : State) (l : LineId) : (s.abandonTx l).puc = s.puc := by unfold State.abandonTx; split <;> rfl
@[simp] theorem State.abandonTx_mtc (s : State) (l : LineId) : (s.abandonTx l).mtc = s.mtc := by unfold State.abandonTx; split <;> rfl
@[simp] theorem State.abandonTx_cpe (s : State) (l : LineId) : (s.abandonTx l).cpe = s.cpe := by unfold State.abandonTx; split <;> rfl
@[simp] theorem State.abandonTx_pending (s : State) (l : LineId) : (s.abandonTx l).pending = s.pending := by unfold State.abandonTx; split <;> rfl

@[simp] theorem State.setTxShift_tbu (s : State) (l : LineId) (r : ShiftRecord) : (s.setTxShift l r).tbu = s.tbu := rfl
@[simp] theorem State.setTxShift_lu (s : State) (l : LineId) (r : ShiftRecord) : (s.setTxShift l r).lu = s.lu := rfl
@[simp] theorem State.setTxShift_identity (s : State) (l : LineId) (r : ShiftRecord) : (s.setTxShift l r).identity = s.identity := rfl
@[simp] theorem State.setTxShift_xcfg (s : State) (l : LineId) (r : ShiftRecord) : (s.setTxShift l r).xcfg = s.xcfg := rfl
@[simp] theorem State.setTxShift_sup (s : State) (l : LineId) (r : ShiftRecord) : (s.setTxShift l r).sup = s.sup := rfl
@[simp] theorem State.setTxShift_stm (s : State) (l : LineId) (r : ShiftRecord) : (s.setTxShift l r).stm = s.stm := rfl
@[simp] theorem State.setTxShift_fqm (s : State) (l : LineId) (r : ShiftRecord) : (s.setTxShift l r).fqm = s.fqm := rfl
@[simp] theorem State.setTxShift_kbs (s : State) (l : LineId) (r : ShiftRecord) : (s.setTxShift l r).kbs = s.kbs := rfl
@[simp] theorem State.setTxShift_prc (s : State) (l : LineId) (r : ShiftRecord) : (s.setTxShift l r).prc = s.prc := rfl
@[simp] theorem State.setTxShift_puc (s : State) (l : LineId) (r : ShiftRecord) : (s.setTxShift l r).puc = s.puc := rfl
@[simp] theorem State.setTxShift_mtc (s : State) (l : LineId) (r : ShiftRecord) : (s.setTxShift l r).mtc = s.mtc := rfl
@[simp] theorem State.setTxShift_cpe (s : State) (l : LineId) (r : ShiftRecord) : (s.setTxShift l r).cpe = s.cpe := rfl
@[simp] theorem State.setTxShift_pending (s : State) (l : LineId) (r : ShiftRecord) : (s.setTxShift l r).pending = s.pending := rfl

@[simp] theorem State.setRxShift_tbu (s : State) (l : LineId) (r : ShiftRecord) : (s.setRxShift l r).tbu = s.tbu := rfl
@[simp] theorem State.setRxShift_lu (s : State) (l : LineId) (r : ShiftRecord) : (s.setRxShift l r).lu = s.lu := rfl
@[simp] theorem State.setRxShift_identity (s : State) (l : LineId) (r : ShiftRecord) : (s.setRxShift l r).identity = s.identity := rfl
@[simp] theorem State.setRxShift_xcfg (s : State) (l : LineId) (r : ShiftRecord) : (s.setRxShift l r).xcfg = s.xcfg := rfl
@[simp] theorem State.setRxShift_sup (s : State) (l : LineId) (r : ShiftRecord) : (s.setRxShift l r).sup = s.sup := rfl
@[simp] theorem State.setRxShift_stm (s : State) (l : LineId) (r : ShiftRecord) : (s.setRxShift l r).stm = s.stm := rfl
@[simp] theorem State.setRxShift_fqm (s : State) (l : LineId) (r : ShiftRecord) : (s.setRxShift l r).fqm = s.fqm := rfl
@[simp] theorem State.setRxShift_kbs (s : State) (l : LineId) (r : ShiftRecord) : (s.setRxShift l r).kbs = s.kbs := rfl
@[simp] theorem State.setRxShift_prc (s : State) (l : LineId) (r : ShiftRecord) : (s.setRxShift l r).prc = s.prc := rfl
@[simp] theorem State.setRxShift_puc (s : State) (l : LineId) (r : ShiftRecord) : (s.setRxShift l r).puc = s.puc := rfl
@[simp] theorem State.setRxShift_mtc (s : State) (l : LineId) (r : ShiftRecord) : (s.setRxShift l r).mtc = s.mtc := rfl
@[simp] theorem State.setRxShift_cpe (s : State) (l : LineId) (r : ShiftRecord) : (s.setRxShift l r).cpe = s.cpe := rfl
@[simp] theorem State.setRxShift_pending (s : State) (l : LineId) (r : ShiftRecord) : (s.setRxShift l r).pending = s.pending := rfl

@[simp] theorem State.setTape_tbu (s : State) (r : ShiftRecord) : (s.setTape r).tbu = s.tbu := rfl
@[simp] theorem State.setTape_lu (s : State) (r : ShiftRecord) : (s.setTape r).lu = s.lu := rfl
@[simp] theorem State.setTape_identity (s : State) (r : ShiftRecord) : (s.setTape r).identity = s.identity := rfl
@[simp] theorem State.setTape_xcfg (s : State) (r : ShiftRecord) : (s.setTape r).xcfg = s.xcfg := rfl
@[simp] theorem State.setTape_sup (s : State) (r : ShiftRecord) : (s.setTape r).sup = s.sup := rfl
@[simp] theorem State.setTape_stm (s : State) (r : ShiftRecord) : (s.setTape r).stm = s.stm := rfl
@[simp] theorem State.setTape_fqm (s : State) (r : ShiftRecord) : (s.setTape r).fqm = s.fqm := rfl
@[simp] theorem State.setTape_kbs (s : State) (r : ShiftRecord) : (s.setTape r).kbs = s.kbs := rfl
@[simp] theorem State.setTape_prc (s : State) (r : ShiftRecord) : (s.setTape r).prc = s.prc := rfl
@[simp] theorem State.setTape_puc (s : State) (r : ShiftRecord) : (s.setTape r).puc = s.puc := rfl
@[simp] theorem State.setTape_mtc (s : State) (r : ShiftRecord) : (s.setTape r).mtc = s.mtc := rfl
@[simp] theorem State.setTape_cpe (s : State) (r : ShiftRecord) : (s.setTape r).cpe = s.cpe := rfl
@[simp] theorem State.setTape_pending (s : State) (r : ShiftRecord) : (s.setTape r).pending = s.pending := rfl

@[simp] theorem State.setPrintGrant_tbu (s : State) (g : Option PrintGrant) : (s.setPrintGrant g).tbu = s.tbu := rfl
@[simp] theorem State.setPrintGrant_ctr (s : State) (g : Option PrintGrant) : (s.setPrintGrant g).ctr = s.ctr := rfl
@[simp] theorem State.setPrintGrant_lu (s : State) (g : Option PrintGrant) : (s.setPrintGrant g).lu = s.lu := rfl
@[simp] theorem State.setPrintGrant_identity (s : State) (g : Option PrintGrant) : (s.setPrintGrant g).identity = s.identity := rfl
@[simp] theorem State.setPrintGrant_xcfg (s : State) (g : Option PrintGrant) : (s.setPrintGrant g).xcfg = s.xcfg := rfl
@[simp] theorem State.setPrintGrant_sup (s : State) (g : Option PrintGrant) : (s.setPrintGrant g).sup = s.sup := rfl
@[simp] theorem State.setPrintGrant_stm (s : State) (g : Option PrintGrant) : (s.setPrintGrant g).stm = s.stm := rfl
@[simp] theorem State.setPrintGrant_fqm (s : State) (g : Option PrintGrant) : (s.setPrintGrant g).fqm = s.fqm := rfl
@[simp] theorem State.setPrintGrant_kbs (s : State) (g : Option PrintGrant) : (s.setPrintGrant g).kbs = s.kbs := rfl
@[simp] theorem State.setPrintGrant_puc (s : State) (g : Option PrintGrant) : (s.setPrintGrant g).puc = s.puc := rfl
@[simp] theorem State.setPrintGrant_mtc (s : State) (g : Option PrintGrant) : (s.setPrintGrant g).mtc = s.mtc := rfl
@[simp] theorem State.setPrintGrant_cpe (s : State) (g : Option PrintGrant) : (s.setPrintGrant g).cpe = s.cpe := rfl
@[simp] theorem State.setPrintGrant_pending (s : State) (g : Option PrintGrant) : (s.setPrintGrant g).pending = s.pending := rfl

@[simp] theorem State.setPunchGrant_tbu (s : State) (g : Option PunchGrant) : (s.setPunchGrant g).tbu = s.tbu := rfl
@[simp] theorem State.setPunchGrant_ctr (s : State) (g : Option PunchGrant) : (s.setPunchGrant g).ctr = s.ctr := rfl
@[simp] theorem State.setPunchGrant_lu (s : State) (g : Option PunchGrant) : (s.setPunchGrant g).lu = s.lu := rfl
@[simp] theorem State.setPunchGrant_identity (s : State) (g : Option PunchGrant) : (s.setPunchGrant g).identity = s.identity := rfl
@[simp] theorem State.setPunchGrant_xcfg (s : State) (g : Option PunchGrant) : (s.setPunchGrant g).xcfg = s.xcfg := rfl
@[simp] theorem State.setPunchGrant_sup (s : State) (g : Option PunchGrant) : (s.setPunchGrant g).sup = s.sup := rfl
@[simp] theorem State.setPunchGrant_stm (s : State) (g : Option PunchGrant) : (s.setPunchGrant g).stm = s.stm := rfl
@[simp] theorem State.setPunchGrant_fqm (s : State) (g : Option PunchGrant) : (s.setPunchGrant g).fqm = s.fqm := rfl
@[simp] theorem State.setPunchGrant_kbs (s : State) (g : Option PunchGrant) : (s.setPunchGrant g).kbs = s.kbs := rfl
@[simp] theorem State.setPunchGrant_prc (s : State) (g : Option PunchGrant) : (s.setPunchGrant g).prc = s.prc := rfl
@[simp] theorem State.setPunchGrant_mtc (s : State) (g : Option PunchGrant) : (s.setPunchGrant g).mtc = s.mtc := rfl
@[simp] theorem State.setPunchGrant_cpe (s : State) (g : Option PunchGrant) : (s.setPunchGrant g).cpe = s.cpe := rfl
@[simp] theorem State.setPunchGrant_pending (s : State) (g : Option PunchGrant) : (s.setPunchGrant g).pending = s.pending := rfl

@[simp] theorem State.onKbs_tbu (s : State) (f : Keyboard → Keyboard) : (s.onKbs f).tbu = s.tbu := rfl
@[simp] theorem State.onKbs_ctr (s : State) (f : Keyboard → Keyboard) : (s.onKbs f).ctr = s.ctr := rfl
@[simp] theorem State.onKbs_lu (s : State) (f : Keyboard → Keyboard) : (s.onKbs f).lu = s.lu := rfl
@[simp] theorem State.onKbs_identity (s : State) (f : Keyboard → Keyboard) : (s.onKbs f).identity = s.identity := rfl
@[simp] theorem State.onKbs_xcfg (s : State) (f : Keyboard → Keyboard) : (s.onKbs f).xcfg = s.xcfg := rfl
@[simp] theorem State.onKbs_sup (s : State) (f : Keyboard → Keyboard) : (s.onKbs f).sup = s.sup := rfl
@[simp] theorem State.onKbs_stm (s : State) (f : Keyboard → Keyboard) : (s.onKbs f).stm = s.stm := rfl
@[simp] theorem State.onKbs_fqm (s : State) (f : Keyboard → Keyboard) : (s.onKbs f).fqm = s.fqm := rfl
@[simp] theorem State.onKbs_prc (s : State) (f : Keyboard → Keyboard) : (s.onKbs f).prc = s.prc := rfl
@[simp] theorem State.onKbs_puc (s : State) (f : Keyboard → Keyboard) : (s.onKbs f).puc = s.puc := rfl
@[simp] theorem State.onKbs_mtc (s : State) (f : Keyboard → Keyboard) : (s.onKbs f).mtc = s.mtc := rfl
@[simp] theorem State.onKbs_cpe (s : State) (f : Keyboard → Keyboard) : (s.onKbs f).cpe = s.cpe := rfl
@[simp] theorem State.onKbs_pending (s : State) (f : Keyboard → Keyboard) : (s.onKbs f).pending = s.pending := rfl

@[simp] theorem State.onCpe_tbu (s : State) (f : Console → Console) : (s.onCpe f).tbu = s.tbu := rfl
@[simp] theorem State.onCpe_ctr (s : State) (f : Console → Console) : (s.onCpe f).ctr = s.ctr := rfl
@[simp] theorem State.onCpe_lu (s : State) (f : Console → Console) : (s.onCpe f).lu = s.lu := rfl
@[simp] theorem State.onCpe_identity (s : State) (f : Console → Console) : (s.onCpe f).identity = s.identity := rfl
@[simp] theorem State.onCpe_xcfg (s : State) (f : Console → Console) : (s.onCpe f).xcfg = s.xcfg := rfl
@[simp] theorem State.onCpe_sup (s : State) (f : Console → Console) : (s.onCpe f).sup = s.sup := rfl
@[simp] theorem State.onCpe_stm (s : State) (f : Console → Console) : (s.onCpe f).stm = s.stm := rfl
@[simp] theorem State.onCpe_fqm (s : State) (f : Console → Console) : (s.onCpe f).fqm = s.fqm := rfl
@[simp] theorem State.onCpe_kbs (s : State) (f : Console → Console) : (s.onCpe f).kbs = s.kbs := rfl
@[simp] theorem State.onCpe_prc (s : State) (f : Console → Console) : (s.onCpe f).prc = s.prc := rfl
@[simp] theorem State.onCpe_puc (s : State) (f : Console → Console) : (s.onCpe f).puc = s.puc := rfl
@[simp] theorem State.onCpe_mtc (s : State) (f : Console → Console) : (s.onCpe f).mtc = s.mtc := rfl
@[simp] theorem State.onCpe_pending (s : State) (f : Console → Console) : (s.onCpe f).pending = s.pending := rfl

@[simp] theorem State.onTbu_ctr (s : State) (f : Timebase → Timebase) : (s.onTbu f).ctr = s.ctr := rfl
@[simp] theorem State.onTbu_lu (s : State) (f : Timebase → Timebase) : (s.onTbu f).lu = s.lu := rfl
@[simp] theorem State.onTbu_identity (s : State) (f : Timebase → Timebase) : (s.onTbu f).identity = s.identity := rfl
@[simp] theorem State.onTbu_xcfg (s : State) (f : Timebase → Timebase) : (s.onTbu f).xcfg = s.xcfg := rfl
@[simp] theorem State.onTbu_sup (s : State) (f : Timebase → Timebase) : (s.onTbu f).sup = s.sup := rfl
@[simp] theorem State.onTbu_stm (s : State) (f : Timebase → Timebase) : (s.onTbu f).stm = s.stm := rfl
@[simp] theorem State.onTbu_fqm (s : State) (f : Timebase → Timebase) : (s.onTbu f).fqm = s.fqm := rfl
@[simp] theorem State.onTbu_kbs (s : State) (f : Timebase → Timebase) : (s.onTbu f).kbs = s.kbs := rfl
@[simp] theorem State.onTbu_prc (s : State) (f : Timebase → Timebase) : (s.onTbu f).prc = s.prc := rfl
@[simp] theorem State.onTbu_puc (s : State) (f : Timebase → Timebase) : (s.onTbu f).puc = s.puc := rfl
@[simp] theorem State.onTbu_mtc (s : State) (f : Timebase → Timebase) : (s.onTbu f).mtc = s.mtc := rfl
@[simp] theorem State.onTbu_cpe (s : State) (f : Timebase → Timebase) : (s.onTbu f).cpe = s.cpe := rfl
@[simp] theorem State.onTbu_pending (s : State) (f : Timebase → Timebase) : (s.onTbu f).pending = s.pending := rfl

@[simp] theorem State.onPrc_tbu (s : State) (f : Printer → Printer) : (s.onPrc f).tbu = s.tbu := rfl
@[simp] theorem State.onPrc_ctr (s : State) (f : Printer → Printer) : (s.onPrc f).ctr = s.ctr := rfl
@[simp] theorem State.onPrc_lu (s : State) (f : Printer → Printer) : (s.onPrc f).lu = s.lu := rfl
@[simp] theorem State.onPrc_identity (s : State) (f : Printer → Printer) : (s.onPrc f).identity = s.identity := rfl
@[simp] theorem State.onPrc_xcfg (s : State) (f : Printer → Printer) : (s.onPrc f).xcfg = s.xcfg := rfl
@[simp] theorem State.onPrc_sup (s : State) (f : Printer → Printer) : (s.onPrc f).sup = s.sup := rfl
@[simp] theorem State.onPrc_stm (s : State) (f : Printer → Printer) : (s.onPrc f).stm = s.stm := rfl
@[simp] theorem State.onPrc_fqm (s : State) (f : Printer → Printer) : (s.onPrc f).fqm = s.fqm := rfl
@[simp] theorem State.onPrc_kbs (s : State) (f : Printer → Printer) : (s.onPrc f).kbs = s.kbs := rfl
@[simp] theorem State.onPrc_puc (s : State) (f : Printer → Printer) : (s.onPrc f).puc = s.puc := rfl
@[simp] theorem State.onPrc_mtc (s : State) (f : Printer → Printer) : (s.onPrc f).mtc = s.mtc := rfl
@[simp] theorem State.onPrc_cpe (s : State) (f : Printer → Printer) : (s.onPrc f).cpe = s.cpe := rfl
@[simp] theorem State.onPrc_pending (s : State) (f : Printer → Printer) : (s.onPrc f).pending = s.pending := rfl

@[simp] theorem State.onPuc_tbu (s : State) (f : Punch → Punch) : (s.onPuc f).tbu = s.tbu := rfl
@[simp] theorem State.onPuc_ctr (s : State) (f : Punch → Punch) : (s.onPuc f).ctr = s.ctr := rfl
@[simp] theorem State.onPuc_lu (s : State) (f : Punch → Punch) : (s.onPuc f).lu = s.lu := rfl
@[simp] theorem State.onPuc_identity (s : State) (f : Punch → Punch) : (s.onPuc f).identity = s.identity := rfl
@[simp] theorem State.onPuc_xcfg (s : State) (f : Punch → Punch) : (s.onPuc f).xcfg = s.xcfg := rfl
@[simp] theorem State.onPuc_sup (s : State) (f : Punch → Punch) : (s.onPuc f).sup = s.sup := rfl
@[simp] theorem State.onPuc_stm (s : State) (f : Punch → Punch) : (s.onPuc f).stm = s.stm := rfl
@[simp] theorem State.onPuc_fqm (s : State) (f : Punch → Punch) : (s.onPuc f).fqm = s.fqm := rfl
@[simp] theorem State.onPuc_kbs (s : State) (f : Punch → Punch) : (s.onPuc f).kbs = s.kbs := rfl
@[simp] theorem State.onPuc_prc (s : State) (f : Punch → Punch) : (s.onPuc f).prc = s.prc := rfl
@[simp] theorem State.onPuc_mtc (s : State) (f : Punch → Punch) : (s.onPuc f).mtc = s.mtc := rfl
@[simp] theorem State.onPuc_cpe (s : State) (f : Punch → Punch) : (s.onPuc f).cpe = s.cpe := rfl
@[simp] theorem State.onPuc_pending (s : State) (f : Punch → Punch) : (s.onPuc f).pending = s.pending := rfl

@[simp] theorem State.enterSup_tbu (s : State) (l : LineId) (st : SupState) : (s.enterSup l st).tbu = s.tbu := rfl
@[simp] theorem State.enterSup_ctr (s : State) (l : LineId) (st : SupState) : (s.enterSup l st).ctr = s.ctr := rfl
@[simp] theorem State.enterSup_lu (s : State) (l : LineId) (st : SupState) : (s.enterSup l st).lu = s.lu := rfl
@[simp] theorem State.enterSup_identity (s : State) (l : LineId) (st : SupState) : (s.enterSup l st).identity = s.identity := rfl
@[simp] theorem State.enterSup_xcfg (s : State) (l : LineId) (st : SupState) : (s.enterSup l st).xcfg = s.xcfg := rfl
@[simp] theorem State.enterSup_stm (s : State) (l : LineId) (st : SupState) : (s.enterSup l st).stm = s.stm := rfl
@[simp] theorem State.enterSup_fqm (s : State) (l : LineId) (st : SupState) : (s.enterSup l st).fqm = s.fqm := rfl
@[simp] theorem State.enterSup_kbs (s : State) (l : LineId) (st : SupState) : (s.enterSup l st).kbs = s.kbs := rfl
@[simp] theorem State.enterSup_prc (s : State) (l : LineId) (st : SupState) : (s.enterSup l st).prc = s.prc := rfl
@[simp] theorem State.enterSup_puc (s : State) (l : LineId) (st : SupState) : (s.enterSup l st).puc = s.puc := rfl
@[simp] theorem State.enterSup_mtc (s : State) (l : LineId) (st : SupState) : (s.enterSup l st).mtc = s.mtc := rfl
@[simp] theorem State.enterSup_cpe (s : State) (l : LineId) (st : SupState) : (s.enterSup l st).cpe = s.cpe := rfl
@[simp] theorem State.enterSup_pending (s : State) (l : LineId) (st : SupState) : (s.enterSup l st).pending = s.pending := rfl

@[simp] theorem State.zeros_tbu (s : State) (n : Nat) : (s.zeros n).tbu = s.tbu := rfl
@[simp] theorem State.zeros_ctr (s : State) (n : Nat) : (s.zeros n).ctr = s.ctr := rfl
@[simp] theorem State.zeros_lu (s : State) (n : Nat) : (s.zeros n).lu = s.lu := rfl
@[simp] theorem State.zeros_identity (s : State) (n : Nat) : (s.zeros n).identity = s.identity := rfl
@[simp] theorem State.zeros_xcfg (s : State) (n : Nat) : (s.zeros n).xcfg = s.xcfg := rfl
@[simp] theorem State.zeros_sup (s : State) (n : Nat) : (s.zeros n).sup = s.sup := rfl
@[simp] theorem State.zeros_stm (s : State) (n : Nat) : (s.zeros n).stm = s.stm := rfl
@[simp] theorem State.zeros_fqm (s : State) (n : Nat) : (s.zeros n).fqm = s.fqm := rfl
@[simp] theorem State.zeros_kbs (s : State) (n : Nat) : (s.zeros n).kbs = s.kbs := rfl
@[simp] theorem State.zeros_prc (s : State) (n : Nat) : (s.zeros n).prc = s.prc := rfl
@[simp] theorem State.zeros_puc (s : State) (n : Nat) : (s.zeros n).puc = s.puc := rfl
@[simp] theorem State.zeros_mtc (s : State) (n : Nat) : (s.zeros n).mtc = s.mtc := rfl
@[simp] theorem State.zeros_pending (s : State) (n : Nat) : (s.zeros n).pending = s.pending := rfl

@[simp] theorem State.setUnit_unit_same (s : State) (l : LineId) (u : LineUnit) : (s.setUnit l u).unit l = u :=
  Pair.get_set_same _ _ _
theorem State.setUnit_unit_ne (s : State) {l k : LineId} (u : LineUnit) (h : k ≠ l) : (s.setUnit l u).unit k = s.unit k :=
  Pair.get_set_ne _ _ h
@[simp] theorem State.setCsv_csv_same (s : State) (l : LineId) (c : Supervisor) : (s.setCsv l c).csv l = c :=
  Pair.get_set_same _ _ _
theorem State.setCsv_csv_ne (s : State) {l k : LineId} (c : Supervisor) (h : k ≠ l) : (s.setCsv l c).csv k = s.csv k :=
  Pair.get_set_ne _ _ h
@[simp] theorem State.setSelector_selector_same (s : State) (l : LineId) (x : Selector) : (s.setSelector l x).selector l = x :=
  Pair.get_set_same _ _ _
theorem State.setSelector_selector_ne (s : State) {l k : LineId} (x : Selector) (h : k ≠ l) : (s.setSelector l x).selector k = s.selector k :=
  Pair.get_set_ne _ _ h
@[simp] theorem State.setFramer_framerOf_same (s : State) (l : LineId) (x : Framer) : (s.setFramer l x).framerOf l = x :=
  Pair.get_set_same _ _ _
theorem State.setFramer_framerOf_ne (s : State) {l k : LineId} (x : Framer) (h : k ≠ l) : (s.setFramer l x).framerOf k = s.framerOf k :=
  Pair.get_set_ne _ _ h
@[simp] theorem State.onUnit_unit_same (s : State) (l : LineId) (f : LineUnit → LineUnit) : (s.onUnit l f).unit l = f (s.unit l) :=
  Pair.get_set_same _ _ _
theorem State.onUnit_unit_ne (s : State) {l k : LineId} (f : LineUnit → LineUnit) (h : k ≠ l) : (s.onUnit l f).unit k = s.unit k :=
  Pair.get_set_ne _ _ h
@[simp] theorem State.onRx_unit_same (s : State) (l : LineId) (f : Receiver → Receiver) : (s.onRx l f).unit l = { s.unit l with rx := f (s.unit l).rx } :=
  Pair.get_set_same _ _ _
theorem State.onRx_unit_ne (s : State) {l k : LineId} (f : Receiver → Receiver) (h : k ≠ l) : (s.onRx l f).unit k = s.unit k :=
  Pair.get_set_ne _ _ h
@[simp] theorem State.onTx_unit_same (s : State) (l : LineId) (f : Transmitter → Transmitter) : (s.onTx l f).unit l = { s.unit l with tx := f (s.unit l).tx } :=
  Pair.get_set_same _ _ _
theorem State.onTx_unit_ne (s : State) {l k : LineId} (f : Transmitter → Transmitter) (h : k ≠ l) : (s.onTx l f).unit k = s.unit k :=
  Pair.get_set_ne _ _ h
@[simp] theorem State.onStats_unit_same (s : State) (l : LineId) (f : LineStats → LineStats) : (s.onStats l f).unit l = { s.unit l with stats := f (s.unit l).stats } :=
  Pair.get_set_same _ _ _
theorem State.onStats_unit_ne (s : State) {l k : LineId} (f : LineStats → LineStats) (h : k ≠ l) : (s.onStats l f).unit k = s.unit k :=
  Pair.get_set_ne _ _ h
@[simp] theorem State.onCsv_csv_same (s : State) (l : LineId) (f : Supervisor → Supervisor) : (s.onCsv l f).csv l = f (s.csv l) :=
  Pair.get_set_same _ _ _
theorem State.onCsv_csv_ne (s : State) {l k : LineId} (f : Supervisor → Supervisor) (h : k ≠ l) : (s.onCsv l f).csv k = s.csv k :=
  Pair.get_set_ne _ _ h
@[simp] theorem State.onTimers_csv_same (s : State) (l : LineId) (f : SupTimers → SupTimers) : (s.onTimers l f).csv l = { s.csv l with timers := f (s.csv l).timers } :=
  Pair.get_set_same _ _ _
theorem State.onTimers_csv_ne (s : State) {l k : LineId} (f : SupTimers → SupTimers) (h : k ≠ l) : (s.onTimers l f).csv k = s.csv k :=
  Pair.get_set_ne _ _ h
@[simp] theorem State.onExch_csv_same (s : State) (l : LineId) (f : Exchange → Exchange) : (s.onExch l f).csv l = { s.csv l with exch := f (s.csv l).exch } :=
  Pair.get_set_same _ _ _
theorem State.onExch_csv_ne (s : State) {l k : LineId} (f : Exchange → Exchange) (h : k ≠ l) : (s.onExch l f).csv k = s.csv k :=
  Pair.get_set_ne _ _ h
@[simp] theorem State.onSelector_selector_same (s : State) (l : LineId) (f : Selector → Selector) : (s.onSelector l f).selector l = f (s.selector l) :=
  Pair.get_set_same _ _ _
theorem State.onSelector_selector_ne (s : State) {l k : LineId} (f : Selector → Selector) (h : k ≠ l) : (s.onSelector l f).selector k = s.selector k :=
  Pair.get_set_ne _ _ h
@[simp] theorem State.onFramer_framerOf_same (s : State) (l : LineId) (f : Framer → Framer) : (s.onFramer l f).framerOf l = f (s.framerOf l) :=
  Pair.get_set_same _ _ _
theorem State.onFramer_framerOf_ne (s : State) {l k : LineId} (f : Framer → Framer) (h : k ≠ l) : (s.onFramer l f).framerOf k = s.framerOf k :=
  Pair.get_set_ne _ _ h

@[simp] theorem State.onMotor_motor_same (s : State) (k : Mech) (f : Motor → Motor) :
    (s.onMotor k f).motor k = f (s.motor k) := Motors.get_set_same _ _ _
theorem State.onMotor_motor_ne (s : State) {k j : Mech} (f : Motor → Motor) (h : j ≠ k) :
    (s.onMotor k f).motor j = s.motor j := Motors.get_set_ne _ _ h

end Sys2Proof.Machine
end

