-- ==== Sys2Proof/Laws/Store.lean ====
section
/-! SUPPORT. What the shared operations of the traffic store can do: they change the records named, the free list, the low
condition, the arrival sequence and the keyboard's store-full flag, and latch events; nothing else. -/

namespace Sys2Proof.Machine

open Sys2Proof

/-! ## Records -/

theorem State.record_setRecord (s : State) (i j : Nat) (r : Option Rec) :
    (s.setRecord i r).record j = if i = j ∧ i < s.stm.recs.length then r else s.record j := by
  simp only [State.record, State.setRecord, List.getElem?_set]
  by_cases h : i = j <;> by_cases k : j < s.stm.recs.length <;> simp [h, k]

theorem State.record_lt {s : State} {i : Nat} {r : Rec} (h : s.record i = some r) : i < s.stm.recs.length := by
  by_contra k
  simp [State.record, List.getElem?_eq_none (Nat.le_of_not_lt k)] at h

theorem State.record_setRecord_ne (s : State) {i j : Nat} (r : Option Rec) (h : i ≠ j) :
    (s.setRecord i r).record j = s.record j := by simp [State.record_setRecord, h]

theorem State.onRecord_eq {s : State} {i : Nat} {r : Rec} (h : s.record i = some r) (f : Rec → Rec) :
    s.onRecord i f = s.setRecord i (some (f r)) := by simp [State.onRecord, h]

theorem State.record_onRecord (s : State) (i j : Nat) (f : Rec → Rec) :
    (s.onRecord i f).record j = if i = j then (s.record j).map f else s.record j := by
  unfold State.onRecord
  split
  · next r h =>
    rw [State.record_setRecord]
    by_cases e : i = j
    · subst e; simp [State.record_lt h, h]
    · simp [e]
  · next h => by_cases e : i = j <;> simp [e]; subst e; simp [h]

/-! ## What a store operation leaves alone -/

/-- `t` differs from `s` only in records of `P` and in what follows from them. -/
structure StoreOnly (P : Nat → Prop) (s t : State) : Prop where
  tbu : t.tbu = s.tbu
  ctr : t.ctr = s.ctr
  lu : t.lu = s.lu
  identity : t.identity = s.identity
  xcfg : t.xcfg = s.xcfg
  sup : t.sup = s.sup
  prc : t.prc = s.prc
  puc : t.puc = s.puc
  mtc : t.mtc = s.mtc
  pending : t.pending = s.pending
  stm : t.stm = { s.stm with recs := t.stm.recs, free := t.stm.free, low := t.stm.low }
  records : ∀ i, ¬ P i → t.record i = s.record i
  fqm : t.fqm = { s.fqm with seq := t.fqm.seq }
  kbs : t.kbs = { s.kbs with storeFull := t.kbs.storeFull }
  cpe : t.cpe = { s.cpe with latches := t.cpe.latches }
  latched : ∀ k, s.cpe.latches.getLsbD k = true → t.cpe.latches.getLsbD k = true

theorem StoreOnly.refl (P : Nat → Prop) (s : State) : StoreOnly P s s := by constructor <;> simp

theorem StoreOnly.trans {P : Nat → Prop} {s t u : State} (a : StoreOnly P s t) (b : StoreOnly P t u) :
    StoreOnly P s u where
  tbu := b.tbu.trans a.tbu
  ctr := b.ctr.trans a.ctr
  lu := b.lu.trans a.lu
  identity := b.identity.trans a.identity
  xcfg := b.xcfg.trans a.xcfg
  sup := b.sup.trans a.sup
  prc := b.prc.trans a.prc
  puc := b.puc.trans a.puc
  mtc := b.mtc.trans a.mtc
  pending := b.pending.trans a.pending
  stm := by rw [b.stm, a.stm]
  records := fun i h => (b.records i h).trans (a.records i h)
  fqm := by rw [b.fqm, a.fqm]
  kbs := by rw [b.kbs, a.kbs]
  cpe := by rw [b.cpe, a.cpe]
  latched := fun k h => b.latched k (a.latched k h)

theorem StoreOnly.mono {P Q : Nat → Prop} {s t : State} (a : StoreOnly P s t) (h : ∀ i, P i → Q i) :
    StoreOnly Q s t where
  tbu := a.tbu
  ctr := a.ctr
  lu := a.lu
  identity := a.identity
  xcfg := a.xcfg
  sup := a.sup
  prc := a.prc
  puc := a.puc
  mtc := a.mtc
  pending := a.pending
  stm := a.stm
  records := fun i k => a.records i (fun p => k (h i p))
  fqm := a.fqm
  kbs := a.kbs
  cpe := a.cpe
  latched := a.latched

theorem StoreOnly.running {P : Nat → Prop} {s t : State} (a : StoreOnly P s t) : t.running = s.running := by
  simp [State.running, a.tbu]

theorem latch_mono (s : State) (e : Event) (k : Nat) (h : s.cpe.latches.getLsbD k = true) :
    (s.latch e).cpe.latches.getLsbD k = true := by simp [State.latch, h]

theorem StoreOnly.latch (P : Nat → Prop) (s : State) (e : Event) : StoreOnly P s (s.latch e) := by
  constructor <;> first | rfl | (intros; first | rfl | (apply latch_mono; assumption))

theorem StoreOnly.setRecord (s : State) (i : Nat) (r : Option Rec) : StoreOnly (· = i) s (s.setRecord i r) := by
  constructor <;> first | rfl | (intros; assumption) | skip
  intro j h; exact State.record_setRecord_ne s r (fun e => h e.symm)

theorem StoreOnly.onRecord (s : State) (i : Nat) (f : Rec → Rec) : StoreOnly (· = i) s (s.onRecord i f) := by
  unfold State.onRecord; split
  · exact .setRecord ..
  · exact .refl ..

theorem StoreOnly.setFree (P : Nat → Prop) (s : State) (f : List Nat) :
    StoreOnly P s { s with stm := { s.stm with free := f } } := by constructor <;> first | rfl | (intros; first | rfl | assumption)

theorem StoreOnly.setLow (P : Nat → Prop) (s : State) (b : Bool) :
    StoreOnly P s { s with stm := { s.stm with low := b } } := by constructor <;> first | rfl | (intros; first | rfl | assumption)

theorem StoreOnly.setSeq (P : Nat → Prop) (s : State) (n : Nat) :
    StoreOnly P s { s with fqm := { s.fqm with seq := n } } := by constructor <;> first | rfl | (intros; first | rfl | assumption)

theorem StoreOnly.setStoreFull (P : Nat → Prop) (s : State) (b : Bool) :
    StoreOnly P s { s with kbs := { s.kbs with storeFull := b } } := by constructor <;> first | rfl | (intros; first | rfl | assumption)

theorem evalLow_storeOnly (P : Nat → Prop) (s : State) : StoreOnly P s (evalLow s) := by
  unfold evalLow
  refine .trans ?_ (.setLow ..)
  split
  · exact .latch ..
  · exact .refl ..

theorem unreservedRose_storeOnly (P : Nat → Prop) (s : State) : StoreOnly P s (unreservedRose s) :=
  .trans (.setStoreFull ..) (evalLow_storeOnly ..)

theorem settleSequence_storeOnly (P : Nat → Prop) (s : State) : StoreOnly P s (settleSequence s) := by
  unfold settleSequence; split
  · exact .setSeq ..
  · exact .refl ..

theorem enqueue_storeOnly (s : State) (d : Deliv) (i : Nat) : StoreOnly (· = i) s (enqueue s d i) := by
  unfold enqueue; split
  · exact .refl ..
  · split
    · exact .refl ..
    · exact .trans (.setRecord ..) (.setSeq ..)

theorem dequeue_storeOnly (s : State) (d : Deliv) (i : Nat) : StoreOnly (· = i) s (dequeue s d i) :=
  .trans (.onRecord ..) (settleSequence_storeOnly ..)

theorem releaseRecord_storeOnly (s : State) (i : Nat) : StoreOnly (· = i) s (releaseRecord s i) := by
  unfold releaseRecord; split
  · exact .refl ..
  · exact .trans (.setRecord ..) (.trans (.setFree ..) (.trans (settleSequence_storeOnly ..) (unreservedRose_storeOnly ..)))

theorem releaseIfDone_storeOnly (s : State) (i : Nat) : StoreOnly (· = i) s (releaseIfDone s i) := by
  unfold releaseIfDone
  split
  · exact .refl ..
  · split
    · exact .refl ..
    · split
      · split
        · exact .setRecord ..
        · exact releaseRecord_storeOnly ..
      · exact .refl ..
    · split
      · exact .refl ..
      · exact releaseRecord_storeOnly ..

theorem startGrant_storeOnly (s : State) (d : Deliv) (i : Nat) : StoreOnly (· = i) s (startGrant s d i) := .onRecord ..

theorem endGrant_storeOnly (s : State) (d : Deliv) (i : Nat) : StoreOnly (· = i) s (endGrant s d i) :=
  .trans (.onRecord ..) (releaseIfDone_storeOnly ..)

theorem completeDelivery_storeOnly (s : State) (d : Deliv) (i : Nat) : StoreOnly (· = i) s (completeDelivery s d i) :=
  .trans (.trans (.onRecord ..) (dequeue_storeOnly ..)) (endGrant_storeOnly ..)

theorem advanceCursor_storeOnly (s : State) (d : Deliv) (i : Nat) : StoreOnly (· = i) s (advanceCursor s d i) := .onRecord ..

/-! ## The cells of the store (R51) -/

/-- A list in canonical form, taken apart at its first entry. -/
theorem Memory.wf_cons (c : Host.Cell) (m : List Host.Cell) :
    Memory.wf (c :: m) = true ↔ c.2 ≠ unlisted ∧ (∀ d ∈ m.head?, c.1 < d.1) ∧ Memory.wf m = true := by
  cases m <;> simp [Memory.wf, and_assoc]

theorem Memory.read_below (m : List Host.Cell) (a : Nat) (h : Memory.wf m = true) (k : ∀ c ∈ m.head?, a < c.1) :
    Memory.read m a = unlisted := by
  induction m with
  | nil => rfl
  | cons c m ih =>
    have hc := k c (by simp)
    obtain ⟨-, hd, hw⟩ := (Memory.wf_cons c m).1 h
    simp only [Memory.read, Nat.ne_of_gt hc, if_false]
    exact ih hw fun d hm => Nat.lt_trans hc (hd d hm)

theorem Memory.read_write (m : List Host.Cell) (h : Memory.wf m = true) (a b : Nat) (v : BitVec 8) :
    Memory.read (Memory.write m a v) b = if b = a then v else Memory.read m b := by
  induction m with
  | nil =>
    unfold Memory.write
    by_cases e : v = unlisted <;> by_cases k : b = a <;> simp [e, k, Memory.read, Ne.symm]
  | cons c m ih =>
    obtain ⟨-, hd, hw⟩ := (Memory.wf_cons c m).1 h
    simp only [Memory.write]
    by_cases k : b = a
    · subst k
      rw [if_pos rfl]
      split
      · next l =>
        split
        · next e => rw [e]; exact Memory.read_below _ _ h (by simpa using l)
        · simp [Memory.read]
      · split
        · next e =>
          split
          · next ev => rw [ev]; exact Memory.read_below _ _ hw (by rw [e]; exact hd)
          · simp [Memory.read]
        · next e =>
          simp only [Memory.read]
          rw [if_neg (fun j => e j.symm), ih hw, if_pos rfl]
    · rw [if_neg k]
      split
      · split
        · rfl
        · simp [Memory.read, Ne.symm k]
      · split
        · next e =>
          have : c.1 ≠ b := by omega
          split <;> simp [Memory.read, this, Ne.symm k]
        · simp only [Memory.read]
          rw [ih hw, if_neg k]

theorem Memory.write_wf_head (m : List Host.Cell) (h : Memory.wf m = true) (a : Nat) (v : BitVec 8) :
    Memory.wf (Memory.write m a v) = true ∧
      ∀ d ∈ (Memory.write m a v).head?, a ≤ d.1 ∨ ∃ c ∈ m.head?, c.1 ≤ d.1 := by
  induction m with
  | nil => unfold Memory.write; split <;> simp_all [Memory.wf]
  | cons c m ih =>
    obtain ⟨hc, hd, hw⟩ := (Memory.wf_cons c m).1 h
    simp only [Memory.write]
    split
    · next l =>
      split
      · exact ⟨h, by simp⟩
      · next e => exact ⟨(Memory.wf_cons _ _).2 ⟨e, by simpa using l, h⟩, by simp⟩
    · split
      · next e =>
        split
        · exact ⟨hw, fun d k => .inl (by have := hd d k; omega)⟩
        · next n => exact ⟨(Memory.wf_cons _ _).2 ⟨n, by rw [e]; exact hd, hw⟩, by simp⟩
      · obtain ⟨w, k⟩ := ih hw
        refine ⟨(Memory.wf_cons _ _).2 ⟨hc, fun d j => ?_, w⟩, by simp⟩
        rcases k d j with l | ⟨x, hx, l⟩
        · omega
        · have := hd x hx; omega

/-- Every write keeps the canonical form. -/
theorem Memory.write_wf (m : List Host.Cell) (h : Memory.wf m = true) (a : Nat) (v : BitVec 8) :
    Memory.wf (Memory.write m a v) = true := (Memory.write_wf_head m h a v).1

theorem reset_cells_wf : Memory.wf State.reset.stm.cells = true := rfl

end Sys2Proof.Machine
end

