-- ==== Sys2Proof/Laws/Yield.lean ====
section
/-! SUPPORT. What settling makes of the yield timer (R153): the steps of the other deliverers leave the printer's view of
every record as it is, and the printer's own steps in TEXT only move its cursor. -/

namespace Sys2Proof.Machine

open Sys2Proof

/-! ## The printer's view of the records -/

/-- A record as the printer sees it stays: its text, print cursor and print stop, and whether it is OPEN; only one that is
not OPEN may go. -/
def RecStands : Option Rec → Option Rec → Prop
  | none, none => True
  | none, some _ => False
  | some r, none => r.state ≠ .opened
  | some r, some q => q.length = r.length ∧ q.chain = r.chain ∧ q.cursor.print = r.cursor.print ∧
      q.stops.print = r.stops.print ∧ (q.state = .opened ↔ r.state = .opened)

theorem RecStands.refl (x : Option Rec) : RecStands x x := by cases x <;> simp [RecStands]

theorem RecStands.trans {x y z : Option Rec} (a : RecStands x y) (b : RecStands y z) : RecStands x z := by
  cases x <;> cases y <;> cases z <;> simp_all [RecStands]

/-- The printer and its view of every record stay. -/
structure PrintStands (s t : State) : Prop where
  prc : t.prc = s.prc
  cells : t.stm.cells = s.stm.cells
  records : ∀ i, RecStands (s.record i) (t.record i)

variable {s t u : State}

theorem PrintStands.refl (s : State) : PrintStands s s := ⟨rfl, rfl, fun _ => .refl _⟩

theorem PrintStands.trans (a : PrintStands s t) (b : PrintStands t u) : PrintStands s u :=
  ⟨b.prc.trans a.prc, b.cells.trans a.cells, fun i => (a.records i).trans (b.records i)⟩

theorem PrintStands.of_recs (a : t.prc = s.prc) (b : t.stm.cells = s.stm.cells) (c : t.stm.recs = s.stm.recs) :
    PrintStands s t := ⟨a, b, fun i => by unfold State.record; rw [c]; exact .refl _⟩

/-- The same after a change that the printer does not see. -/
theorem PrintStands.after (b : PrintStands t u) (x : t.prc = s.prc) (y : t.stm.cells = s.stm.cells)
    (z : t.stm.recs = s.stm.recs) : PrintStands s u := (PrintStands.of_recs x y z).trans b

theorem PrintStands.setRecord {i : Nat} {x : Option Rec} (h : RecStands (s.record i) x) :
    PrintStands s (s.setRecord i x) := by
  refine ⟨rfl, rfl, fun j => ?_⟩
  rw [State.record_setRecord]
  split
  · next e => rw [← e.1]; exact h
  · exact .refl _

theorem PrintStands.onRecord {i : Nat} {f : Rec → Rec} (h : ∀ r, RecStands (some r) (some (f r))) :
    PrintStands s (s.onRecord i f) := by
  unfold State.onRecord; split
  · next r e => exact .setRecord (by rw [e]; exact h r)
  · exact .refl s

theorem evalLow_stands (s : State) : PrintStands s (evalLow s) := by
  unfold evalLow
  refine .of_recs ?_ ?_ ?_ <;> simp only <;> split <;> rfl

theorem settleSequence_stands (s : State) : PrintStands s (settleSequence s) := by
  unfold settleSequence
  split
  · exact .of_recs rfl rfl rfl
  · exact .refl s

theorem releaseRecord_stands {i : Nat} {r : Rec} (e : s.record i = some r) (h : r.state ≠ .opened) :
    PrintStands s (releaseRecord s i) := by
  unfold releaseRecord
  rw [e]
  have a : PrintStands s (s.setRecord i none) := .setRecord (by rw [e]; exact h)
  have b : PrintStands s { s.setRecord i none with stm := { (s.setRecord i none).stm with free := s.stm.free ++ r.chain } } :=
    a.trans (.of_recs rfl rfl rfl)
  have c := b.trans (settleSequence_stands _)
  have d (u : State) : PrintStands u (unreservedRose u) := by
    unfold unreservedRose
    exact PrintStands.after (evalLow_stands _) rfl rfl rfl
  exact c.trans (d _)

theorem releaseIfDone_stands (s : State) (i : Nat) : PrintStands s (releaseIfDone s i) := by
  unfold releaseIfDone
  split
  · exact .refl s
  · next r e =>
    split
    · exact .refl s
    · next k =>
      split
      · split
        · exact .setRecord (by rw [e]; simp [RecStands, k])
        · exact releaseRecord_stands e (by simp [k])
      · exact .refl s
    · next k =>
      split
      · exact .refl s
      · exact releaseRecord_stands e (by simp [k])

theorem endGrant_stands {d : Deliv} (h : d ≠ .print) (s : State) (i : Nat) : PrintStands s (endGrant s d i) := by
  unfold endGrant
  refine PrintStands.trans (.onRecord fun r => ?_) (releaseIfDone_stands _ _)
  cases d <;> simp_all [RecStands, Four.set]

theorem completeDelivery_stands {d : Deliv} (h : d ≠ .print) (s : State) (i : Nat) :
    PrintStands s (completeDelivery s d i) := by
  unfold completeDelivery dequeue
  refine .trans (.trans (.onRecord fun r => ?_) (.trans (.onRecord fun r => ?_) (settleSequence_stands _)))
    (endGrant_stands h _ _) <;> simp [RecStands]

theorem advanceCursor_stands {d : Deliv} (h : d ≠ .print) (s : State) (i : Nat) :
    PrintStands s (advanceCursor s d i) := by
  unfold advanceCursor
  refine .onRecord fun r => ?_
  cases d <;> simp_all [RecStands, Four.set]

/-! ## The selectors' and the punch's steps -/

theorem sendOf_ne (l : LineId) : sendOf l ≠ .print := by cases l <;> simp [sendOf]

theorem placeWru_stands (s : State) (l : LineId) : PrintStands s (placeWru s l) := .of_recs rfl rfl rfl

theorem seqDone_stands (s : State) (l : LineId) (k : SeqKind) : PrintStands s (seqDone s l k) := by
  unfold seqDone
  cases k <;> simp only <;> split <;> first | exact .refl s | skip
  · exact .of_recs rfl rfl rfl
  · exact .of_recs rfl rfl rfl
  · unfold startPageTimer; split
    · exact .refl s
    · exact .of_recs rfl rfl rfl
  · unfold startPageTimer; split
    · exact .refl s
    · exact .of_recs rfl rfl rfl
  · unfold exchangeDone endSilentProgress
    simp only
    split
    · exact .of_recs rfl rfl rfl
    · exact .of_recs rfl rfl rfl

theorem answerbackEnd_stands (s : State) (l : LineId) : PrintStands s (answerbackEnd s l) := by
  unfold answerbackEnd
  simp only
  split <;> exact .of_recs rfl rfl rfl

theorem advanceSend_stands (s : State) (l : LineId) (g : SendGrant) : PrintStands s (advanceSend s l g) := by
  unfold advanceSend
  split
  · exact .refl s
  · simp only
    have a := advanceCursor_stands (sendOf_ne l) s g.index
    split
    · exact a.trans (.of_recs rfl rfl rfl)
    · exact a

theorem consumeItem_stands (s : State) (l : LineId) (f : Flight) : PrintStands s (consumeItem s l f) := by
  unfold consumeItem
  split
  any_goals exact .of_recs rfl rfl rfl
  split
  · exact advanceSend_stands ..
  · exact .refl s

theorem sendStep_stands {l : LineId} (k : sendStep s l = some t) : PrintStands s t := by
  unfold sendStep at k
  simp only at k
  split at k
  · next u e =>
    cases k
    split at e
    · next g hg =>
      split at e
      · cases e
        unfold stopSend
        exact PrintStands.after (endGrant_stands (sendOf_ne l) _ _) rfl rfl rfl
      · cases e
    · cases e
  · split at k
    · cases k
    · simp only [Option.orElse_eq_orElse, Option.orElse_eq_or, Option.or_eq_some_iff] at k
      rcases k with k | ⟨-, k | ⟨-, k | ⟨-, k | ⟨-, k⟩⟩⟩⟩
      · split at k
        · cases k; exact PrintStands.after (seqDone_stands ..) rfl rfl rfl
        · cases k
        · cases k
      · split at k
        · cases k; exact answerbackEnd_stands ..
        · cases k
        · cases k
      · split at k
        · cases k; exact .of_recs rfl rfl rfl
        · cases k
      · split at k
        · cases k
        · split at k
          · cases k; exact PrintStands.after (completeDelivery_stands (sendOf_ne l) _ _) rfl rfl rfl
          · split at k
            · cases k
            · split at k
              · cases k
              · split at k
                · cases k; exact PrintStands.after (endGrant_stands (sendOf_ne l) _ _) rfl rfl rfl
                · cases k; exact .of_recs rfl rfl rfl
          · cases k
          · cases k
      · split at k
        · split at k
          · cases k
          · split at k
            · cases k
              exact PrintStands.after (consumeItem_stands ..) rfl rfl rfl
            · cases k
        · cases k

theorem sendSweep_stands (n : Nat) (s : State) (l : LineId) : PrintStands s (sendSweep n s l) := by
  induction n generalizing s with
  | zero => exact .refl s
  | succ n ih =>
    unfold sendSweep
    split
    · exact .refl s
    · next k => exact (sendStep_stands k).trans (ih _)

theorem punchStep_stands (k : punchStep s = some t) : PrintStands s t := by
  have h : Deliv.punch ≠ .print := by simp
  unfold punchStep at k
  split at k
  · cases k
  · cases k
  · split at k
    · split at k
      · cases k
      · cases k
        unfold endPunchGrant
        split
        · exact .refl s
        · exact PrintStands.after (endGrant_stands h _ _) rfl rfl rfl
    · split at k
      · cases k
      · simp only at k
        split at k
        · cases k; exact .of_recs rfl rfl rfl
        · cases k; exact .of_recs rfl rfl rfl
        · cases k; exact .of_recs rfl rfl rfl
        · split at k
          · cases k
          · split at k
            · cases k; exact PrintStands.after (advanceCursor_stands h _ _) rfl rfl rfl
            · split at k
              · cases k
              · cases k; exact .of_recs rfl rfl rfl
              · cases k; exact .of_recs rfl rfl rfl
        · split at k
          · cases k; exact .of_recs rfl rfl rfl
          · cases k; exact .of_recs rfl rfl rfl
        · cases k; exact PrintStands.after (completeDelivery_stands h _ _) rfl rfl rfl

theorem punchSweep_stands (n : Nat) (s : State) : PrintStands s (punchSweep n s) := by
  induction n generalizing s with
  | zero => exact .refl s
  | succ n ih =>
    unfold punchSweep
    split
    · exact .refl s
    · next k => exact (punchStep_stands k).trans (ih _)

theorem PrintStands.runs (a : PrintStands s t) : YieldRuns t ↔ YieldRuns s := by
  constructor
  · rintro ⟨g, r, h1, h2, h3, h4, h5, h6, h7⟩
    have k := a.records g.index
    rw [h2] at k
    cases e : s.record g.index with
    | none => rw [e] at k; exact k.elim
    | some q =>
      rw [e] at k
      obtain ⟨k1, -, k3, -, k5⟩ := k
      exact ⟨g, q, a.prc ▸ h1, e, h3, h4, k5.1 h5, by rw [← k3, h6, k1], a.prc ▸ h7⟩
  · rintro ⟨g, r, h1, h2, h3, h4, h5, h6, h7⟩
    have k := a.records g.index
    rw [h2] at k
    cases e : t.record g.index with
    | none => rw [e] at k; exact absurd h5 k
    | some q =>
      rw [e] at k
      obtain ⟨k1, -, k3, -, k5⟩ := k
      exact ⟨g, q, a.prc.symm ▸ h1, e, h3, h4, k5.2 h5, by rw [k3, h6, k1], a.prc.symm ▸ h7⟩

/-! ## The printer's steps -/

theorem yieldRuns_iff (s : State) : yieldRuns s = true ↔ YieldRuns s := by
  unfold yieldRuns YieldRuns
  cases e : s.prc.grant with
  | none => simp
  | some g =>
    cases k : s.record g.index with
    | none => simp [k]
    | some r => simp [k, and_assoc]; tauto

/-- The grant is past its text: the timer's conditions cannot come to hold by steps that need no operation. -/
def TextOver (s : State) : Prop := ∀ g, s.prc.grant = some g → g.phase = .trailer ∨ g.phase = .yielding

theorem TextOver.not_runs (h : TextOver s) : ¬ YieldRuns s := by
  rintro ⟨g, r, h1, -, h3, -⟩
  rcases h g h1 with k | k <;> rw [h3] at k <;> cases k

theorem TextOver.of_none (h : s.prc.grant = none) : TextOver s := fun g e => by rw [h] at e; cases e

theorem TextOver.of_grant (h : TextOver s) (e : t.prc.grant = s.prc.grant) : TextOver t := fun g k => h g (e ▸ k)

theorem endPrintGrant_over (s : State) : (endPrintGrant s).prc.grant = none := by
  unfold endPrintGrant
  split
  · assumption
  · rw [(endGrant_storeOnly ..).prc]

theorem endYield_over (s : State) (g : PrintGrant) : (endYield s g).prc.grant = none := by
  unfold endYield; exact endPrintGrant_over _

theorem endPhase_over {g : PrintGrant} {r : Rec} (p : g.phase = .text ∨ g.phase = .trailer ∨ g.phase = .yielding)
    (k : endPhase s g r = some t) : TextOver t := by
  unfold endPhase at k
  split at k
  · next e => rw [e] at p; simp at p
  · next e => rw [e] at p; simp at p
  · split at k
    · cases k
    · cases k; intro x h; cases h; exact .inl rfl
    · cases k; intro x h; cases h; exact .inl rfl
  · cases k; intro x h; rw [endYield_over] at h; cases h
  · cases k; intro x h; rw [(completeDelivery_storeOnly ..).prc] at h; cases h

theorem TextOver.step (h : TextOver s) (k : printStep s = some t) : TextOver t := by
  unfold printStep at k
  split at k
  · cases k
  · cases k
  · next g e _ =>
    have p := h g e
    split at k
    · cases k; intro x h; rw [endPrintGrant_over] at h; cases h
    · split at k
      · cases k
      · split at k
        · cases k
        · cases k
        · split at k
          · cases k
          · split at k
            · next q => rw [q] at p; simp at p
            all_goals
              split at k
              · exact endPhase_over (.inr p) k
              · cases k; intro x h; cases h; exact p

theorem TextOver.sweep (n : Nat) (h : TextOver s) : TextOver (printSweep n s) := by
  induction n generalizing s with
  | zero => exact h
  | succ n ih =>
    unfold printSweep
    split
    · exact h
    · next k => exact ih (h.step k)

/-- In TEXT, with nothing in flight, the printer waits for the owed CR, for a next operation, or at an OPEN record's
length. -/
theorem text_waits {g : PrintGrant} {r : Rec} (e : s.prc.grant = some g) (o : s.prc.op = none)
    (hr : s.record g.index = some r) (p : g.phase = .text) :
    printStep s = none ↔ r.stops.print = false ∧ (s.prc.owedCr = true ∨ g.ops ≠ [] ∨
      (r.cursor.print < r.length ∧ charOps s.prc (readChar s r r.cursor.print) ≠ []) ∨
      (r.length ≤ r.cursor.print ∧ r.state = .opened)) := by
  have n : nextItemOps s g =
      if r.cursor.print < r.length then charOps s.prc (readChar s r r.cursor.print) else [] := by
    simp [nextItemOps, hr, p]
  have w : stopAsked s .print g.index = r.stops.print := by simp [stopAsked, hr, Four.get]
  unfold printStep
  rw [e, o]
  simp only [w, hr, n, p]
  cases r.stops.print <;> cases s.prc.owedCr <;> cases g.ops <;> simp
  by_cases c : r.cursor.print < r.length
  · simp only [c, if_true]
    cases charOps s.prc (readChar s r r.cursor.print) <;> simp [c]
  · have c' : r.length ≤ r.cursor.print := by omega
    simp only [c, if_false, false_and, false_or, c', true_and]
    unfold endPhase
    rw [p]
    cases r.state <;> simp

/-- In TEXT the printer's steps move its cursor over characters without operations, up to the first thing that waits, or
bring the grant past its text. -/
theorem text_sweep (n : Nat) {s : State} {g : PrintGrant} {r : Rec} (e : s.prc.grant = some g)
    (hr : s.record g.index = some r) (p : g.phase = .text) (l : r.length - r.cursor.print < n) :
    TextOver (printSweep n s) ∨ ((printSweep n s).prc = s.prc ∧
      (∃ q, (printSweep n s).record g.index = some q) ∧ printStep (printSweep n s) = none) := by
  induction n generalizing s r with
  | zero => omega
  | succ n ih =>
    unfold printSweep
    split
    · next k => exact .inr ⟨rfl, ⟨r, hr⟩, k⟩
    · next t k =>
      unfold printStep at k
      split at k
      · cases k
      · cases k
      · next g' e' _ =>
        rw [e] at e'; cases e'
        split at k
        · cases k; exact .inl (TextOver.sweep n fun x h => by rw [endPrintGrant_over] at h; cases h)
        · split at k
          · cases k
          · simp only [hr, p] at k
            split at k
            · cases k
            · next k' => cases k
            · next q k' =>
              cases k'
              split at k
              · cases k
              · split at k
                · next c =>
                  cases k
                  have q : (advanceCursor s .print g.index).prc = s.prc := (advanceCursor_storeOnly ..).prc
                  have hr' : (advanceCursor s .print g.index).record g.index =
                      some { r with cursor := r.cursor.set .print (r.cursor.get .print + 1) } := by
                    unfold advanceCursor; rw [State.record_onRecord]; simp [hr]
                  rw [← q]
                  exact ih (by rw [q]; exact e) hr' (by simp only [Four.set, Four.get]; omega)
                · exact .inl (TextOver.sweep n (endPhase_over (.inl p) k))

/-- Where the timer runs the printer waits, or its grant ends by a stop request, the timer with it. -/
theorem runs_sweep (n : Nat) {s : State} (h : YieldRuns s) : printSweep n s = s ∨
    ((printSweep n s).prc.grant = none ∧ (printSweep n s).prc.yieldTimer = none ∧
      (printSweep n s).prc.starved = false) := by
  obtain ⟨g, r, h1, h2, h3, h4, h5, h6, h7⟩ := h
  cases n with
  | zero => exact .inl rfl
  | succ n =>
    by_cases st : r.stops.print = true
    · right
      have w : stopAsked s .print g.index = true := by simp [stopAsked, h2, Four.get, st]
      have k : printStep s = some (endPrintGrant s) := by unfold printStep; rw [h1, h7]; simp [w]
      have p : (endPrintGrant s).prc = { s.prc with grant := none, yieldTimer := none, starved := false } := by
        unfold endPrintGrant; rw [h1]; simp only; rw [(endGrant_storeOnly ..).prc]
      have z : printStep (endPrintGrant s) = none := by unfold printStep; rw [endPrintGrant_over]
      have : printSweep (n + 1) s = endPrintGrant s := by
        simp only [printSweep, k]
        cases n <;> simp [printSweep, z]
      rw [this, p]
      exact ⟨rfl, rfl, rfl⟩
    · left
      have k : printStep s = none :=
        (text_waits h1 h7 h2 h3).2 ⟨by simpa using st, .inr (.inr (.inr ⟨by omega, h5⟩))⟩
      simp [printSweep, k]

/-- A timer that is clear stays clear through the printer's steps. -/
theorem endPrintGrant_clear (h : s.prc.yieldTimer = none ∧ s.prc.starved = false) :
    (endPrintGrant s).prc.yieldTimer = none ∧ (endPrintGrant s).prc.starved = false := by
  unfold endPrintGrant
  split
  · exact h
  · rw [(endGrant_storeOnly ..).prc]; exact ⟨rfl, rfl⟩

theorem endPhase_clear {g : PrintGrant} {r : Rec} (h : s.prc.yieldTimer = none ∧ s.prc.starved = false)
    (k : endPhase s g r = some t) : t.prc.yieldTimer = none ∧ t.prc.starved = false := by
  unfold endPhase at k
  split at k
  · cases k; exact h
  · cases k; exact h
  · split at k
    · cases k
    · cases k; exact h
    · cases k; exact h
  · cases k
    have a : (markPrintResume s g.index).prc = s.prc := (StoreOnly.onRecord ..).prc
    exact endPrintGrant_clear (s := markPrintResume s g.index) (by rw [a]; exact h)
  · cases k; rw [(completeDelivery_storeOnly ..).prc]; exact ⟨rfl, rfl⟩

theorem printStep_clear (h : s.prc.yieldTimer = none ∧ s.prc.starved = false) (k : printStep s = some t) :
    t.prc.yieldTimer = none ∧ t.prc.starved = false := by
  unfold printStep at k
  split at k
  · cases k
  · cases k
  · split at k
    · cases k; exact endPrintGrant_clear h
    · split at k
      · cases k
      · split at k
        · cases k
        · cases k
        · split at k
          · cases k
          · split at k
            · split at k
              · cases k; rw [(advanceCursor_storeOnly ..).prc]; exact h
              · exact endPhase_clear h k
            all_goals
              split at k
              · exact endPhase_clear h k
              · cases k; exact h

theorem printSweep_clear (n : Nat) (h : s.prc.yieldTimer = none ∧ s.prc.starved = false) :
    (printSweep n s).prc.yieldTimer = none ∧ (printSweep n s).prc.starved = false := by
  induction n generalizing s with
  | zero => exact h
  | succ n ih =>
    unfold printSweep
    split
    · exact h
    · next k => exact ih (printStep_clear h k)

/-! ## The whole -/

theorem stopYield_eq (s : State) : ∃ y v, stopYield s = { s with prc := { s.prc with yieldTimer := y, starved := v } } := by
  unfold stopYield
  split
  · exact ⟨s.prc.yieldTimer, s.prc.starved, rfl⟩
  · exact ⟨none, false, rfl⟩

theorem followHeat_eq (s : State) : ∃ h, followHeat s = { s with prc := { s.prc with heatHold := h } } := by
  unfold followHeat
  split
  · split
    · exact ⟨true, rfl⟩
    · exact ⟨s.prc.heatHold, rfl⟩
  all_goals exact ⟨s.prc.heatHold, rfl⟩

theorem stopYield_runs (h : YieldRuns s) : stopYield s = s := by
  unfold stopYield; rw [if_pos ((yieldRuns_iff s).2 h)]

theorem stopYield_clear (h : ¬ YieldRuns s) :
    stopYield s = { s with prc := { s.prc with yieldTimer := none, starved := false } } := by
  unfold stopYield; rw [if_neg (fun k => h ((yieldRuns_iff s).1 k))]

/-- The yield timer where its conditions hold: it runs on or starts, or a starved record begins its yield. -/
theorem followYield_runs (h : YieldRuns s) :
    (followYield s = { s with prc := { s.prc with
      yieldTimer := some (s.prc.yieldTimer.getD (0, 1000 * s.prc.cfg.yieldS)) } }) ∨
    (s.prc.starved = true ∧ TextOver (followYield s) ∧ (followYield s).prc.yieldTimer = none ∧
      (followYield s).prc.starved = false) := by
  obtain ⟨g, r, h1, -⟩ := id h
  unfold followYield
  rw [if_pos ((yieldRuns_iff s).2 h)]
  simp only [h1]
  split
  · next k =>
    right
    simp only [Bool.and_eq_true] at k
    exact ⟨k.1, fun x hx => by cases hx; exact .inr rfl, rfl, rfl⟩
  · left; rw [← h1]

/-- From where the conditions fail the yield timer is clear at the end, and where they hold the printer stays put or ends
its grant. -/
theorem follow_sweep (n : Nat) {s : State} (h : YieldRuns s) :
    let t := printSweep n (followYield s)
    (¬ YieldRuns t ∧ t.prc.yieldTimer = none ∧ t.prc.starved = false) ∨
      (YieldRuns t ∧ t.prc.yieldTimer = some (s.prc.yieldTimer.getD (0, 1000 * s.prc.cfg.yieldS)) ∧
        t.prc.starved = s.prc.starved) := by
  rcases followYield_runs h with e | ⟨-, o, c⟩
  · have k : YieldRuns (followYield s) := by rw [e]; exact h
    rcases runs_sweep n k with w | ⟨w, c⟩
    · right; simp only [w]; rw [e]; exact ⟨h, rfl, rfl⟩
    · left; exact ⟨(TextOver.of_none w).not_runs, c⟩
  · left
    exact ⟨(o.sweep n).not_runs, printSweep_clear n c⟩

/-- The printer, still in its text, has no step once the punch has taken its own. -/
theorem PrintStands.waits {g : PrintGrant} {q : Rec} (a : PrintStands s t) (e : s.prc.grant = some g)
    (hq : s.record g.index = some q) (p : g.phase = .text) (w : printStep s = none) (n : Nat) :
    printSweep n t = t ∨ ¬ YieldRuns (printSweep n t) := by
  have e' : t.prc.grant = some g := by rw [a.prc]; exact e
  cases n with
  | zero => exact .inl rfl
  | succ n =>
    cases o : s.prc.op with
    | some x =>
      left
      have : printStep t = none := by unfold printStep; rw [e', show t.prc.op = some x by rw [a.prc]; exact o]
      simp [printSweep, this]
    | none =>
      have o' : t.prc.op = none := by rw [a.prc]; exact o
      have k := a.records g.index
      rw [hq] at k
      cases hx : t.record g.index with
      | none =>
        right
        have z : printStep t = some (endPrintGrant t) := by
          unfold printStep; rw [e', o']; simp [stopAsked, hx]
        simp only [printSweep, z]
        exact (TextOver.sweep n fun x h => by rw [endPrintGrant_over] at h; cases h).not_runs
      | some x =>
        left
        rw [hx] at k
        obtain ⟨k1, k2, k3, k4, k5⟩ := k
        have c : readChar t x x.cursor.print = readChar s q q.cursor.print := by
          unfold readChar cellAddr; rw [a.cells, k2, k3]
        have : printStep t = none := by
          rw [text_waits e' o' hx p, c, a.prc, k1, k3, k4, k5]
          exact (text_waits e o hq p).1 w
        simp [printSweep, this]

theorem printSweep_waits (n : Nat) (k : printStep s = none) : printSweep n s = s := by
  cases n <;> simp [printSweep, k]

end Sys2Proof.Machine
end

