-- ==== Sys2Proof/Laws/Settle.lean ====
section
/-! SUPPORT. What settling the selectors and the mechanisms can do, once for each of their operation-free steps. -/

namespace Sys2Proof.Machine

open Sys2Proof

/-! ## Keeping everything but the records of P -/

/-- `Kept` with the records that may change given by P, so that steps can be chained; c asks for what `Kept` says of a
supervisor that has placed nothing. -/
structure KeptBut (c : Prop) (on : LineId → Bool) (P : Nat → Prop) (s t : State) : Prop where
  tbu : t.tbu = s.tbu
  ctr : t.ctr = s.ctr
  identity : t.identity = s.identity
  xcfg : t.xcfg = s.xcfg
  pending : t.pending = s.pending
  unit : ∀ l, t.unit l =
    { s.unit l with stats := { (s.unit l).stats with untranslatable := (t.unit l).stats.untranslatable } }
  quiet : ∀ l, on l = false → t.unit l = s.unit l ∧ t.csv l = s.csv l ∧ t.selector l = s.selector l
  csv : c → ∀ l, NothingPlaced s l →
    NothingPlaced t l ∧ t.csv l = { s.csv l with remaining := (t.csv l).remaining }
  stm : t.stm = { s.stm with recs := t.stm.recs, free := t.stm.free, low := t.stm.low }
  records : ∀ i, ¬ P i → t.record i = s.record i
  granted : (∀ i, Granted on s i → P i) → ∀ i, Granted on t i → P i
  fqm : t.fqm = { s.fqm with seq := t.fqm.seq, sel := t.fqm.sel }
  kbs : t.kbs = { s.kbs with storeFull := t.kbs.storeFull }
  prc : t.prc = { s.prc with grant := t.prc.grant, yieldTimer := t.prc.yieldTimer, starved := t.prc.starved,
                             passOver := t.prc.passOver, heatHold := t.prc.heatHold }
  puc : t.puc = { s.puc with grant := t.puc.grant, untranslatable := t.puc.untranslatable }
  cpe : t.cpe = { s.cpe with latches := t.cpe.latches }
  latched : ∀ k, s.cpe.latches.getLsbD k = true → t.cpe.latches.getLsbD k = true
  mtc : t.mtc = s.mtc

variable {c : Prop} {on : LineId → Bool} {P : Nat → Prop}

theorem KeptBut.refl (s : State) : KeptBut c on P s s := by constructor <;> simp

theorem KeptBut.trans {s t u : State} (a : KeptBut c on P s t) (b : KeptBut c on P t u) : KeptBut c on P s u where
  tbu := b.tbu.trans a.tbu
  ctr := b.ctr.trans a.ctr
  identity := b.identity.trans a.identity
  xcfg := b.xcfg.trans a.xcfg
  pending := b.pending.trans a.pending
  unit := fun l => by rw [b.unit l, a.unit l]
  quiet := fun l h => by
    obtain ⟨x, y, z⟩ := b.quiet l h
    obtain ⟨x', y', z'⟩ := a.quiet l h
    exact ⟨x.trans x', y.trans y', z.trans z'⟩
  csv := fun k l h => by
    obtain ⟨x, y⟩ := a.csv k l h
    obtain ⟨x', y'⟩ := b.csv k l x
    exact ⟨x', by rw [y', y]⟩
  stm := by rw [b.stm, a.stm]
  records := fun i h => (b.records i h).trans (a.records i h)
  granted := fun h => b.granted (a.granted h)
  fqm := by rw [b.fqm, a.fqm]
  kbs := by rw [b.kbs, a.kbs]
  prc := by rw [b.prc, a.prc]
  puc := by rw [b.puc, a.puc]
  cpe := by rw [b.cpe, a.cpe]
  latched := fun k h => b.latched k (a.latched k h)
  mtc := b.mtc.trans a.mtc

theorem KeptBut.of_store {s t : State} (a : StoreOnly P s t) : KeptBut c on P s t where
  tbu := a.tbu
  ctr := a.ctr
  identity := a.identity
  xcfg := a.xcfg
  pending := a.pending
  unit := fun l => by simp [State.unit, a.lu]
  quiet := fun l _ => by
    have := a.fqm
    refine ⟨by simp [State.unit, a.lu], by simp [State.csv, a.sup], ?_⟩
    unfold State.selector; rw [this]
  csv := fun _ l h => by
    refine ⟨?_, by simp [State.csv, a.sup]⟩
    have := a.fqm
    unfold NothingPlaced State.selector at *; rw [this]; exact h
  stm := a.stm
  records := a.records
  granted := fun h i k => by
    apply h
    have := a.fqm
    unfold Granted State.selector at *
    rw [this, a.prc, a.puc] at k
    exact k
  fqm := by conv_lhs => rw [a.fqm]
            rw [show t.fqm.sel = s.fqm.sel by rw [a.fqm]]
  kbs := a.kbs
  prc := by rw [a.prc]
  puc := by rw [a.puc]
  cpe := a.cpe
  latched := a.latched
  mtc := a.mtc

/-- A store operation on one record of P. -/
theorem KeptBut.of_one {s t : State} {i : Nat} (a : StoreOnly (· = i) s t) (h : P i) : KeptBut c on P s t :=
  .of_store (a.mono fun _ e => e ▸ h)

/-- The printer's grant and yield change, no record entering the grants. -/
theorem KeptBut.setPrc (s : State) (g : Option PrintGrant) (y : Option (Nat × Nat)) (v : Bool) (o : Option Nat) (w : Bool)
    (h : ∀ x, g = some x → ∃ x', s.prc.grant = some x' ∧ x'.index = x.index) :
    KeptBut c on P s
      { s with prc := { s.prc with grant := g, yieldTimer := y, starved := v, passOver := o, heatHold := w } } := by
  constructor <;> first | rfl | (intros; first | rfl | assumption) | skip
  · intro l _; exact ⟨rfl, rfl, rfl⟩
  · intro _ l k; exact ⟨k, rfl⟩
  · intro k i j
    rcases j with ⟨x, e, f⟩ | j | j
    · obtain ⟨x', e', f'⟩ := h x e
      exact k i (.inl ⟨x', e', f'.trans f⟩)
    · exact k i (.inr (.inl j))
    · exact k i (.inr (.inr j))

theorem KeptBut.setPrintGrant (s : State) (g : Option PrintGrant)
    (h : ∀ x, g = some x → ∃ x', s.prc.grant = some x' ∧ x'.index = x.index) :
    KeptBut c on P s (s.setPrintGrant g) :=
  KeptBut.setPrc s g s.prc.yieldTimer s.prc.starved s.prc.passOver s.prc.heatHold h

theorem KeptBut.setPuc (s : State) (g : Option PunchGrant) (n : Nat)
    (h : ∀ x, g = some x → ∃ x', s.puc.grant = some x' ∧ x'.index = x.index) :
    KeptBut c on P s { s with puc := { s.puc with grant := g, untranslatable := n } } := by
  constructor <;> first | rfl | (intros; first | rfl | assumption) | skip
  · intro l _; exact ⟨rfl, rfl, rfl⟩
  · intro _ l k; exact ⟨k, rfl⟩
  · intro k i j
    rcases j with j | ⟨x, e, f⟩ | j
    · exact k i (.inl j)
    · obtain ⟨x', e', f'⟩ := h x e
      exact k i (.inr (.inl ⟨x', e', f'.trans f⟩))
    · exact k i (.inr (.inr j))

theorem KeptBut.setPunchGrant (s : State) (g : Option PunchGrant)
    (h : ∀ x, g = some x → ∃ x', s.puc.grant = some x' ∧ x'.index = x.index) :
    KeptBut c on P s (s.setPunchGrant g) := KeptBut.setPuc s g s.puc.untranslatable h

/-! ## The printer -/

variable {s t : State}

theorem endPrintGrant_kept (h : ∀ i, Granted on s i → P i) : KeptBut c on P s (endPrintGrant s) := by
  unfold endPrintGrant
  split
  · exact .refl s
  · next g e =>
    exact .trans (KeptBut.setPrc s none none false s.prc.passOver s.prc.heatHold (by simp))
      (.of_one (endGrant_storeOnly ..) (h _ (.inl ⟨g, e, rfl⟩)))

theorem endPhase_kept {g : PrintGrant} {r : Rec} (e : s.prc.grant = some g) (h : ∀ i, Granted on s i → P i)
    (k : endPhase s g r = some t) : KeptBut c on P s t := by
  have hg : P g.index := h _ (.inl ⟨g, e, rfl⟩)
  unfold endPhase at k
  split at k
  · cases k; exact .setPrintGrant _ _ (by simp [e])
  · cases k; exact .setPrintGrant _ _ (by simp [e])
  · split at k
    · cases k
    · cases k; exact .setPrintGrant _ _ (by simp [e])
    · cases k; exact .setPrintGrant _ _ (by simp [e])
  · cases k
    unfold endYield
    have a : KeptBut c on P s (markPrintResume s g.index) := .of_one (StoreOnly.onRecord ..) hg
    have b := a.trans (endPrintGrant_kept (a.granted h))
    exact b.trans (KeptBut.setPrc _ _ _ _ _ _ fun x hx => ⟨x, hx, rfl⟩)
  · cases k
    exact .trans (KeptBut.setPrc s none none false s.prc.passOver s.prc.heatHold (by simp))
      (.of_one (completeDelivery_storeOnly ..) hg)

theorem printStep_kept (h : ∀ i, Granted on s i → P i) (k : printStep s = some t) : KeptBut c on P s t := by
  unfold printStep at k
  split at k
  · cases k
  · cases k
  · next g e _ =>
    have hg : P g.index := h _ (.inl ⟨g, e, rfl⟩)
    split at k
    · cases k; exact endPrintGrant_kept h
    · split at k
      · cases k
      · split at k
        · cases k
        · cases k
        · split at k
          · cases k
          · split at k
            · split at k
              · cases k; exact .of_one (advanceCursor_storeOnly ..) hg
              · exact endPhase_kept e h k
            all_goals
              split at k
              · exact endPhase_kept e h k
              · cases k; exact .setPrintGrant _ _ (by simp [e])

theorem printSweep_kept (n : Nat) {s : State} (h : ∀ i, Granted on s i → P i) :
    KeptBut c on P s (printSweep n s) := by
  induction n generalizing s with
  | zero => exact .refl s
  | succ n ih =>
    unfold printSweep
    split
    · exact .refl s
    · next k =>
      have a := printStep_kept (c := c) (on := on) h k
      exact a.trans (ih (a.granted h))

theorem stopYield_kept : KeptBut c on P s (stopYield s) := by
  unfold stopYield
  split
  · exact .refl s
  · exact KeptBut.setPrc s _ _ _ _ _ fun x hx => ⟨x, hx, rfl⟩

theorem followYield_kept : KeptBut c on P s (followYield s) := by
  unfold followYield
  split
  · simp only
    split
    · next g e =>
      split
      · exact KeptBut.setPrc s _ _ _ _ _ (fun x hx => ⟨g, e, by cases hx; rfl⟩)
      · exact KeptBut.setPrc s _ _ _ _ _ fun x hx => ⟨x, hx, rfl⟩
    · exact KeptBut.setPrc s _ _ _ _ _ fun x hx => ⟨x, hx, rfl⟩
  · exact stopYield_kept

theorem followHeat_kept : KeptBut c on P s (followHeat s) := by
  unfold followHeat
  split
  · split
    · exact KeptBut.setPrc s _ _ _ _ _ fun x hx => ⟨x, hx, rfl⟩
    · exact .refl s
  all_goals exact .refl s

/-! ## The punch -/

theorem endPunchGrant_kept (h : ∀ i, Granted on s i → P i) : KeptBut c on P s (endPunchGrant s) := by
  unfold endPunchGrant
  split
  · exact .refl s
  · next g e =>
    exact .trans (.setPunchGrant s none (by simp)) (.of_one (endGrant_storeOnly ..) (h _ (.inr (.inl ⟨g, e, rfl⟩))))

theorem punchStep_kept (h : ∀ i, Granted on s i → P i) (k : punchStep s = some t) : KeptBut c on P s t := by
  unfold punchStep at k
  split at k
  · cases k
  · cases k
  · next g e _ =>
    have hg : P g.index := h _ (.inr (.inl ⟨g, e, rfl⟩))
    have skip : KeptBut c on P s { s with puc := { s.puc with untranslatable := bump s.puc.untranslatable } } :=
      KeptBut.setPuc s s.puc.grant _ (fun x hx => ⟨x, hx, rfl⟩)
    split at k
    · split at k
      · cases k
      · cases k; exact endPunchGrant_kept h
    · split at k
      · cases k
      · simp only at k
        split at k
        · cases k; exact .setPunchGrant _ _ (by simp [e])
        · cases k; exact .setPunchGrant _ _ (by simp [e])
        · cases k; exact .setPunchGrant _ _ (by simp [e])
        · split at k
          · cases k
          · split at k
            · cases k; exact skip.trans (.of_one (advanceCursor_storeOnly ..) hg)
            · split at k
              · cases k
              · cases k; exact .setPunchGrant _ _ (by simp [e])
              · cases k; exact .setPunchGrant _ _ (by simp [e])
        · split at k
          · cases k; exact .setPunchGrant _ _ (by simp [e])
          · cases k; exact KeptBut.setPuc s _ _ (by simp [e])
        · cases k
          exact .trans (.setPunchGrant s none (by simp)) (.of_one (completeDelivery_storeOnly ..) hg)

theorem punchSweep_kept (n : Nat) {s : State} (h : ∀ i, Granted on s i → P i) :
    KeptBut c on P s (punchSweep n s) := by
  induction n generalizing s with
  | zero => exact .refl s
  | succ n ih =>
    unfold punchSweep
    split
    · exact .refl s
    · next k =>
      have a := punchStep_kept (c := c) (on := on) h k
      exact a.trans (ih (a.granted h))

/-! ## Motors and the whole -/

theorem KeptBut.kept (a : KeptBut True on (Granted on s) s t) (m : Motors) : Kept on s { t with mtc := m } where
  tbu := a.tbu
  ctr := a.ctr
  identity := a.identity
  xcfg := a.xcfg
  pending := a.pending
  unit := a.unit
  quiet := a.quiet
  csv := a.csv trivial
  stm := a.stm
  records := a.records
  granted := a.granted fun _ h => h
  fqm := a.fqm
  kbs := a.kbs
  prc := a.prc
  puc := a.puc
  cpe := a.cpe
  latched := a.latched

theorem Motor.follow_followed (running : Bool) (demand : Bool) (m : Motor) :
    m.Followed running demand ({ m with demand := demand }.follow running) := by
  unfold Motor.follow
  split <;> rename_i h <;> simp only at h
  · split
    · next k =>
      simp only [Bool.and_eq_true] at k
      unfold Motor.begin
      by_cases v : m.speed.level = true
      · constructor <;> simp_all [Motor.request]
      · constructor <;> simp_all [Motor.request]
    · constructor <;> simp_all [Motor.request]
      grind
  · split
    · next k =>
      simp only [Bool.and_eq_true] at k
      unfold Motor.begin
      by_cases v : m.speed.level = true
      · constructor <;> simp_all [Motor.request]
      · constructor <;> simp_all [Motor.request]
    · constructor <;> simp_all [Motor.request]
      grind
  · constructor <;> simp_all [Motor.request]
    grind
  · constructor <;> simp_all [Motor.request]
  · constructor <;> simp_all [Motor.request]

theorem settle_parts (h : ∀ i, Granted on s i → P i) : ∃ u, KeptBut c on P s u ∧ settle s = followMotors u := by
  refine ⟨_, ?_, rfl⟩
  have y : KeptBut c on P s (stopYield s) := stopYield_kept
  have a := y.trans (printSweep_kept sweepFuel (y.granted h))
  have b := a.trans (punchSweep_kept sweepFuel (a.granted h))
  have d := b.trans (followYield_kept)
  have e := d.trans (printSweep_kept sweepFuel (d.granted h))
  exact e.trans followHeat_kept

theorem KeptBut.settled_of (a : KeptBut True on (Granted on s) s t) (y : YieldFollowed s (followMotors t)) :
    Settled on s (followMotors t) where
  kept := a.kept _
  yields := y
  print := by
    have h : printDemand (followMotors t) = printDemand t := rfl
    have r : t.running = s.running := by simp [State.running, a.tbu]
    rw [h, ← r, ← a.mtc]
    exact Motor.follow_followed ..
  punch := by
    have h : punchDemand (followMotors t) = punchDemand t := rfl
    have r : t.running = s.running := by simp [State.running, a.tbu]
    rw [h, ← r, ← a.mtc]
    exact Motor.follow_followed ..

/-- Settling keeps the yield timer by its rule (R153). -/
theorem settle_yields (s : State) : YieldFollowed s (settle s) := by
  obtain ⟨u2, d2⟩ : ∃ u, u = printSweep sweepFuel (stopYield s) := ⟨_, rfl⟩
  obtain ⟨u3, d3⟩ : ∃ u, u = punchSweep sweepFuel u2 := ⟨_, rfl⟩
  obtain ⟨u5, d5⟩ : ∃ u, u = printSweep sweepFuel (followYield u3) := ⟨_, rfl⟩
  obtain ⟨hh, e⟩ := followHeat_eq u5
  have whole : settle s = followMotors { u5 with prc := { u5.prc with heatHold := hh } } := by
    rw [← e, d5, d3, d2]; rfl
  have stands : PrintStands u2 u3 := d3 ▸ punchSweep_stands ..
  suffices h : YieldFollowed s u5 by
    rw [whole]
    exact ⟨h.stops, h.runs, h.starts⟩
  by_cases r3 : YieldRuns u3
  · have f := follow_sweep sweepFuel r3
    simp only [← d5] at f
    by_cases r : YieldRuns s
    · have k := d2
      rw [stopYield_runs r] at k
      rcases runs_sweep sweepFuel r with w | ⟨w, -⟩
      · have : u3.prc = s.prc := by rw [stands.prc, k, w]
        rw [this] at f
        rcases f with ⟨a, b⟩ | ⟨a, b⟩
        · exact ⟨fun _ => b, fun _ x => absurd x a, fun x => absurd r x⟩
        · exact ⟨fun x => absurd a x, fun _ _ => b, fun x => absurd r x⟩
      · rw [← k] at w
        obtain ⟨g, _, h1, -⟩ := r3
        rw [stands.prc, w] at h1; cases h1
    · have c : u2.prc.yieldTimer = none ∧ u2.prc.starved = false := by
        rw [d2, stopYield_clear r]; exact printSweep_clear _ ⟨rfl, rfl⟩
      have y : u2.prc.cfg = s.prc.cfg := by
        have a := (stopYield_kept (c := True) (on := noLine) (P := Granted noLine s) (s := s))
        rw [d2, (a.trans (printSweep_kept sweepFuel (a.granted fun _ h => h))).prc]
      rw [stands.prc, c.1, c.2, y] at f
      rcases f with ⟨a, b⟩ | ⟨a, b⟩
      · exact ⟨fun _ => b, fun _ x => absurd x a, fun _ x => absurd x a⟩
      · exact ⟨fun x => absurd a x, fun x => absurd x r, fun _ _ _ => b⟩
  · have clear : (followYield u3).prc.yieldTimer = none ∧ (followYield u3).prc.starved = false := by
      unfold followYield
      rw [if_neg (fun k => r3 ((yieldRuns_iff u3).1 k)), stopYield_clear r3]; exact ⟨rfl, rfl⟩
    have still : followYield u3 = { u3 with prc := { u3.prc with yieldTimer := none, starved := false } } := by
      unfold followYield
      rw [if_neg (fun k => r3 ((yieldRuns_iff u3).1 k)), stopYield_clear r3]
    have past : TextOver u2 → ¬ YieldRuns u5 := fun h => by
      rw [d5, still]
      exact ((h.of_grant (t := { u3 with prc := { u3.prc with yieldTimer := none, starved := false } })
        (by simp only [stands.prc])).sweep _).not_runs
    have zero : u5.prc.yieldTimer = none ∧ u5.prc.starved = false := by rw [d5]; exact printSweep_clear _ clear
    refine ⟨fun _ => zero, fun r x => ?_, fun r x b => ?_⟩
    · exfalso
      have k := d2
      rw [stopYield_runs r] at k
      rcases runs_sweep sweepFuel r with w | ⟨w, -⟩
      · rw [← k] at w
        exact r3 (stands.runs.2 (w ▸ r))
      · exact past (.of_none (by rw [k]; exact w)) x
    · exfalso
      have k := d2
      rw [stopYield_clear r] at k
      obtain ⟨z, dz⟩ : ∃ z, z = { s with prc := { s.prc with yieldTimer := none, starved := false } } := ⟨_, rfl⟩
      have zp : z.prc.grant = s.prc.grant ∧ z.prc.op = s.prc.op := by rw [dz]; exact ⟨rfl, rfl⟩
      have zr : ∀ i, z.record i = s.record i := by rw [dz]; exact fun _ => rfl
      rw [← dz] at k
      cases hg : s.prc.grant with
      | none => exact past (k ▸ (TextOver.of_none (zp.1.trans hg)).sweep _) x
      | some g =>
        cases hr : s.record g.index with
        | none =>
          cases o : s.prc.op with
          | some y =>
            have : u2.prc.op = some y := by
              rw [k, printSweep_waits _ (by unfold printStep; simp only [zp, hg, o])]; exact zp.2.trans o
            have : u5.prc.op = some y := by
              rw [d5, still, printSweep_waits]
              · simp only [stands.prc, this]
              · unfold printStep; simp only [stands.prc, this]; split <;> simp_all
            obtain ⟨_, _, -, -, -, -, -, -, z⟩ := x
            rw [this] at z; cases z
          | none =>
            refine past (k ▸ ?_) x
            unfold sweepFuel printSweep
            have : printStep z = some (endPrintGrant z) := by
              unfold printStep; simp only [zp, hg, o]
              rw [if_pos]
              simp only [stopAsked, zr, hr]
            rw [this]
            exact (TextOver.of_none (endPrintGrant_over _)).sweep _
        | some q =>
          obtain ⟨p, l⟩ := b g q hg hr
          have w := text_sweep sweepFuel (s := z) (zp.1.trans hg) ((zr _).trans hr) p (by unfold sweepFuel; omega)
          rw [← k] at w
          rcases w with w | ⟨w1, ⟨q', w2⟩, w3⟩
          · exact past w x
          · have st : PrintStands u2 (followYield u3) := by
              rw [still]
              refine stands.trans (.of_recs ?_ rfl rfl)
              simp only [stands.prc, w1, dz]
            rcases st.waits (g := g) (by rw [w1]; exact zp.1.trans hg) w2 p w3 sweepFuel with z | z
            · rw [← d5] at z
              exact r3 (stands.runs.2 (st.runs.1 (z ▸ x)))
            · exact z (d5 ▸ x)

/-- The mechanisms settle (R148, R151, R153, R166, R170, R177 to R179). -/
theorem settle_settled (s : State) : Settled noLine s (settle s) := by
  obtain ⟨u, a, e⟩ := settle_parts (c := True) (on := noLine) (s := s) fun _ h => h
  rw [e]; exact a.settled_of (e ▸ settle_yields s)

/-- What settling makes of the yield timer, from a state in which the printer stands as in an earlier one. -/
theorem PrintStands.yields (a : PrintStands s t) (h : YieldFollowed t u) : YieldFollowed s u where
  stops := h.stops
  runs := fun x y => by rw [← a.prc]; exact h.runs (a.runs.2 x) y
  starts := fun x y b => by
    rw [← a.prc]
    refine h.starts (fun k => x (a.runs.1 k)) y fun g r hg hr => ?_
    have k := a.records g.index
    rw [hr] at k
    cases e : s.record g.index with
    | none => rw [e] at k; exact k.elim
    | some q =>
      rw [e] at k
      obtain ⟨p, l⟩ := b g q (a.prc ▸ hg) e
      exact ⟨p, k.1 ▸ l⟩

/-! ## The selector of a line -/

/-- One line's steps, for a set of lines that has it. -/
theorem KeptBut.widen {l : LineId} (a : KeptBut c (oneLine l) P s t) (o : on l = true) : KeptBut c on P s t where
  tbu := a.tbu
  ctr := a.ctr
  identity := a.identity
  xcfg := a.xcfg
  pending := a.pending
  unit := a.unit
  quiet := fun k e => a.quiet k (by unfold oneLine; by_cases x : k = l <;> simp_all)
  csv := a.csv
  stm := a.stm
  records := a.records
  granted := fun h i j => by
    have g := a.granted fun i q => h i (by
      rcases q with q | q | ⟨k, y, p, q⟩
      · exact .inl q
      · exact .inr (.inl q)
      · have : k = l := by simpa [oneLine] using p
        subst this; exact .inr (.inr ⟨k, y, o, q⟩))
    rcases j with j | j | ⟨k, y, p, q, r⟩
    · exact g i (.inl j)
    · exact g i (.inr (.inl j))
    · by_cases e : k = l
      · exact g i (.inr (.inr ⟨k, y, by simp [oneLine, e], q, r⟩))
      · rw [(a.quiet k (by simp [oneLine, e])).2.2] at q
        exact h i (.inr (.inr ⟨k, y, p, q, r⟩))
  fqm := a.fqm
  kbs := a.kbs
  prc := a.prc
  puc := a.puc
  cpe := a.cpe
  latched := a.latched
  mtc := a.mtc

/-- A step of one line that has something placed. -/
theorem KeptBut.placed {l : LineId} (a : KeptBut False (oneLine l) P s t) (h : ¬ NothingPlaced s l) :
    KeptBut c (oneLine l) P s t where
  tbu := a.tbu
  ctr := a.ctr
  identity := a.identity
  xcfg := a.xcfg
  pending := a.pending
  unit := a.unit
  quiet := a.quiet
  csv := fun _ k n => by
    have : k ≠ l := fun e => h (e ▸ n)
    obtain ⟨-, x, y⟩ := a.quiet k (by simp [oneLine, this])
    unfold NothingPlaced at *
    rw [x, y]
    exact ⟨n, rfl⟩
  stm := a.stm
  records := a.records
  granted := a.granted
  fqm := a.fqm
  kbs := a.kbs
  prc := a.prc
  puc := a.puc
  cpe := a.cpe
  latched := a.latched
  mtc := a.mtc

variable {l : LineId}

theorem KeptBut.setSelector (x : Selector) (o : on l = true)
    (g : ∀ y, x.grant = some y → ∃ z, (s.selector l).grant = some z ∧ z.index = y.index)
    (n : c → NothingPlaced s l → x.seqs = [] ∧ x.answerback = none) : KeptBut c on P s (s.setSelector l x) := by
  constructor <;> first | rfl | (intros; first | rfl | assumption) | skip
  · intro k e
    have : k ≠ l := fun h => by rw [h, o] at e; cases e
    exact ⟨rfl, rfl, State.setSelector_selector_ne s x this⟩
  · intro j k h
    refine ⟨?_, rfl⟩
    by_cases e : k = l
    · subst e; unfold NothingPlaced; rw [State.setSelector_selector_same]; exact n j h
    · unfold NothingPlaced; rw [State.setSelector_selector_ne s x e]; exact h
  · intro h i j
    rcases j with j | j | ⟨k, y, p, q, r⟩
    · exact h i (.inl j)
    · exact h i (.inr (.inl j))
    · by_cases e : k = l
      · subst e
        rw [State.setSelector_selector_same] at q
        obtain ⟨z, u, v⟩ := g y q
        exact h i (.inr (.inr ⟨k, z, p, u, v.trans r⟩))
      · rw [State.setSelector_selector_ne s x e] at q
        exact h i (.inr (.inr ⟨k, y, p, q, r⟩))

theorem KeptBut.onSelector (f : Selector → Selector) (o : on l = true)
    (g : ∀ y, (f (s.selector l)).grant = some y → ∃ z, (s.selector l).grant = some z ∧ z.index = y.index)
    (n : c → NothingPlaced s l → (f (s.selector l)).seqs = [] ∧ (f (s.selector l)).answerback = none) :
    KeptBut c on P s (s.onSelector l f) := KeptBut.setSelector _ o g n

theorem KeptBut.onSend (f : SendGrant → SendGrant) (o : on l = true) (h : ∀ g, (f g).index = g.index) :
    KeptBut c on P s (s.onSend l f) := by
  refine KeptBut.onSelector _ o ?_ (fun _ n => n)
  intro y e
  simp only [Option.map_eq_some_iff] at e
  obtain ⟨z, e, r⟩ := e
  exact ⟨z, e, by rw [← r, h]⟩

theorem KeptBut.onStats (f : LineStats → LineStats) (o : on l = true)
    (h : ∀ x, f x = { x with untranslatable := (f x).untranslatable }) : KeptBut c on P s (s.onStats l f) := by
  constructor <;> first | rfl | (intros; first | rfl | assumption) | skip
  · intro k
    by_cases e : k = l
    · subst e; rw [State.onStats_unit_same]; simp only; rw [← h]
    · rw [State.onStats_unit_ne s f e]
  · intro k e
    have : k ≠ l := fun h => by rw [h, o] at e; cases e
    exact ⟨State.onStats_unit_ne s f this, rfl, rfl⟩
  · intro _ k h; exact ⟨h, rfl⟩
  · intro h i j; exact h i j

theorem KeptBut.setCsv (x : Supervisor) (o : on l = true) (h : ¬ c) : KeptBut c on P s (s.setCsv l x) := by
  constructor <;> first | rfl | (intros; first | rfl | assumption) | skip
  · intro k e
    have : k ≠ l := fun h => by rw [h, o] at e; cases e
    exact ⟨rfl, State.setCsv_csv_ne s x this, rfl⟩
  · intro j; exact absurd j h
  · intro h i j; exact h i j

theorem KeptBut.latch (e : Event) : KeptBut c on P s (s.latch e) := .of_store (.latch ..)

theorem chargeOne_kept (o : on l = true) : KeptBut c on P s (chargeOne s l) := by
  unfold chargeOne
  constructor <;> first | rfl | (intros; first | rfl | assumption) | skip
  · intro k e
    have : k ≠ l := fun h => by rw [h, o] at e; cases e
    exact ⟨rfl, State.onCsv_csv_ne s _ this, rfl⟩
  · intro _ k h
    refine ⟨h, ?_⟩
    by_cases e : k = l
    · subst e; rw [State.onCsv_csv_same]
    · rw [State.onCsv_csv_ne s _ e]
  · intro h i j; exact h i j

theorem oneLine_self : oneLine l l = true := by simp [oneLine]

section placed

/-! Steps on a line that has something placed, whatever they do to its supervisor. -/

theorem setCsv_placed (x : Supervisor) : KeptBut False (oneLine l) P s (s.setCsv l x) :=
  KeptBut.setCsv x oneLine_self id

theorem onSelector_placed (f : Selector → Selector)
    (g : ∀ y, (f (s.selector l)).grant = some y → ∃ z, (s.selector l).grant = some z ∧ z.index = y.index) :
    KeptBut False (oneLine l) P s (s.onSelector l f) := KeptBut.onSelector f oneLine_self g (fun h => h.elim)

theorem placeSeq_placed (q : TxSeq) : KeptBut False (oneLine l) P s (placeSeq s l q) :=
  onSelector_placed _ fun y h => ⟨y, h, rfl⟩

theorem placeWru_placed : KeptBut False (oneLine l) P s (placeWru s l) := (setCsv_placed _).trans (placeSeq_placed _)

theorem endSilentProgress_placed : KeptBut False (oneLine l) P s (endSilentProgress s l) := by
  unfold endSilentProgress; split
  · exact placeWru_placed
  · exact .refl s

theorem exchangeDone_placed : KeptBut False (oneLine l) P s (exchangeDone s l) :=
  (setCsv_placed _).trans (.trans (.latch _) endSilentProgress_placed)

theorem seqDone_placed (k : SeqKind) : KeptBut False (oneLine l) P s (seqDone s l k) := by
  unfold seqDone
  cases k <;> simp only <;> split <;> first | exact .refl s | skip
  · exact (setCsv_placed _).trans (setCsv_placed _)
  · exact setCsv_placed _
  · unfold startPageTimer; split
    · exact .refl s
    · exact setCsv_placed _
  · unfold startPageTimer; split
    · exact .refl s
    · exact setCsv_placed _
  · exact exchangeDone_placed

theorem placeOffer_placed : KeptBut False (oneLine l) P s (placeOffer s l) :=
  (setCsv_placed _).trans (placeSeq_placed _)

theorem answerbackEnd_placed : KeptBut False (oneLine l) P s (answerbackEnd s l) := by
  unfold answerbackEnd
  have a : KeptBut False (oneLine l) P s (s.onSelector l fun x => { x with answerback := none }) :=
    onSelector_placed _ fun y h => ⟨y, h, rfl⟩
  simp only
  split
  · exact (a.trans (setCsv_placed _)).trans placeOffer_placed
  · exact a.trans (setCsv_placed _)

end placed

theorem stopSend_kept {g : SendGrant} (o : on l = true) (h : P g.index) : KeptBut c on P s (stopSend s l g) := by
  unfold stopSend
  exact (KeptBut.onSelector _ o (by simp) fun _ n => by exact n).trans (.of_one (endGrant_storeOnly ..) h)

theorem advanceSend_kept {g : SendGrant} (o : on l = true) (h : P g.index) : KeptBut c on P s (advanceSend s l g) := by
  unfold advanceSend
  split
  · exact .refl s
  · simp only
    have a : KeptBut c on P s (advanceCursor s (sendOf l) g.index) := .of_one (advanceCursor_storeOnly ..) h
    split
    · exact a.trans (chargeOne_kept o)
    · exact a

theorem consumeItem_kept (f : Flight) (o : on l = true) (h : ∀ i, Granted on s i → P i) :
    KeptBut c on P s (consumeItem s l f) := by
  unfold consumeItem
  split
  · refine KeptBut.onSelector _ o (fun y h => ⟨y, h, rfl⟩) fun _ n => ?_
    simp only [n.1, n.2, and_self]
  · refine KeptBut.onSelector _ o (fun y h => ⟨y, h, rfl⟩) fun _ n => ?_
    simp only [n.1, n.2, Option.map_none, and_self]
  · exact KeptBut.onSelector _ o (fun y h => ⟨y, h, rfl⟩) fun _ n => n
  · exact KeptBut.onSend _ o fun _ => rfl
  · exact KeptBut.onSend _ o fun _ => rfl
  · split
    · next g e => exact advanceSend_kept o (h _ (.inr (.inr ⟨l, g, o, e, rfl⟩)))
    · exact .refl s

theorem sendStep_kept (h : ∀ i, Granted (oneLine l) s i → P i) (k : sendStep s l = some t) :
    KeptBut c (oneLine l) P s t := by
  have o := oneLine_self (l := l)
  have grant : ∀ g, (s.selector l).grant = some g → P g.index := fun g e => h _ (.inr (.inr ⟨l, g, o, e, rfl⟩))
  unfold sendStep at k
  simp only at k
  split at k
  · next u e =>
    cases k
    split at e
    · next g hg =>
      split at e
      · cases e; exact stopSend_kept o (grant g hg)
      · cases e
    · cases e
  · split at k
    · cases k
    · simp only [Option.orElse_eq_orElse, Option.orElse_eq_or, Option.or_eq_some_iff] at k
      rcases k with k | ⟨-, k | ⟨-, k | ⟨-, k | ⟨-, k⟩⟩⟩⟩
      · split at k
        · next kd qs e =>
          cases k
          have n : ¬ NothingPlaced s l := fun n => by rw [n.1] at e; cases e
          have a : KeptBut False (oneLine l) P s (s.setSelector l { s.selector l with seqs := qs }) :=
            KeptBut.setSelector _ o (fun y h => ⟨y, h, rfl⟩) fun h => h.elim
          exact (a.trans (seqDone_placed kd)).placed n
        · cases k
        · cases k
      · split at k
        · next f e =>
          cases k
          exact answerbackEnd_placed.placed fun n => by rw [n.2] at e; cases e
        · cases k
        · cases k
      · split at k
        · cases k; exact KeptBut.setSelector _ o (fun y h => ⟨y, h, rfl⟩) fun _ n => by exact n
        · cases k
      · split at k
        · cases k
        · next g e =>
          have drop : KeptBut c (oneLine l) P s (s.setSelector l { s.selector l with grant := none }) :=
            KeptBut.setSelector _ o (by simp) fun _ n => by exact n
          split at k
          · cases k; exact drop.trans (.of_one (completeDelivery_storeOnly ..) (grant g e))
          · split at k
            · cases k
            · split at k
              · cases k
              · split at k
                · cases k; exact drop.trans (.of_one (endGrant_storeOnly ..) (grant g e))
                · cases k; exact KeptBut.onSend _ o fun _ => rfl
          · cases k
          · cases k
      · split at k
        · split at k
          · cases k
          · split at k
            · cases k
              have a : KeptBut c (oneLine l) P s (countUntranslatable s l) := KeptBut.onStats _ o fun _ => rfl
              exact a.trans (consumeItem_kept _ o (a.granted h))
            · cases k
        · cases k

theorem sendSweep_kept (n : Nat) {s : State} (h : ∀ i, Granted (oneLine l) s i → P i) :
    KeptBut c (oneLine l) P s (sendSweep n s l) := by
  induction n generalizing s with
  | zero => exact .refl s
  | succ n ih =>
    unfold sendSweep
    split
    · exact .refl s
    · next k =>
      have a := sendStep_kept (c := c) h k
      exact a.trans (ih (a.granted h))

/-- One line's selector and the mechanisms settle (R88, R92). -/
theorem settleLine_settled (s : State) (l : LineId) : Settled (oneLine l) s (settleLine s l) := by
  have a : KeptBut True (oneLine l) (Granted (oneLine l) s) s (sendSweep sweepFuel s l) := sendSweep_kept _ fun _ h => h
  obtain ⟨u, b, e⟩ := settle_parts (c := True) (a.granted fun _ h => h)
  unfold settleLine
  rw [e]; exact (a.trans b).settled_of (e ▸ (sendSweep_stands ..).yields (settle_yields _))

/-- Both selectors and the mechanisms settle. -/
theorem settleAll_settled (s : State) : Settled bothLines s (settleAll s) := by
  have one : ∀ (s : State) (l : LineId) (P : Nat → Prop), (∀ i, Granted bothLines s i → P i) →
      KeptBut True bothLines P s (sendSweep sweepFuel s l) := fun s l P h => by
    refine (sendSweep_kept sweepFuel (l := l) fun i q => h i ?_).widen rfl
    rcases q with q | q | ⟨k, y, p, q⟩
    · exact .inl q
    · exact .inr (.inl q)
    · exact .inr (.inr ⟨k, y, rfl, q⟩)
  have a := one s .A (Granted bothLines s) fun _ h => h
  have b := a.trans (one _ .B (Granted bothLines s) (a.granted fun _ h => h))
  obtain ⟨u, d, e⟩ := settle_parts (c := True) (b.granted fun _ h => h)
  unfold settleAll
  rw [e]
  exact (b.trans d).settled_of
    (e ▸ ((sendSweep_stands ..).trans (sendSweep_stands ..)).yields (settle_yields _))

end Sys2Proof.Machine
end

