-- ==== Sys2Proof/Laws/Grants.lean ====
section
/-! SUPPORT. What settling leaves of the mechanisms' grants: a grant with an operation in flight or next is kept, and a tape
section passes over the phases that are done. -/

namespace Sys2Proof.Machine

open Sys2Proof

variable {s t : State}

/-! ## Each mechanism's steps leave the other alone -/

theorem completeDelivery_prc (s : State) (d : Deliv) (i : Nat) : (completeDelivery s d i).prc = s.prc :=
  (completeDelivery_storeOnly s d i).prc
theorem completeDelivery_puc (s : State) (d : Deliv) (i : Nat) : (completeDelivery s d i).puc = s.puc :=
  (completeDelivery_storeOnly s d i).puc

theorem endPrintGrant_puc (s : State) : (endPrintGrant s).puc = s.puc := by
  unfold endPrintGrant
  split
  · rfl
  · exact (endGrant_storeOnly ..).puc

theorem endPunchGrant_prc (s : State) : (endPunchGrant s).prc = s.prc := by
  unfold endPunchGrant
  split
  · rfl
  · exact (endGrant_storeOnly ..).prc

theorem endYield_puc (s : State) (g : PrintGrant) : (endYield s g).puc = s.puc := by
  simp only [endYield, endPrintGrant_puc]
  exact (StoreOnly.onRecord ..).puc

theorem endPhase_puc {g : PrintGrant} {r : Rec} (k : endPhase s g r = some t) : t.puc = s.puc := by
  unfold endPhase at k
  split at k
  · cases k; rfl
  · cases k; rfl
  · split at k
    · cases k
    · cases k; rfl
    · cases k; rfl
  · cases k; exact endYield_puc s g
  · cases k; exact completeDelivery_puc ..

theorem printStep_puc (k : printStep s = some t) : t.puc = s.puc := by
  unfold printStep at k
  split at k
  · cases k
  · cases k
  · split at k
    · cases k; exact endPrintGrant_puc s
    · split at k
      · cases k
      · split at k
        · cases k
        · cases k
        · split at k
          · cases k
          · split at k
            · split at k
              · cases k; exact (advanceCursor_storeOnly ..).puc
              · exact endPhase_puc k
            all_goals
              split at k
              · exact endPhase_puc k
              · cases k; rfl

theorem punchStep_prc (k : punchStep s = some t) : t.prc = s.prc := by
  unfold punchStep at k
  split at k
  · cases k
  · cases k
  · split at k
    · split at k
      · cases k
      · cases k; exact endPunchGrant_prc s
    · split at k
      · cases k
      · simp only at k
        split at k
        · cases k; rfl
        · cases k; rfl
        · cases k; rfl
        · split at k
          · cases k
          · split at k
            · cases k; exact (advanceCursor_storeOnly ..).prc
            · split at k
              · cases k
              · cases k; rfl
              · cases k; rfl
        · split at k
          · cases k; rfl
          · cases k; rfl
        · cases k; exact completeDelivery_prc ..

theorem printSweep_puc (n : Nat) (s : State) : (printSweep n s).puc = s.puc := by
  induction n generalizing s with
  | zero => rfl
  | succ n ih =>
    unfold printSweep
    split
    · rfl
    · next k => rw [ih, printStep_puc k]

theorem punchSweep_prc (n : Nat) (s : State) : (punchSweep n s).prc = s.prc := by
  induction n generalizing s with
  | zero => rfl
  | succ n ih =>
    unfold punchSweep
    split
    · rfl
    · next k => rw [ih, punchStep_prc k]

/-! ## A mechanism with no step to take -/

theorem printSweep_still (n : Nat) (h : printStep s = none) : printSweep n s = s := by
  cases n with
  | zero => rfl
  | succ n => simp [printSweep, h]

theorem punchSweep_still (n : Nat) (h : punchStep s = none) : punchSweep n s = s := by
  cases n with
  | zero => rfl
  | succ n => simp [punchSweep, h]

theorem PrinterStill.step (h : PrinterStill s) : printStep s = none := by
  unfold printStep
  rcases h with h | h
  · rw [h]
  · obtain ⟨o, e⟩ := Option.ne_none_iff_exists'.mp h
    rw [e]; split <;> simp_all

theorem PunchStill.step (h : PunchStill s) : punchStep s = none := by
  unfold punchStep
  rcases h with h | h
  · rw [h]
  · obtain ⟨o, e⟩ := Option.ne_none_iff_exists'.mp h
    rw [e]; split <;> simp_all

/-- The layout rules read neither the yield timer nor the starved mark. -/
theorem grantOps_yield (s : State) (g : PrintGrant) (y : Option (Nat × Nat)) (v : Bool) :
    grantOps { s with prc := { s.prc with yieldTimer := y, starved := v } } g = grantOps s g := rfl

/-- With an operation in flight or next the printer's step and its yield have nothing to do. -/
theorem print_waits {g : PrintGrant} (e : s.prc.grant = some g)
    (h : s.prc.op ≠ none ∨ ((∃ r, s.record g.index = some r ∧ r.stops.print = false) ∧ grantOps s g ≠ [])) :
    printStep s = none ∧ yieldRuns s = false := by
  by_cases o : s.prc.op = none
  · obtain ⟨⟨r, hr, hs⟩, n⟩ := h.resolve_left (fun k => k o)
    have hs' : stopAsked s .print g.index = false := by simp [stopAsked, hr, Four.get, hs]
    constructor
    · unfold printStep
      rw [e, o]
      simp only [hs', hr, Bool.false_eq_true, if_false]
      split
      · rfl
      · cases k : g.ops with
        | cons a b => rfl
        | nil =>
          have : nextItemOps s g ≠ [] := by simpa [grantOps, k] using n
          cases l : nextItemOps s g with
          | nil => exact absurd l this
          | cons a b => rfl
    · unfold yieldRuns
      rw [e]
      simp only [hr]
      by_cases k : g.ops = []
      · have : nextItemOps s g ≠ [] := by simpa [grantOps, k] using n
        by_cases c : g.phase = .text ∧ r.cursor.print = r.length
        · exfalso; apply this; simp [nextItemOps, hr, c.1, c.2]
        · rcases not_and_or.mp c with c | c <;> simp [c]
      · simp [k]
  · have k : PrinterStill s := .inr o
    refine ⟨k.step, ?_⟩
    obtain ⟨x, ox⟩ := Option.ne_none_iff_exists'.mp o
    unfold yieldRuns
    rw [e]
    simp only [ox, Option.isNone_some, Bool.and_false]
    split <;> rfl

/-- Settling keeps a printer grant that has an operation in flight or next (R148, R151). -/
theorem settle_printKept (s : State) : PrintKept s (settle s) := by
  intro g e
  have main : (s.prc.op ≠ none ∨ (PunchStill s ∧ (∃ r, s.record g.index = some r ∧ r.stops.print = false) ∧
      grantOps s g ≠ [])) → (settle s).prc.grant = some g := by
    intro h
    obtain ⟨y, v, e1⟩ := stopYield_eq s
    obtain ⟨s1, d1⟩ : ∃ s1, s1 = stopYield s := ⟨_, rfl⟩
    have w1 : printStep s1 = none ∧ yieldRuns s1 = false := by
      rw [d1, e1]
      exact print_waits e (h.imp id fun k => ⟨k.2.1, k.2.2⟩)
    have p2 : printSweep sweepFuel s1 = s1 := printSweep_still _ w1.1
    obtain ⟨s3, d3⟩ : ∃ s3, s3 = punchSweep sweepFuel s1 := ⟨_, rfl⟩
    have q3 : s3.prc = s1.prc := by rw [d3]; exact punchSweep_prc ..
    have g3 : s3.prc.grant = some g := by rw [q3, d1, e1]; exact e
    have w3 : printStep s3 = none ∧ yieldRuns s3 = false := by
      rcases h with h | h
      · exact print_waits g3 (.inl (by rw [q3, d1, e1]; exact h))
      · have : s3 = s1 := by
          rw [d3]; exact punchSweep_still _ (PunchStill.step (by rw [d1, e1]; exact h.1))
        rw [this]; exact w1
    obtain ⟨y4, v4, e4⟩ := stopYield_eq s3
    have f4 : followYield s3 = { s3 with prc := { s3.prc with yieldTimer := y4, starved := v4 } } := by
      rw [← e4]; simp [followYield, w3.2]
    have w4 : ∀ s4, s4 = { s3 with prc := { s3.prc with yieldTimer := y4, starved := v4 } } → printStep s4 = none := by
      intro s4 d4
      have g4 : s4.prc.grant = some g := by rw [d4]; exact g3
      rcases h with h | h
      · exact (print_waits g4 (.inl (by rw [d4]; show s3.prc.op ≠ none; rw [q3, d1, e1]; exact h))).1
      · have k : s3 = s1 := by
          rw [d3]; exact punchSweep_still _ (PunchStill.step (by rw [d1, e1]; exact h.1))
        refine (print_waits g4 (.inr ?_)).1
        rw [d4, k, d1, e1]
        exact h.2
    obtain ⟨hh, e5⟩ := followHeat_eq { s3 with prc := { s3.prc with yieldTimer := y4, starved := v4 } }
    show (followMotors _).prc.grant = _
    simp only [← d1, p2, ← d3, f4, printSweep_still _ (w4 _ rfl), e5]
    exact g3
  exact ⟨fun h => main (.inl h), fun r o p hr hs n => main (.inr ⟨p, ⟨r, hr, hs⟩, n⟩)⟩

/-! ## The section's phases -/

theorem punchState_setGrant (s : State) (g : Option PunchGrant) : punchState (s.setPunchGrant g) = punchState s := rfl

theorem sectionChar_next {g : PunchGrant} (ho : g.owed = none) (hp : g.phase = .text ∨ g.phase = .close) :
    (nextSection s g).isSome = true ↔ ∃ c, (translateChr s.ctr.table c).isSome = true ∧ sectionChar s g = some c := by
  unfold nextSection
  rcases hp with hp | hp
  all_goals
    simp only [ho, hp]
    cases hc : sectionChar s g with
    | none => simp
    | some c =>
      cases ht : translateChr s.ctr.table c with
      | none => simp [ht]
      | some x => cases hx : shiftBefore s.ctr.tape x <;> simp [ht, hx]

theorem sectionNext_iff (s : State) (g : PunchGrant) : (nextSection s g).isSome = true ↔ SectionNext s g := by
  cases ho : g.owed with
  | some b => simp [nextSection, SectionNext, ho]
  | none =>
    cases hp : g.phase
    case text =>
      rw [sectionChar_next ho (.inl hp)]
      simp only [sectionChar, SectionNext, ho, hp]
      cases hr : s.record g.index with
      | none => simp
      | some r => by_cases hl : r.cursor.punch < r.length <;> simp [hl]
    case close =>
      rw [sectionChar_next ho (.inr hp)]
      simp [sectionChar, SectionNext, ho, hp]
    all_goals
      simp only [nextSection, SectionNext, ho, hp, Config.eraseFrames]
      by_cases h1 : g.done < 5 <;> by_cases h2 : g.done < s.puc.cfg.leader <;> by_cases h3 : g.done = 0 <;>
        by_cases h4 : g.done < s.puc.cfg.trailer <;> simp [h1, h2, h3, h4]

/-- The punch waits where a repair is under way, or an operation is next, or the text stands at an OPEN record's length. -/
theorem punch_waits {g : PunchGrant} {r : Rec} (e : s.puc.grant = some g) (hr : s.record g.index = some r)
    (hs : r.stops.punch = false) (h : g.frame ≠ none ∨ SectionNext s g ∨
      (g.phase = .text ∧ g.owed = none ∧ r.state = .opened ∧ r.cursor.punch = r.length)) : punchStep s = none := by
  have hs' : stopAsked s .punch g.index = false := by simp [stopAsked, hr, Four.get, hs]
  unfold punchStep
  cases o : s.puc.op with
  | some x => rw [e]
  | none =>
    rw [e]
    simp only [hs', Bool.false_eq_true, if_false]
    by_cases w : (g.frame.isSome || (nextSection s g).isSome) = true
    · simp [w]
    · have k := w
      rw [Bool.or_eq_true, not_or, sectionNext_iff] at w
      simp only [k]
      rcases h with h | h | ⟨h1, h2, h3, h4⟩
      · exact absurd (Option.isSome_iff_ne_none.mpr h) w.1
      · exact absurd h w.2
      · simp [h1, hr, h3, h4]

/-- One phase that is over passes to the next. -/
theorem punch_passes {g : PunchGrant} {r : Rec} (e : s.puc.grant = some g) (o : s.puc.op = none)
    (hr : s.record g.index = some r) (hs : r.stops.punch = false) (f : g.frame = none) (h : PhaseOver s r g) :
    punchStep s = some (s.setPunchGrant (some (g.following s.puc.cfg.eom))) := by
  have hs' : stopAsked s .punch g.index = false := by simp [stopAsked, hr, Four.get, hs]
  obtain ⟨h1, h2, h3, h4⟩ := h
  have n : (nextSection s g).isSome = false := by
    rw [← Bool.not_eq_true, sectionNext_iff]; exact h1
  unfold punchStep
  rw [e, o]
  simp only [hs', f, n, Option.isSome_none, Bool.or_self, Bool.false_eq_true, if_false]
  cases hp : g.phase <;> simp only [PunchGrant.following, hp] at h2 h3 h4 ⊢
  case text =>
    obtain ⟨c, k⟩ := h3 trivial
    simp only [hr, c, Nat.lt_irrefl, if_false]
    cases hst : r.state
    · exact absurd hst k
    · simp [f]
    · simp [f]
  case close => simp [h4 trivial, f]
  case trailer => exact absurd rfl h2
  all_goals simp [f]

theorem punchSweep_passes (n m : Nat) {g : PunchGrant} {r : Rec} (e : s.puc.grant = some g) (o : s.puc.op = none)
    (hr : s.record g.index = some r) (hs : r.stops.punch = false) (f : g.frame = none)
    (h : ∀ k, k < n → PhaseOver s r ((PunchGrant.following s.puc.cfg.eom)^[k] g)) (hm : n ≤ m)
    (w : SectionNext s ((PunchGrant.following s.puc.cfg.eom)^[n] g) ∨
      ((((PunchGrant.following s.puc.cfg.eom)^[n] g)).phase = .text ∧
        (((PunchGrant.following s.puc.cfg.eom)^[n] g)).owed = none ∧ r.state = .opened ∧ r.cursor.punch = r.length)) :
    punchSweep m s = s.setPunchGrant (some ((PunchGrant.following s.puc.cfg.eom)^[n] g)) := by
  induction n generalizing s g m with
  | zero =>
    rw [punchSweep_still _ (punch_waits e hr hs (.inr w))]
    show s = _
    simp only [Function.iterate_zero, id_eq, State.setPunchGrant, ← e]
  | succ n ih =>
    cases m with
    | zero => omega
    | succ m =>
      have p := punch_passes e o hr hs f (h 0 (by omega))
      have fi : (g.following s.puc.cfg.eom).index = g.index := by unfold PunchGrant.following; split <;> rfl
      have ff : (g.following s.puc.cfg.eom).frame = none := by unfold PunchGrant.following; split <;> exact f
      have := ih (s := s.setPunchGrant (some (g.following s.puc.cfg.eom))) m rfl o (by rw [fi]; exact hr) ff
        (fun k hk => h (k + 1) (by omega)) (by omega) w
      simp only [punchSweep, p]
      exact this

/-- Settling leaves the punch its grant, at the first phase with something to do (R166, R170, R171, R172). -/
theorem settle_sectionKept (s : State) : SectionKept s (settle s) := by
  intro g e
  obtain ⟨y, v, e1⟩ := stopYield_eq s
  have last (s2 : State) : (followMotors (followHeat (printSweep sweepFuel (followYield s2)))).puc = s2.puc := by
    obtain ⟨hh, e5⟩ := followHeat_eq (printSweep sweepFuel (followYield s2))
    show (followHeat _).puc = _
    rw [e5]
    show (printSweep _ _).puc = _
    rw [printSweep_puc]
    unfold followYield
    split
    · simp only; split <;> try split
      all_goals rfl
    · obtain ⟨y, v, e⟩ := stopYield_eq s2
      rw [e]
  have whole : (settle s).puc = (punchSweep sweepFuel (printSweep sweepFuel (stopYield s))).puc := last _
  refine ⟨fun h => ?_, fun r o p hr hs => ⟨fun hf => ?_, ?_⟩⟩
  · have q : (printSweep sweepFuel (stopYield s)).puc = s.puc := by rw [printSweep_puc, e1]
    rw [whole, punchSweep_still _ (PunchStill.step (.inr (by rw [q]; exact h))), q]
    exact e
  all_goals
    have still : printSweep sweepFuel (stopYield s) = stopYield s :=
      printSweep_still _ (PrinterStill.step (by rw [e1]; exact p))
  · rw [whole, still, punchSweep_still _ (punch_waits (g := g) (r := r) (by rw [e1]; exact e) (by rw [e1]; exact hr) hs
      (.inl hf)), e1]
    exact e
  · intro n f a h w
    have five : n ≤ sweepFuel := by
      by_contra c
      have : ∀ k, k ≤ 5 → k < n := fun k hk => by unfold sweepFuel at c; omega
      have t5 : (a 5).phase = .trailer := by
        show ((PunchGrant.following s.puc.cfg.eom)^[5] g).phase = _
        cases hp : g.phase <;> simp [Function.iterate_succ, PunchGrant.following, hp]
      exact (h 5 (this 5 (Nat.le_refl _))).2.1 t5
    rw [whole, still]
    rw [e1]
    rw [punchSweep_passes (s := { s with prc := { s.prc with yieldTimer := y, starved := v } }) n sweepFuel e o hr hs f h five w]
    rfl

end Sys2Proof.Machine
end

