-- ==== Sys2Proof/Laws/Port.lean ====
section
/-! SUPPORT. What a console command's row does, once for every command, and what every command leaves of the port. -/

namespace Sys2Proof.Machine

open Sys2Proof

/-- On a port that takes it, a command is executed at once and its response made ready (R183, R185). -/
theorem consoleRow_ready (c : Command) (body : List Byte → State → Reply) (p : List Byte) (s : State) (h : Ready s)
    (n : p.length ≤ 248) : consoleRow c body p s = (body p (s.zeros (3 + p.length))).ready := by
  obtain ⟨a, b, d⟩ := h
  have e : (s.zeros (3 + p.length)).tbu.state ≠ .standby := by
    intro e
    simp [State.running] at d
    rw [State.zeros_tbu] at e
    rw [e] at d; cases d
  have w : (s.zeros (3 + p.length)).requestWake .console = s.zeros (3 + p.length) := by
    unfold State.requestWake; rw [if_neg e]
  unfold consoleRow
  rw [if_neg (by simp [a]), if_pos (by exact n)]
  unfold takeGood
  rw [w]
  have r : (s.zeros (3 + p.length)).cpe.port = .empty := b
  have q : (s.zeros (3 + p.length)).running = true := d
  simp only [r, q, if_true]

/-- A command refused leaves everything but the port (R183). -/
theorem consoleRow_refused (c : Command) (body : List Byte → State → Reply) (p : List Byte) (s : State) (h : Ready s)
    (n : p.length ≤ 248) (st : Status) (r : body p (s.zeros (3 + p.length)) = .refuse (s.zeros (3 + p.length)) st) :
    consoleRow c body p s = refused p.length st s := by
  rw [consoleRow_ready c body p s h n, r]; rfl

/-- The response of a settled command leaves it settled. -/
theorem Settled.ready {on : LineId → Bool} {s t : State} (h : Settled on s t) (p : Port) :
    Settled on (s.onCpe fun c => { c with port := p }) (t.onCpe fun c => { c with port := p }) where
  kept :=
    { tbu := h.kept.tbu, ctr := h.kept.ctr, identity := h.kept.identity, xcfg := h.kept.xcfg, pending := h.kept.pending
      unit := h.kept.unit, quiet := h.kept.quiet, csv := h.kept.csv, stm := h.kept.stm, records := h.kept.records
      granted := h.kept.granted, fqm := h.kept.fqm, kbs := h.kept.kbs, prc := h.kept.prc, puc := h.kept.puc
      cpe := by
        have := h.kept.cpe
        simp only [State.onCpe]; rw [this]
      latched := h.kept.latched }
  print := h.print
  punch := h.punch
  yields := ⟨h.yields.stops, h.yields.runs, h.yields.starts⟩

end Sys2Proof.Machine
end

