-- ==== Sys2Proof/Laws/Queues.lean ====
section
/-! SUPPORT. What joining and leaving the delivery queues, closing and releasing a record, and the end of a connection do to
the records and the arrival sequence, and what a selector's steps leave of its supervisor's timers, said once for each. -/

namespace Sys2Proof.Machine

open Sys2Proof

variable {s t : State} {l : LineId} {i : Nat} {r : Rec}

/-! ## Joining (R77, R78) -/

/-- Record i with these stamps, and the arrival sequence at n. -/
def stamped (s : State) (i : Nat) (r : Rec) (x : Four (Option Nat) × Nat) : State :=
  { s.setRecord i (some { r with stamp := x.1 }) with fqm := { s.fqm with seq := x.2 } }

theorem State.setRecord_same (h : s.record i = some r) : s.setRecord i (some r) = s := by
  have k := State.record_lt h
  have e : s.stm.recs[i] = some r := by simpa [State.record, List.getElem?_eq_getElem k] using h
  have : s.stm.recs.set i (some r) = s.stm.recs := by rw [← e]; exact List.set_getElem_self k
  simp [State.setRecord, this]

theorem State.setRecord_twice (s : State) (i : Nat) (a b : Option Rec) :
    (s.setRecord i a).setRecord i b = s.setRecord i b := by simp [State.setRecord]

theorem stamped_record (h : i < s.stm.recs.length) (r : Rec) (x : Four (Option Nat) × Nat) :
    (stamped s i r x).record i = some { r with stamp := x.1 } := by
  have : (stamped s i r x).record i = (s.setRecord i (some { r with stamp := x.1 })).record i := rfl
  rw [this, State.record_setRecord]; simp [h]

/-- Joining the queues in ds one after another. -/
theorem enqueue_all (ds : List Deliv) (h : s.record i = some r) :
    ds.foldl (fun s d => enqueue s d i) s = stamped s i r (joins ds r.stamp s.fqm.seq) := by
  induction ds generalizing s r with
  | nil => simp [stamped, joins, State.setRecord_same h]
  | cons d ds ih =>
    have e : enqueue s d i = if (r.stamp.get d).isSome then s
        else stamped s i r (r.stamp.set d (some s.fqm.seq), min (s.fqm.seq + 1) 4294967295) := by
      by_cases q : (r.stamp.get d).isSome = true <;> simp [enqueue, h, Rec.queued, q, stamped, Config.lastStamp]
    rw [List.foldl_cons, e, joins]
    split
    · exact ih h
    · rw [ih (stamped_record (State.record_lt h) _ _)]
      simp [stamped, State.setRecord]

/-- What a record joins at its open (R78). -/
theorem enqueueAtOpen_eq (h : s.record i = some r) (spec : OpenSpec) : enqueueAtOpen s i spec =
    stamped s i r (joins (openQueues spec.dests spec.liveA spec.liveB) r.stamp s.fqm.seq) := by
  rw [← enqueue_all _ h]
  obtain ⟨_, ⟨⟨a, b, c, d⟩, _⟩, _, x, y, _, _⟩ := spec
  cases a <;> cases b <;> cases c <;> cases d <;> cases x <;> cases y <;> rfl

/-! ## Closing (R61, R78) -/

theorem unlink_record (s : State) (i j : Nat) : (unlink s i).record j = s.record j := rfl

theorem stamped_unlink (s : State) (i : Nat) (a : Option Rec) (q : Rec) (x : Four (Option Nat) × Nat) :
    stamped (unlink (s.setRecord i a) i) i q x = stamped (unlink s i) i q x := by
  simp only [stamped, unlink, State.setRecord, List.set_set]
  rfl

/-- An OPEN record with something pending closes: its links end, it joins its SEND queues, its events are latched. -/
theorem closeRecord_eq (h : s.record i = some r) (o : r.state = .opened) (p : r.dests.isEmpty = false) (e : Bool) :
    let u := stamped (unlink s i) i { r with state := .closed } (joins (closeQueues r.dests) r.stamp s.fqm.seq)
    let v := if e && decide (r.origin ≠ .console) then u.latch .msgArrived else u
    closeRecord s i e = if e && r.dests.hold then v.latch .holdReady else v := by
  have k : (unlink (s.setRecord i (some { r with state := .closed })) i).record i = some { r with state := .closed } := by
    rw [unlink_record, State.record_setRecord]; simp [State.record_lt h]
  have q := enqueue_all (closeQueues r.dests) k
  have f : (closeQueues r.dests).foldl (fun s d => enqueue s d i)
      (unlink (s.setRecord i (some { r with state := .closed })) i) =
      (let s := unlink (s.setRecord i (some { r with state := .closed })) i
       let s := if r.dests.out.sendA then enqueue s .sendA i else s
       if r.dests.out.sendB then enqueue s .sendB i else s) := by
    generalize unlink (s.setRecord i (some { r with state := .closed })) i = v
    obtain ⟨⟨_, _, a, b⟩, _⟩ := r.dests
    cases a <;> cases b <;> rfl
  rw [f, stamped_unlink] at q
  simp only at q ⊢
  simp only [closeRecord, h, o]
  rw [q]
  have c : ∀ v : State, v.record i = some { r with state := .closed, stamp := (joins (closeQueues r.dests) r.stamp s.fqm.seq).1 } →
      releaseIfDone v i = v := fun v w => by simp [releaseIfDone, w, p]
  refine (c _ ?_).trans ?_
  · split <;> split <;> exact stamped_record (s := unlink s i) (State.record_lt h) { r with state := .closed } _
  · rfl

/-! ## Leaving, and the sequence's return to 0 (R77) -/

theorem queuesEmpty_iff (s : State) : (s.stm.recs.all fun x => match x with
      | none => true
      | some r => !(r.queued .print || r.queued .punch || r.queued .sendA || r.queued .sendB)) = true ↔ QueuesEmpty s := by
  rw [List.all_eq_true]
  constructor
  · intro a i r d e
    have := a (some r) (by
      have k := State.record_lt e
      have : s.stm.recs[i] = some r := by simpa [State.record, List.getElem?_eq_getElem k] using e
      rw [← this]; exact List.getElem_mem k)
    cases d <;> simp_all [Rec.queued]
  · intro a x m
    obtain ⟨i, k, e⟩ := List.getElem_of_mem m
    split
    · rfl
    · next r =>
      have : ∀ d, r.stamp.get d = none := fun d => a i r d (by simp [State.record, List.getElem?_eq_getElem k, e])
      simp [Rec.queued, this]

theorem settleSequence_sequence (s : State) : SequenceIs (settleSequence s) s.fqm.seq := by
  have q : QueuesEmpty (settleSequence s) ↔ QueuesEmpty s := by
    unfold settleSequence; split <;> rfl
  refine ⟨fun h => ?_, fun h => ?_⟩ <;> rw [q] at h <;> unfold settleSequence <;> split
  · rfl
  · next c => exact absurd ((queuesEmpty_iff s).mpr h) c
  · next c => exact absurd ((queuesEmpty_iff s).mp c) h
  · rfl

theorem releaseRecord_sequence (h : s.record i = some r) : SequenceIs (releaseRecord s i) s.fqm.seq := by
  simp only [releaseRecord, h]
  have e : ∀ v : State, SequenceIs (unreservedRose v) s.fqm.seq ↔ SequenceIs v s.fqm.seq := fun v => by
    unfold SequenceIs QueuesEmpty unreservedRose evalLow
    simp only
    split <;> rfl
  rw [e]
  exact settleSequence_sequence _

/-! ## The end of a connection (R93) -/

theorem mapRecs_get (f : Nat → Rec → Rec) (n : Nat) (xs : List (Option Rec)) (i : Nat) :
    (mapRecs f n xs)[i]? = xs[i]?.map (·.map (f (n + i))) := by
  induction xs generalizing n i with
  | nil => simp [mapRecs]
  | cons x xs ih =>
    cases x <;> cases i <;> simp [mapRecs, ih, Nat.add_assoc, Nat.add_comm 1]

theorem State.record_onRecords (s : State) (f : Nat → Rec → Rec) (i : Nat) :
    (s.onRecords f).record i = (s.record i).map (f i) := by
  simp only [State.record, State.onRecords, mapRecs_get, Nat.zero_add]
  cases s.stm.recs[i]? <;> rfl

/-- A connection's start, or the entry to RUNNING, takes every record's live charge for the line away (R92). -/
theorem dropCharges_record (s : State) (l : LineId) (i : Nat) :
    (dropCharges s l).record i = (s.record i).map fun r => { r with charged := r.charged.set l false } :=
  State.record_onRecords ..

theorem releaseIfDone_record (s : State) (i : Nat) (h : s.record i = some r) :
    let spent := r.state = .cancelled ∨ (r.state = .closed ∧ r.dests.isEmpty = true)
    (¬ spent → (releaseIfDone s i).record i = some r) ∧
    (spent → r.grants.any = true → (releaseIfDone s i).record i = some { r with state := .cancelled }) ∧
    (spent → r.grants.any = false → (releaseIfDone s i).record i = none) := by
  have k := State.record_lt h
  have z : (releaseRecord s i).record i = none := by
    simp only [releaseRecord, h]
    have e : ∀ v : State, (unreservedRose (settleSequence v)).record i = v.record i := fun v => by
      unfold unreservedRose evalLow settleSequence
      split <;> (simp only; split <;> rfl)
    rw [e]
    change (s.setRecord i none).record i = none
    simp [State.record_setRecord, k]
  simp only [releaseIfDone, h]
  cases e : r.state with
  | opened => simp [h]
  | closed =>
    cases d : r.dests.isEmpty with
    | false => simp [h]
    | true => cases g : r.grants.any <;> simp [z, State.record_setRecord, k]
  | cancelled =>
    cases g : r.grants.any with
    | false => simp [z]
    | true => simp [h, ← e]

/-- What the end of a connection makes of each record (R93). -/
theorem endSendOnConnection_record (l : LineId) (h : s.record i = some r) :
    let q := sendReset s l i r
    let spent := (s.selector l).grant.map (·.index) = some i ∧
      (q.state = .cancelled ∨ (q.state = .closed ∧ q.dests.isEmpty = true))
    (¬ spent → (endSendOnConnection s l).record i = some q) ∧
    (spent → q.grants.any = true → (endSendOnConnection s l).record i = some { q with state := .cancelled }) ∧
    (spent → q.grants.any = false → (endSendOnConnection s l).record i = none) := by
  let f (k : Nat) (r : Rec) : Rec :=
    if (s.selector l).grant.map (·.index) = some k ∨ (r.queued (sendOf l) = true ∧ 0 < r.cursor.get (sendOf l)) then
      { r with cursor := r.cursor.set (sendOf l) 0, attempts := r.attempts.set l (min (r.attempts.get l + 1) 255) }
    else r
  let u := (s.onRecords f).onSelector l fun x =>
    { x with grant := none, cutoff := none, companion := none, deferral := false }
  have a : u.record i = some (f i r) := by
    change (s.onRecords f).record i = _
    rw [State.record_onRecords, h]; rfl
  have e : endSendOnConnection s l = match (s.selector l).grant.map (·.index) with
      | some i => endGrant u (sendOf l) i
      | none => u := rfl
  intro q spent
  rw [e]
  cases g : (s.selector l).grant.map (·.index) with
  | none =>
    have : q = f i r := by simp [q, sendReset, f, g, Rec.queued]
    simp [spent, g, a, this]
  | some j =>
    by_cases n : j = i
    · subst n
      have c : (u.onRecord j fun r => { r with
          grants := r.grants.set (sendOf l) false, stops := r.stops.set (sendOf l) false }).record j = some q := by
        rw [State.record_onRecord, a]; simp [q, sendReset, f, g]
      simpa [spent, g, endGrant] using releaseIfDone_record _ _ c
    · have k : (endGrant u (sendOf l) j).record i = u.record i :=
        (endGrant_storeOnly u (sendOf l) j).records i fun e => n e.symm
      have : q = f i r := by simp [q, sendReset, f, g, n, Rec.queued]
      simp [spent, g, n, k, a, this]

/-! ## A supervisor's timers under its selector's steps -/

/-- What the selector's steps leave of a supervisor's timers. -/
structure TimersKept (v w : Supervisor) : Prop where
  clear : w.timers.clearRecognize = v.timers.clearRecognize
  running : v.state = .running → w.state = .running ∧ w.timers.fault = v.timers.fault
  calling : v.state = .calling → v.phase = .confirmWait →
    w.state = .calling ∧ w.phase = .confirmWait ∧ w.timers = v.timers

theorem TimersKept.refl (v : Supervisor) : TimersKept v v := ⟨rfl, fun h => ⟨h, rfl⟩, fun h k => ⟨h, k, rfl⟩⟩

theorem TimersKept.trans {u v w : Supervisor} (a : TimersKept u v) (b : TimersKept v w) : TimersKept u w where
  clear := b.clear.trans a.clear
  running h := ⟨(b.running (a.running h).1).1, (b.running (a.running h).1).2.trans (a.running h).2⟩
  calling h k :=
    have x := a.calling h k
    have y := b.calling x.1 x.2.1
    ⟨y.1, y.2.1, y.2.2.trans x.2.2⟩

theorem TimersKept.of_eq {v w : Supervisor} (h : w = v) : TimersKept v w := h ▸ .refl v

theorem StoreOnly.timers {P : Nat → Prop} (a : StoreOnly P s t) : TimersKept (s.csv l) (t.csv l) :=
  .of_eq (by simp [State.csv, a.sup])

theorem endSilentProgress_timers : TimersKept (s.csv l) ((endSilentProgress s l).csv l) := by
  unfold endSilentProgress
  split
  · next h =>
    have : (placeWru s l).csv l = { s.csv l with phase := .asking, timers := { (s.csv l).timers with quiet := none } } := by
      cases l <;> rfl
    rw [this]
    exact ⟨rfl, fun k => ⟨k, rfl⟩, fun k => by rw [h.1] at k; cases k⟩
  · exact .refl _

theorem seqDone_timers (k : SeqKind) : TimersKept (s.csv l) ((seqDone s l k).csv l) := by
  cases k with
  | selection =>
    simp only [seqDone]; split
    · next h =>
      refine ⟨?_, fun k => ?_, fun k => ?_⟩
      · cases l <;> rfl
      all_goals rw [h] at k; cases k
    · exact .refl _
  | wru =>
    simp only [seqDone]; split
    · next h =>
      refine ⟨?_, fun k => ?_, fun _ k => ?_⟩
      · cases l <;> rfl
      · exact ⟨by rw [← k]; cases l <;> rfl, by cases l <;> rfl⟩
      · rw [h] at k; cases k
    · exact .refl _
  | offer | page =>
    simp only [seqDone]; split
    · unfold startPageTimer; split
      · exact .refl _
      · refine ⟨?_, fun k => ⟨?_, ?_⟩, fun j k => ⟨?_, ?_, ?_⟩⟩
        all_goals first | (cases l <;> rfl) | (rw [← k]; cases l <;> rfl) | (rw [← j]; cases l <;> rfl)
    · exact .refl _
  | close =>
    simp only [seqDone]; split
    · unfold exchangeDone
      refine .trans ?_ endSilentProgress_timers
      refine ⟨?_, fun k => ⟨?_, ?_⟩, fun j k => ⟨?_, ?_, ?_⟩⟩
      all_goals first | (cases l <;> rfl) | (rw [← k]; cases l <;> rfl) | (rw [← j]; cases l <;> rfl)
    · exact .refl _

theorem answerbackEnd_timers : TimersKept (s.csv l) ((answerbackEnd s l).csv l) := by
  unfold answerbackEnd
  simp only
  split
  all_goals
    refine ⟨?_, fun k => ⟨?_, ?_⟩, fun j k => ⟨?_, ?_, ?_⟩⟩
    all_goals first | (cases l <;> rfl) | (rw [← k]; cases l <;> rfl) | (rw [← j]; cases l <;> rfl)

theorem chargeOne_timers : TimersKept (s.csv l) ((chargeOne s l).csv l) := by
  refine ⟨?_, fun k => ⟨?_, ?_⟩, fun j k => ⟨?_, ?_, ?_⟩⟩
  all_goals first | (cases l <;> rfl) | (rw [← k]; cases l <;> rfl) | (rw [← j]; cases l <;> rfl)

theorem csv_onSelector (s : State) (l : LineId) (f : Selector → Selector) : (s.onSelector l f).csv l = s.csv l := rfl

theorem advanceSend_timers (g : SendGrant) : TimersKept (s.csv l) ((advanceSend s l g).csv l) := by
  unfold advanceSend
  split
  · exact .refl _
  · simp only
    have a := (advanceCursor_storeOnly s (sendOf l) g.index).timers (l := l)
    split
    · exact a.trans chargeOne_timers
    · exact a

theorem consumeItem_timers (f : Flight) : TimersKept (s.csv l) ((consumeItem s l f).csv l) := by
  unfold consumeItem
  split
  all_goals first | exact .refl _ | skip
  split
  · exact advanceSend_timers _
  · exact .refl _

theorem sendStep_timers (k : sendStep s l = some t) : TimersKept (s.csv l) (t.csv l) := by
  unfold sendStep at k
  simp only at k
  split at k
  · next u e =>
    cases k
    split at e
    · next g hg =>
      split at e
      · cases e
        exact (endGrant_storeOnly (s.onSelector l fun x => { x with
          grant := none, cutoff := if g.handed && lineReady s l then some (closing s l) else x.cutoff }) _ _).timers (l := l)
      · cases e
    · cases e
  · split at k
    · cases k
    · simp only [Option.orElse_eq_orElse, Option.orElse_eq_or, Option.or_eq_some_iff] at k
      rcases k with k | ⟨-, k | ⟨-, k | ⟨-, k | ⟨-, k⟩⟩⟩⟩
      · split at k
        · next kd qs e =>
          cases k
          exact seqDone_timers (s := s.setSelector l { s.selector l with seqs := qs }) kd
        · cases k
        · cases k
      · split at k
        · cases k; exact answerbackEnd_timers
        · cases k
        · cases k
      · split at k
        · cases k; exact .refl _
        · cases k
      · split at k
        · cases k
        · next g e =>
          split at k
          · cases k
            exact (completeDelivery_storeOnly (s.setSelector l { s.selector l with grant := none }) _ _).timers (l := l)
          · split at k
            · cases k
            · split at k
              · cases k
              · split at k
                · cases k
                  exact (endGrant_storeOnly (s.setSelector l { s.selector l with grant := none }) _ _).timers (l := l)
                · cases k; exact .refl _
          · cases k
          · cases k
      · split at k
        · split at k
          · cases k
          · split at k
            · cases k
              exact consumeItem_timers (s := countUntranslatable s l) _
            · cases k
        · cases k

theorem sendSweep_timers (n : Nat) (s : State) : TimersKept (s.csv l) ((sendSweep n s l).csv l) := by
  induction n generalizing s with
  | zero => exact .refl _
  | succ n ih =>
    unfold sendSweep
    split
    · exact .refl _
    · next k => exact (sendStep_timers k).trans (ih _)

theorem settleLine_timers (s : State) (l : LineId) : TimersKept (s.csv l) ((settleLine s l).csv l) := by
  unfold settleLine
  have := ((settle_settled (sendSweep sweepFuel s l)).kept.quiet l rfl).2.1
  rw [this]; exact sendSweep_timers _ _

end Sys2Proof.Machine
end

