-- ==== Sys2Proof/Tests/Slice0.lean ====
section
/-! SUPPORT. Tests of the model's own: what WellFormed refuses, single steps and tables against the spec's figures, and
for each statement with hypotheses a state and operands that meet them. -/

set_option Elab.async false

namespace Sys2Proof.Tests

open Sys2Proof Sys2Proof.Machine

/-! ## Well-formedness -/

/-- A payload of 249 bytes does not fit the length byte (R183). -/
theorem test_payload_of_249_is_refused : (Instr.msgAppend (List.replicate 249 0)).wellFormed = false := by decide +kernel
theorem test_payload_of_248_is_taken : (Instr.msgAppend (List.replicate 248 0)).wellFormed = true := by decide +kernel
theorem test_other_rows_are_well_formed : (Instr.commandTransfer (List.replicate 300 0)).wellFormed = true := by decide

/-! ## Figures of the spec -/

/-- R22, R24, R32: Q 5000 at 16,384,000 Hz gives N 3,277 and an error of +61 ppm. -/
theorem test_increment : increment 5000 16384000 = 3277 ∧ rateErrorOf 5000 16384000 3277 = 61 := by decide +kernel
/-- R58: a block holds 32 characters, and a record has at least one. -/
theorem test_blocks : (blocksFor 0, blocksFor 32, blocksFor 33, blocksFor 64) = (1, 1, 2, 2) := by decide
/-- R156: four decimal digits with leading zeros. -/
theorem test_four_digits : fourDigits 42 = [48, 48, 52, 50] := by decide
/-- R155: from line 63 of a page of 66 with margins of 3, a line feed is seven LFs and leads to line 4. -/
theorem test_last_line_feed : lineFeed { Printer.powerOn with line := 63 } =
    [.lf none, .lf none, .lf none, .lf none, .lf none, .lf none, .lf (some (4, true))] := by decide
/-- R155: a page feed from line 4 goes to the next page. -/
theorem test_page_feed : (pageFeed Printer.powerOn).length = 66 := by decide
/-- R154: with both options ON a record's LF after text is a CR and a line feed. -/
theorem test_lf_implies_cr : charOps { Printer.powerOn with
    count := 5, cfg := { Printer.powerOn.cfg with lfImpliesCr := true } } 10 = [.cr, .lf (some (5, false))] := by decide
/-- R149: a level is taken after 20 ticks, and a return to the old level starts the count again. -/
theorem test_sensor_counts : (Sensor.sample 20 ⟨false, false, 18⟩ true).ripe 20 = false ∧
    (Sensor.sample 20 ⟨false, false, 19⟩ true).ripe 20 = true ∧
    Sensor.sample 20 ⟨true, false, 19⟩ false = ⟨false, false, 0⟩ := by decide
/-- R122: page 1 with NEXT clear, ACK set and ACCEPT 256. -/
theorem test_page_one : pageOf 1 false true 256 = [0b10011, 0b00000, 0b01000, 0b00000] := by decide
/-- R184: a keymap entry at position 63, kind MODE_DIRECT_B, is packed in three bytes. -/
theorem test_keymap_entry : readKeyEntry 0xBF 0x00 0x80 = some (63, ⟨.modeDirectB, 0, 0⟩) := by decide
/-- R133: with DEBOUNCE 3 a position goes DOWN on the third scan. -/
theorem test_debounce : scanKey 3 ⟨false, 1⟩ true = ⟨false, 2⟩ ∧ scanKey 3 ⟨false, 2⟩ true = ⟨true, 0⟩ := by decide
/-- R56: the number after 9999 is 1; R97: the call count after 65,535 is 1. -/
theorem test_numbers_wrap : nextNumber 9999 = 1 ∧ nextCall 65535 = 1 := by decide
/-- R51, R58: the cells are read back as written, and the last value written stands. -/
theorem test_cells : Memory.read (Memory.write (Memory.write [] 33 65) 33 66) 33 = 66 := by decide

/-! ## Single steps -/

/-- The next state of a row. -/
def after (i : Instr) (s : State) : State :=
  match exec i s with
  | .next t => t
  | .fault _ | .refused _ => s

/-- R190: IDENTIFY answers the part code, the revision and the straps. -/
theorem test_identify : (after (.identify []) (State.powerOn 0b10011)).cpe.port = .response .ok [0x20, 0x51, 0x01, 0x13] := by
  decide
/-- R183: a bad command transfer answers BAD_COMMAND. -/
theorem test_bad_command : (after (.commandTransfer [0xA1, 0x7F, 0x00]) State.reset).cpe.port = .response .badCommand [] := by
  decide
/-- R187: a response transfer of two bytes consumes the response; one byte does not. -/
theorem test_response_consumed :
    (after (.responseTransfer 2) (after (.identify []) State.reset)).cpe.port = .empty ∧
    (after (.responseTransfer 1) (after (.identify []) State.reset)).cpe.port ≠ .empty := by decide
/-- R188: MOTOR_FAULT is bit 14, and a start limit that runs out latches it. -/
theorem test_start_limit : (after (.startLimitExpiry .punch) (State.reset.onMotor .punch fun m =>
    { m with state := .starting, start := some 0 })).cpe.latches = 0x4000 := by decide +kernel
/-- R66: the first record created is record 0 with number 1. -/
theorem test_create : (after (.msgCreate [0x10, 0]) State.reset).cpe.port = .response .ok [0, 1, 0] := by decide +kernel
/-- R26: a part just powered on may enter standby; the divisor is 32. -/
theorem test_standby : (after (.standby [0]) State.reset).tbu.tickDivisor = 32 := by decide +kernel
/-- R157: at the decay tick H falls by one. -/
theorem test_heat_decay : (after .heatDecay { State.reset with prc := { Printer.powerOn with heat := 9, decay := 0 } }).prc.heat = 8 := by
  decide

/-! ## Witnesses: states that meet the statements' hypotheses -/

theorem wit_ready : Ready State.reset := ⟨rfl, rfl, rfl⟩

/-- A line in a supervisor state and a receiver mode, from reset. -/
def at_ (l : LineId) (st : SupState) (m : RxMode) (f : SupTimers → SupTimers) : State :=
  ((State.reset.onCsv l fun c => { c with state := st, timers := f c.timers }).onRx l fun r => { r with mode := m })

/-- A CLOSED console record for the printer, one block long. -/
def sample : Rec :=
  { newRecord .console 1 0 ⟨false, ⟨⟨true, false, false, false⟩, false⟩, false, false, false, none, none⟩ with
    state := .closed, length := 3, stamp := ⟨some 0, none, none, none⟩ }

/-- The state at reset with a record at index 0. -/
def holding (r : Rec) : State := State.reset.setRecord 0 (some r)

/-- The last index is reached too. -/
def holdingLast (r : Rec) : State := State.reset.setRecord 47 (some r)

theorem wit_held : (at_ .A .free .condition id).running = true ∧
    ({ State.reset with tbu := { Timebase.powerOn with state := .standby } } : State).running = false ∧
    ({ State.reset with tbu := { Timebase.powerOn with state := .waking } } : State).running = false := by decide

theorem wit_StepTakesTheFrontCommand : ({ State.reset with pending := [.prdy, .heatDecay] } : State).pending =
    .prdy :: [.heatDecay] ∧ State.reset.pending = [] := ⟨rfl, rfl⟩

theorem wit_ResetnLowIgnoresTransfers : (after .resetnAsserted State.reset).cpe.resetLow = true := by decide

theorem wit_CommandTransferRunsItsCommand : (List.replicate 248 (0 : Byte)).length ≤ 248 ∧ ([] : List Byte).length ≤ 248 ∧
    ([0xA0] : List Byte).head? ≠ some 0xA1 ∧ ([0xA0] : List Byte).head? ≠ some 0xA2 := by decide +kernel

theorem wit_BadTransferAnswersBadCommand : State.reset.cpe.resetLow = false ∧ State.reset.cpe.port = .empty ∧
    ([0xA1] : List Byte).head? = some 0xA1 ∧ ∀ (c : Command) (p extra : List Byte), p.length ≤ 248 →
      ([0xA1] : List Byte) ≠ [0xA1, c.code, BitVec.ofNat 8 p.length] ++ p ++ extra :=
  ⟨rfl, rfl, rfl, fun c p e _ => by simp⟩

/-- A part whose port holds a response. -/
def answering : State := refused 0 .badArgument State.reset

theorem wit_OverrunDiscardsTheTransfer : answering.cpe.resetLow = false ∧ answering.cpe.port ≠ .empty ∧
    ∃ rest, Instr.commandTransfer [0xA1] = .commandTransfer (0xA1 :: rest) := ⟨rfl, by decide, [], rfl⟩

theorem wit_ResponseTransferReturnsAndConsumes : answering.cpe.port = .response .badArgument [] ∧
    ({ State.reset with cpe := { State.reset.cpe with port := .executing .restart [] } } : State).cpe.port =
      .executing .restart [] ∧ State.reset.cpe.port = .empty ∧ State.reset.cpe.resetLow = false := ⟨rfl, rfl, rfl, rfl⟩

theorem wit_CommandIsHeldUntilThePartRuns :
    let s : State := { State.reset with tbu := { Timebase.powerOn with state := .standby } }
    let t : State := { State.reset with cpe := { State.reset.cpe with port := .executing .restart [] } }
    s.cpe.resetLow = false ∧ s.cpe.port = .empty ∧ s.running = false ∧ t.running = true ∧
      t.cpe.port = .executing .restart [] ∧ (List.replicate 248 (0 : Byte)).length ≤ 248 := by decide +kernel

theorem wit_NoPayloadCommandsRefuseOne : Ready State.reset ∧ 1 ≤ (List.replicate 248 (0 : Byte)).length ∧
    (List.replicate 248 (0 : Byte)).length ≤ 248 ∧ 1 ≤ ([0] : List Byte).length := ⟨wit_ready, by decide +kernel⟩

theorem wit_SetTimebaseTakesSourceAndReference : (1000000 < 2 ^ 32 ∧ 20000000 < 2 ^ 32) ∧ ((0 : Byte) = 0 ∧ (0 : Nat) = 0) ∧
    ((1 : Byte).toNat ≤ 1 ∧ 1000000 ≤ 1000000 ∧ 1000000 ≤ 20000000) ∧
    ¬ (((2 : Byte) = 0 ∧ 1000000 = 0) ∨ ((2 : Byte).toNat ≤ 1 ∧ 1000000 ≤ 1000000 ∧ 1000000 ≤ 20000000)) := by decide

theorem wit_StandbyIsEnteredExactlyWhenQuiet : State.reset.tbu.state ≠ .qualifying ∧ (∀ l, (State.reset.csv l).state = .disabled ∧
    (State.reset.unit l).tx.state = .idle ∧ (State.reset.selector l).grant = none) ∧ State.reset.kbs.fifo = [] ∧
    State.reset.prc.grant = none ∧ State.reset.prc.op = none ∧ State.reset.puc.grant = none ∧
    State.reset.puc.op = none ∧ State.reset.entries = [] :=
  ⟨by decide, fun l => by cases l <;> decide, rfl, rfl, rfl, rfl, rfl, by decide⟩

theorem wit_QualificationEndJudgesTheReference :
    let s : State := { State.reset with tbu := { Timebase.powerOn with state := .qualifying, fRef := 1280000 } }
    s.tbu.state = .qualifying ∧ 20 * (128 * (10500 : Int) - (s.tbu.fRef : Int)).natAbs ≤ s.tbu.fRef ∧
      ¬ 20 * (128 * (10501 : Int) - (s.tbu.fRef : Int)).natAbs ≤ s.tbu.fRef := by decide

theorem wit_ReferenceLostFallsBack : ({ Timebase.powerOn with state := .reference } : Timebase).state = .reference := rfl

theorem wit_powerOn_modes (k : BitVec 5) : ModesFollow (State.powerOn k) := by intro l; cases l <;> rfl

/-- A RUNNING private line waiting for the wake to complete. -/
def waking : State :=
  { at_ .B .running .watch id with tbu := { Timebase.powerOn with state := .waking, wakeTimer := some 0 } }

theorem wit_WakeCompleteResumes : ModesFollow waking ∧ waking.tbu.state = .waking ∧ waking.tbu.wakeTimer = some 0 ∧
    (waking.unit .B).rx.mode = .watch := ⟨by intro l; cases l <;> rfl, rfl, rfl, rfl⟩

theorem wit_TimersExpireOnTheNthTick : ((at_ .A .guard .condition fun t => { t with guard := some 1 }).csv .A).timers.guard = some 1 ∧
    ({ Printer.powerOn with yieldTimer := some (2999, 3000), op := some (.cr, 1) } : Printer).yieldTimer =
      some (2999, 3000) := ⟨rfl, rfl⟩

theorem wit_SetCodeTableLoadsItsEntries :
    let es : List (Nat × Shift × CodeEntry) := [(1, .letters, ⟨.char, 127⟩), (30, .figures, ⟨.selectEnd, 0⟩)]
    Ready State.reset ∧ State.reset.ctr.table.length = 64 ∧ 1 ≤ es.length ∧ es.length ≤ 52 ∧ (∀ x ∈ es, x.1 < 32) ∧
      ((127 : Byte).toNat ≤ 127 ∧ (127 : Byte).toNat ∉ [5, 7, 10, 12, 13, 32]) ∧
      (∀ x ∈ es, fixedComb x.1 = false ∧ x.2.2.legal = true) ∧ (es.map fun x => (x.1, x.2.1)).Nodup :=
  ⟨wit_ready, by decide⟩

theorem wit_TransmitTranslationTakesTheLowest : (∃ k < 32, carries 32 (tableEntry powerOnTable k .letters) = true ∧
      ∀ j < k, carries 32 (tableEntry powerOnTable j .letters) = false) ∧
    (∀ k < 32, carries 65 (tableEntry powerOnTable k .letters) = false ∧
      carries 65 (tableEntry powerOnTable k .figures) = false) := ⟨⟨4, by decide⟩, by decide⟩

theorem wit_SetLineReplacesTheRecord :
    let c : LineConfig := ⟨.switched, true, 30000, .two, .half, true, 1000, 32⟩
    Ready State.reset ∧ ModesFollow State.reset ∧ (4500 ≤ c.rate ∧ c.rate ≤ 30000) ∧ 50 ≤ c.turnaroundMs ∧ c.turnaroundMs ≤ 1000 ∧
      4 ≤ c.alarmThreshold ∧ c.alarmThreshold ≤ 32 ∧ (State.reset.csv .A).state = .disabled ∧
      ((at_ .A .guard .condition id).csv .A).state = .guard ∧ Ready (at_ .A .guard .condition id) ∧
      ModesFollow (at_ .A .guard .condition id) :=
  ⟨wit_ready, wit_powerOn_modes 0, by decide, by decide, by decide, by decide, by decide, rfl, rfl, ⟨rfl, rfl, rfl⟩,
    by intro l; cases l <;> rfl⟩

theorem wit_LineTickStepsTheLine : State.reset.running = true ∧ 0 < State.reset.tbu.inc.get .A ∧
    State.reset.tbu.inc.get .A ≤ 2 ^ 24 ∧ ((at_ .A .connected .framing id).unit .A).rx.mode = .framing := by decide

theorem wit_CharacterWaveform :
    let s := State.reset.onTx .A fun t => { t with state := .sending 31 64 0, pin := .space }
    s.running = true ∧ (s.unit .A).tx.state = .sending 31 64 0 ∧ (s.unit .A).tx.pin = .space ∧
      (List.replicate 448 Level.mark).length ≤ 384 + 64 := by decide +kernel

/-- A connected line on mark with an offer placed. -/
def placed : State :=
  ((at_ .A .connected .framing id).order .A .mark).onSelector .A fun x => { x with seqs := [⟨.offer, [.raw 0]⟩] }

theorem wit_TxCharacterStartHandsTheNext : placed.running = true ∧ (placed.csv .A).state ≠ .disabled ∧
    (placed.unit .A).tx.state = .idle ∧ (placed.unit .A).tx.ordered = .mark ∧ (placed.selector .A).companion = none ∧
    (placed.selector .A).flight = none ∧ (placed.selector .A).seqs = ⟨.offer, .raw 0 :: []⟩ :: [] := by decide

theorem wit_TxCharacterEndFreesTheTransmitter : ((State.reset.onTx .B fun t => { t with state := .sending 1 96 480 }).unit .B).tx.state =
    .sending 1 96 480 ∧ 384 + 96 ≤ 480 := by decide

/-- A frame at its start check, and one at its stop sample. -/
def framed (f : Frame) : State := (at_ .A .connected .framing id).onRx .A fun r => { r with sub := .character f }

theorem wit_StartElementAndItsCheck : ((framed ⟨32, false, [], 0⟩).unit .A).rx.mode = .framing ∧
    ((framed ⟨32, false, [], 0⟩).unit .A).rx.sub = .character ⟨32, false, [], 0⟩ := ⟨rfl, rfl⟩

theorem wit_StopSampleEndsTheFrame :
    let f : Frame := ⟨416, true, List.replicate 15 .mark, 20⟩
    ((framed f).unit .A).rx.mode = .framing ∧ ((framed f).unit .A).rx.sub = .character f ∧ 416 ≤ f.pos ∧
      f.samples.length = 15 := by decide

/-- A receiver in CONDITION whose last sample differs from the known condition. -/
def changed : State := (at_ .A .free .condition id).onRx .A fun r => { r with last := .mark }

theorem wit_ReportedConditionsReachTheSupervisor : (changed.unit .A).rx.mode = .condition ∧
    (changed.unit .A).rx.last ≠ (changed.unit .A).rx.known ∧ ModesFollow changed ∧
    ModesFollow (framed ⟨0, false, [], 0⟩) := by
  refine ⟨rfl, by decide, ?_, ?_⟩ <;> (intro l; cases l <;> rfl)

theorem wit_IdentityAndValuesAreSet_identity : (List.replicate 20 (1 : Chr)).length ≤ 20 ∧ (∀ c ∈ List.replicate 20 (1 : Chr), c ≠ 0 ∧ c ≠ 5) ∧
    (List.replicate 120 (1 : Chr)).length ≤ 120 := by decide

theorem wit_IdentityAndValuesAreSet_values :
    let v : SupValues := ⟨true, 511, 250, 3000, 1000, 10000, 5000, 60000, 30, 60, 300, 600, false⟩
    v.acceptMin ≤ 511 ∧ v.callRecognizeMs ≤ 255 ∧ 200 ≤ v.clearRecognizeMs ∧ v.clearRecognizeMs ≤ 3000 ∧
      v.confirmMs ≤ 1000 ∧ v.clearConfirmMs ≤ 10000 ∧ v.guardMs ≤ 5000 ∧ v.prepMs ≤ 60000 ∧ v.callConfirmS ≤ 30 ∧
      v.proceedS ≤ 60 ∧ v.connectS ≤ 300 ∧ v.idleTimeoutS ≤ 600 ∧ 10 ≤ v.callRecognizeMs := by decide

theorem wit_CallSeizesAFreeSwitchedLine :
    let s := at_ .A .free .condition id
    Ready s ∧ ModesFollow s ∧ (s.unit .A).cfg.lineType = .switched ∧ (s.csv .A).state = .free ∧
      (∀ d ∈ ([48, 57] : List Chr), 48 ≤ d.toNat ∧ d.toNat ≤ 57) ∧ (∀ c ∈ ([65] : List Chr), c ≠ 0 ∧ c ≠ 5) ∧
      1 ≤ ([65] : List Chr).length :=
  ⟨⟨rfl, rfl, rfl⟩, by intro l; cases l <;> rfl, rfl, rfl, by decide, by decide, by decide⟩

theorem wit_ClearCallAndExpiriesClear : Ready (at_ .A .calling .framing id) ∧
    ((at_ .A .calling .framing fun t => { t with proceed := some 0 }).csv .A).timers.proceed = some 0 ∧
    ((at_ .A .refusing .condition fun t => { t with clearRecognize := some 0 }).csv .A).state = .refusing :=
  ⟨⟨rfl, rfl, rfl⟩, rfl, rfl⟩

theorem wit_RecognizedCallIsAdmittedOrRefused :
    let s := at_ .A .incoming .condition fun t => { t with recognize := some 0 }
    (s.csv .A).state = .incoming ∧ (s.csv .A).timers.recognize = some 0 := by decide

theorem wit_ConfirmedCallConnects :
    let s := at_ .A .answering .condition fun t => { t with confirm := some 0, prepPunch := some 0 }
    (s.csv .A).state = .answering ∧ (s.csv .A).timers.confirm = some 0 ∧ NothingPlaced s .A ∧ ModesFollow s ∧
      (s.csv .A).timers.prep .punch = some 0 :=
  ⟨rfl, rfl, ⟨rfl, rfl⟩, by intro l; cases l <;> rfl, rfl⟩

theorem wit_ClearedLineGuardsAndFrees :
    let s := at_ .A .clearing .framing fun t => { t with clearConfirm := some 0 }
    let u := at_ .A .guard .condition fun t => { t with guard := some 0 }
    (s.csv .A).state = .clearing ∧ (s.csv .A).timers.clearConfirm = some 0 ∧ (u.csv .A).state = .guard ∧
      (u.csv .A).timers.guard = some 0 ∧ (u.unit .A).rx.mode = .condition := by decide

/-- The power-on table with WRU at combination 9 in FIGURES. -/
def wruTable : List CodeEntry := powerOnTable.set 41 ⟨.wru, 0⟩

/-- A line in a phase, with its capture and quiet timers run out, and WRU in the table. -/
def asked (st : SupState) (p : CallPhase) (x : List RxChar) : State :=
  let s := (at_ .A st .framing fun t => { t with quiet := some 0, capture := some 0 }).onCsv .A fun c =>
    { c with phase := p, captured := x, expected := some [65], matchLen := 1 }
  { s with ctr := { s.ctr with table := wruTable } }

theorem wit_OutgoingCallAsksCapturesAndEnds_asks : NothingPlaced (asked .awaitConnect (.progress true) []) .A ∧
    (translateChr (asked .awaitConnect (.progress true) []).ctr.table 5).isSome = true ∧
    ((asked .awaitConnect .capturing [⟨65, false⟩]).csv .A).captured.take 1 = ([65] : List Chr).map (⟨·, false⟩) ∧
    ((asked .connected .capturing []).csv .A).captured = [] ∧
    ((asked .connected .capturing []).csv .A).timers.capture = some 0 :=
  ⟨⟨rfl, rfl⟩, by decide +kernel, by decide, rfl, rfl⟩

/-- An outgoing call with nothing left to do. -/
def finished : State :=
  (at_ .A .connected .framing id).onCsv .A fun c =>
    { c with direction := .outgoing, exch := { c.exch with sub := .plain }, values := { c.values with endWru := false } }

theorem wit_OutgoingCallAsksCapturesAndEnds_done : callDone ({ finished with
    ctr := { finished.ctr with table := wruTable } }.onRx .A fun r => { r with age := 65535 }) .A = true := by
  decide +kernel

theorem wit_PrivateLineFaultsAndRecovers :
    let s := at_ .B .running .framing fun t => { t with fault := some 0 }
    let u := at_ .B .fault .condition fun t => { t with recovery := some 0 }
    (s.csv .B).timers.fault = some 0 ∧ ModesFollow s ∧ (u.csv .B).timers.recovery = some 0 ∧ ModesFollow u ∧
      NothingPlaced u .B :=
  ⟨rfl, by intro l; cases l <;> rfl, rfl, by intro l; cases l <;> rfl, rfl, rfl⟩

/-- A connected line in a sub-state of the exchange with its timers run out. -/
def exchanging (d : Direction) (x : ExchSub) : State :=
  (at_ .A .connected .framing id).onCsv .A fun c =>
    { c with direction := d, exch := { c.exch with sub := x, offerTimer := some 0, pageTimer := some 0 } }

theorem wit_ExchangeConfigurationAndTimers : offerWaiting (exchanging .incoming .offerWait) .A = true ∧
    NothingPlaced (exchanging .incoming .offerWait) .A ∧
    ((exchanging .outgoing .offerWait).csv .A).exch.held = [] ∧ NothingPlaced (exchanging .outgoing .offerWait) .A ∧
    ((exchanging .incoming .awaitClose).csv .A).exch.sub.isPaging = true ∧
    NothingPlaced (exchanging .incoming .awaitClose) .A ∧ (500 ≤ 10000 ∧ 4095 ≤ 4095 ∧ 511 ≤ 511) :=
  ⟨rfl, ⟨rfl, rfl⟩, rfl, ⟨rfl, rfl⟩, rfl, ⟨rfl, rfl⟩, by decide⟩

/-! ### The store, the queues -/

theorem wit_RestartActsOnEveryBlock : Ready (holdingLast { sample with state := .opened, cursor := ⟨2, 0, 0, 0⟩ }) ∧
    ((holdingLast { sample with state := .opened }).record 47).isSome = true := ⟨⟨rfl, rfl, rfl⟩, by decide⟩

theorem wit_ReadsReturnTextAndQueueOrder : Ready (holdingLast sample) ∧ (holdingLast sample).record 47 = some sample ∧
    State.reset.record 47 = none ∧ sample.length ≤ 3 ∧ sample.length < 4 ∧ (1 ≤ 240 ∧ 240 ≤ 240) ∧
    (0 : Byte).toNat = 0 ∧ 240 < (241 : Byte).toNat := by
  refine ⟨⟨rfl, rfl, rfl⟩, by decide +kernel, by decide, by decide⟩

/-- Four OPEN console records. -/
def four : State :=
  [0, 1, 2, 3].foldl (fun s i => s.setRecord i (some { sample with state := .opened })) State.reset

theorem wit_MsgCreateOpensARecord : Ready State.reset ∧ DestSet.isEmpty ⟨⟨false, false, false, false⟩, true⟩ = false ∧
    DestSet.isEmpty .empty = true ∧ State.reset.entries = [] ∧ State.reset.record 0 = none ∧
    State.reset.stm.free = 0 :: (List.range 511).map (· + 1) ∧ Ready four ∧
    4 ≤ four.entries.countP (fun e => decide (e.2.origin = .console) && decide (e.2.state = .opened)) ∧
    ({ State.reset with stm := { Store.powerOn with free := [] } } : State).stm.free.length ≤ 0 := by
  exact ⟨wit_ready, rfl, rfl, by decide, by decide, by decide +kernel, ⟨rfl, rfl, rfl⟩, by decide +kernel, by decide⟩

/-- An OPEN console record of `n` characters in block 0, the rest of the blocks free. -/
def writing (n : Nat) : State :=
  let s := holding { sample with state := .opened, length := n, chain := [0] }
  { s with stm := { s.stm with free := (List.range 511).map (· + 1) } }

theorem writing_conserves : BlocksConserved (writing 3) ∧ BlocksConserved (writing 5) ∧ BlocksConserved (writing 31) ∧
    BlocksConserved (writing 32) := by
  unfold BlocksConserved
  decide +kernel

theorem wit_MsgAppendStoresTheText : Ready (writing 31) ∧ BlocksConserved (writing 31) ∧ blocksFor 31 = 1 ∧ blocksFor 33 - 1 = 1 ∧
    ([65, 66] : List Chr).filter (fun c => decide (c ≠ 0)) = [65, 66] ∧ 31 + 2 < (writing 31).stm.cfg.maxMsgLen ∧
    (writing 31).stm.free.length = 511 ∧ (writing 31).record 1 = none :=
  ⟨⟨rfl, rfl, rfl⟩, writing_conserves.2.2.1, by decide +kernel⟩

/-- A full block with the store taken up, and a record one below the limit. -/
theorem wit_MsgAppendStoresTheText_fullAndSplit :
    let s := { writing 32 with stm := { (writing 32).stm with reservation := ⟨511, 0⟩ } }
    let u := { writing 5 with stm := { (writing 5).stm with cfg := ⟨6, 64, true⟩ } }
    Ready s ∧ BlocksConserved s ∧ s.stm.free.length ≤ 511 ∧ 32 % 32 = 0 ∧ Ready u ∧ BlocksConserved u ∧
      5 + 1 = u.stm.cfg.maxMsgLen ∧ 5 % 32 ≠ 0 ∧ u.record 1 = none ∧ 0 < u.stm.free.length := by
  unfold Ready BlocksConserved
  decide +kernel

theorem wit_MsgCloseAndDelete :
    let open_ := { sample with state := .opened }
    let granted := { sample with grants := ⟨true, false, false, false⟩ }
    let bare := { sample with state := .opened, dests := .empty }
    (holding open_).record 0 = some open_ ∧ open_.dests.isEmpty = false ∧ (holding bare).record 0 = some bare ∧
      bare.dests.isEmpty = true ∧ bare.grants.any = false ∧ (holdingLast granted).record 47 = some granted ∧
      granted.grants.any = true ∧ State.reset.record 47 = none := by decide +kernel

theorem wit_StoreAndQueueConfiguration : (512 ≤ 8192 ∧ 8192 ≤ 8192 ∧ 511 ≤ 511) ∧
    (holding { sample with state := .opened }).record 0 = some { sample with state := .opened } ∧
    (State.reset.framerOf .A).phase = .idle ∧ (State.reset.selector .A).grant = none ∧
    (∀ c ∈ ([78, 127] : List Chr), c.toNat ∉ [0, 5, 10, 13]) := by decide +kernel

theorem wit_MsgRerouteRemovesThenAdds :
    let more : DestSet := ⟨⟨false, true, false, true⟩, false⟩
    let gone : DestSet := ⟨⟨true, false, false, false⟩, false⟩
    more.isEmpty = false ∧ (∀ d : Deliv, ¬ (more.out.get d = true ∧ gone.out.get d = true)) ∧
      (holding sample).record 0 = some sample ∧ sample.state ≠ .cancelled ∧ ¬ (sample.origin = .lineA) ∧
      ¬ (sample.origin = .lineB) := by
  refine ⟨rfl, ?_, by decide +kernel, by decide, by decide, by decide⟩
  intro d; cases d <;> decide

/-- A stored record for line A, at the first place of its queue. -/
def outgoing : Rec := { sample with dests := ⟨⟨false, false, true, false⟩, false⟩, stamp := ⟨none, none, some 0, none⟩ }

/-- Line A RUNNING with one record to send and a limit of one block. -/
def sending (r : Rec) : State :=
  ((at_ .A .running .framing id).onCsv .A fun c => { c with remaining := .blocks 1 }).setRecord 0 (some r)

theorem wit_SendGrantChoosesLiveThenStored : (sending outgoing).record 0 = some outgoing ∧ (outgoing.stamp.get (sendOf .A)).isSome = true ∧
    outgoing.state = .closed ∧ outgoing.live .A = false ∧ blocksFor outgoing.length ≤ 1 ∧
    ((sending outgoing).csv .A).remaining = .blocks 1 ∧ storedHeldBack (sending outgoing) .A = false ∧
    ((sending outgoing).selector .A).grant = none ∧ ((sending outgoing).csv .A).ending = false ∧
    (sending outgoing).entries = [(0, outgoing)] ∧
    ({ outgoing with flags := { outgoing.flags with liveA := true } } : Rec).live .A = true := by decide +kernel

theorem wit_SendGrantChoosesLiveThenStored_gap :
    let s := (at_ .A .running .framing id).onFramer .A fun _ => ⟨.text, [], some 0⟩
    (s.csv .A).state = .running ∧ (s.framerOf .A).gap = some 0 ∧ (s.framerOf .A).phase ≠ .idle := by decide

/-! ### Keyboard and mechanisms -/

theorem wit_KeymapRepeatAndBell :
    let es : List (Nat × KeyEntry) := [(0, ⟨.char, 127, 0⟩), (63, ⟨.modeDirectB, 0, 0⟩)]
    Ready State.reset ∧ 1 ≤ es.length ∧ es.length ≤ 64 ∧ (∀ e ∈ es, e.1 < 64) ∧ (es.map (·.1)).Nodup ∧
      (∀ e ∈ es, if e.2.kind = .char then e.2.plain ≠ 5 ∧ e.2.shifted ≠ 5 ∧ (e.2.plain ≠ 0 ∨ e.2.shifted ≠ 0)
        else e.2.plain = 0 ∧ e.2.shifted = 0) := ⟨wit_ready, by decide⟩

/-- A keyboard with a CHAR key at position 0, repeating, and this FIFO; locked when `full`. -/
def typing (fifo : List KeyAction) (full : Bool) : State :=
  State.reset.onKbs fun k =>
    { k with keymap := k.keymap.set 0 ⟨.char, 65, 66⟩, repeatKey := some 0, repeatTimer := some 0, fifo := fifo
             storeFull := full, scanTimer := 0, bell := some 0, debounce := 2
             keys := k.keys.set 0 ⟨false, 1⟩ }

theorem wit_KeymapRepeatAndBell_repeat : (typing [] true).kbs.repeatTimer = some 0 ∧ (keyEntry (typing [] true).kbs 0).kind = .char ∧
    (keyEntry (typing [] true).kbs 0).plain ≠ 0 ∧ kbLocked (typing [] true) = true ∧
    16 ≤ (typing (List.replicate 16 .wru) true).kbs.fifo.length ∧
    (typing (List.replicate 15 .wru) true).kbs.fifo.length < 16 := by decide +kernel

theorem wit_ScanDebouncesAndKeysAreCarriedOut : (typing [] true).kbs.scanTimer = 0 ∧ (typing [] true).running = true ∧
    kbLocked (typing [] true) = true ∧ keyDown (typing [] true).kbs 0 = false ∧
    keyDown (after (.keyboardScan 1) (typing [] true)).kbs 0 = true ∧
    (after (.keyboardScan 1) (typing [] true)).kbs.fifo = [.chr 65] := by decide +kernel

theorem wit_ScanDebouncesAndKeysAreCarriedOut_drain : kbLocked (typing [.chr 65] false) = false ∧ (typing [.chr 65] false).stm.kbLink = none ∧
    (typing [.chr 65] false).record 0 = none ∧ 2 ≤ (typing [.chr 65] false).stm.cfg.maxMsgLen := by decide +kernel

theorem wit_PrinterConfigurationSensorsAndHeat :
    let c : PrinterConfig := ⟨40, 99, 40, 40, true, true, .overprint, false, 2000, 4000, 30, 63, 50, 960, 959⟩
    Ready State.reset ∧ c.top + c.bottom + 10 ≤ c.pageLength ∧ c.hLo < c.hHi ∧ State.reset.prc.grant = none ∧
      State.reset.prc.op = none ∧ ({ Printer.powerOn with release := some 0 } : Printer).release = some 0 ∧
      ({ Printer.powerOn with cover := ⟨true, false, 20⟩ } : Printer).cover.count = 20 := ⟨wit_ready, by decide⟩

/-- A printer in READY, granted record 0, in TEXT. -/
def printing (op : Option (PrintOp × Nat)) (owed : Bool) : State :=
  let s := holding { sample with grants := ⟨true, false, false, false⟩ }
  { s with
    prc := { s.prc with grant := some ⟨0, .text, none, []⟩, op := op, owedCr := owed }
    mtc := { s.mtc with print := { s.mtc.print with state := .running } }
    stm := { s.stm with cells := [(0, 65), (1, 66), (2, 67)] } }

theorem wit_PrinterPrintsItsQueue : PrinterReady (printing none true) ∧ PrinterReady (printing none false) ∧
    charOps (printing none false).prc 65 = [.strike 65] ∧ ¬ (printing none false).prc.cfg.hHi ≤ 0 ∧
    (printing (some (.strike 65, 0)) false).prc.op = some (.strike 65, 0) ∧
    ({ Printer.powerOn with yieldTimer := some (3000, 3000) } : Printer).yieldTimer = some (3000, 3000) :=
  ⟨⟨rfl, rfl, rfl, rfl, rfl, rfl⟩, ⟨rfl, rfl, rfl, rfl, rfl, rfl⟩, by decide, by decide, rfl, rfl⟩

theorem wit_PrinterPrintsItsQueue_grant : (holding sample).prc.grant = none ∧ (holding sample).running = true ∧
    (holding sample).entries = [(0, sample)] ∧ Candidate (holding sample) .print 0 sample ∧
    chooseGrant .lineB (printChoices (holding sample)) = some 0 :=
  ⟨rfl, rfl, by decide +kernel, ⟨by decide +kernel, rfl, .inl rfl⟩, by decide +kernel⟩

theorem wit_PunchConfigurationAndSensors :
    let c : PunchConfig := ⟨120, 120, List.replicate 6 78, false, 4, 1000, 10000⟩
    c.leader ≤ 120 ∧ 2 ≤ c.eom.length ∧ c.eom.length ≤ 6 ∧ (∀ x ∈ c.eom, x.toNat ∉ [0, 5, 10, 13]) ∧
      c.retryLimit ≤ 4 ∧ c.timeoutMs ≤ 1000 ∧ c.tapeReserve ≤ 10000 ∧
      ({ Punch.powerOn with tapLow := ⟨true, false, 20⟩ } : Punch).tapLow.count = 20 := by decide

/-- A punch in READY, granted record 0 in this phase, with this frame and operation. -/
def punching (p : PunchPhase) (f : Option PunchFrame) (op : Option (PunchOp × Nat)) : State :=
  let s := holding { sample with dests := ⟨⟨false, true, false, false⟩, false⟩, grants := ⟨false, true, false, false⟩ }
  { s with puc := { s.puc with grant := some ⟨0, p, 0, [], none, f⟩, op := op }
           mtc := { s.mtc with punch := { s.mtc.punch with state := .running } } }

theorem wit_PunchPunchesItsQueue : PunchReady (punching .leader none none) ∧ 0 < (punching .leader none none).puc.cfg.leader ∧
    (punching .text (some ⟨.char, 1, 2, []⟩) (some (.punch 1, 0))).puc.op = some (.punch 1, 0) ∧
    (punching .text none none).puc.cfg.retryLimit ≤ 2 ∧
    chooseGrant .lineB (candidates (holding { sample with stamp := ⟨none, some 0, none, none⟩ }) .punch) = some 0 :=
  ⟨⟨rfl, rfl, rfl, rfl, rfl, rfl, rfl⟩, by decide, rfl, by decide, by decide +kernel⟩

theorem wit_MotorsFollowTheirCommandsAndTimers : (200 ≤ 5000 ∧ 600 ≤ 3600) ∧ (Motor.powerOn.state ≠ .fault) ∧
    ({ Motor.powerOn with state := .starting, start := some 0 } : Motor).start = some 0 ∧
    (∃ n, ({ Motor.powerOn with idle := some 5000 } : Motor).idle = some n ∧ 1000 * 5 ≤ n) ∧
    ({ Motor.powerOn with speed := ⟨true, false, 5⟩ } : Motor).speed.count = 5 :=
  ⟨by decide, by decide, rfl, ⟨5000, rfl, by decide⟩, rfl⟩

/-! ### Invariants -/

theorem wit_StoreStaysSound : BlocksConserved (writing 3) ∧ ChainsFit (writing 3) ∧ CellsCanonical (writing 3) := by
  refine ⟨writing_conserves.1, ?_, by show Memory.wf _ = true; decide⟩
  intro i r h
  match i with
  | 0 => cases h; rfl
  | i + 1 =>
    simp [writing, holding, State.setRecord, State.record, State.reset, State.powerOn, Store.powerOn,
      List.getElem?_replicate] at h
    split at h <;> exact nomatch h

theorem wit_ModesTableAndBoundsStay : ModesFollow (at_ .A .connected .framing id) ∧
    Bounded { State.reset with prc := { Printer.powerOn with heat := 1023, count := 72 } } :=
  ⟨by intro l; cases l <;> rfl, ⟨by decide, by decide, by decide, by decide⟩⟩

/-! ### Further clauses

Theorems `wit_<statement>_<clause>` for the clauses that the states above do not meet, at boundary values. -/

theorem wit_EventCommands : Ready State.reset ∧ (List.replicate 248 (0 : Byte)).length ≤ 248 ∧
    (List.replicate 248 (0 : Byte)).length ≠ 3 ∧ ([] : List Byte).length ≠ 3 := ⟨wit_ready, by decide +kernel⟩

theorem wit_RefusedCommandsChangeNothing : Ready State.reset ∧ (List.replicate 248 (0 : Byte)).length ≤ 248 ∧
    (after (.setEventMask [0, 0, 2]) State.reset).cpe.port = .response .badArgument [] ∧
    (after (.clearCall [0]) State.reset).cpe.port = .response .wrongState [] ∧
    (after (.msgClose [47]) State.reset).cpe.port = .response .noRecord [] := ⟨wit_ready, by decide +kernel⟩

theorem wit_IncrementIsTheNearest : (4500 ≤ 4500 ∧ 4500 ≤ 30000 ∧ 1000000 ≤ 20000000 ∧ 20000000 ≤ 20000000) ∧
    increment 4500 20000000 = 2416 ∧ increment 30000 1000000 = 322123 := by decide +kernel

/-- R26: with REFERENCE asked for and no reference declared, and with an OPEN console record, the part is not quiet. -/
theorem wit_StandbyIsEnteredExactlyWhenQuiet_not : Ready State.reset ∧
    (TbSource.reference = .reference ∧ State.reset.tbu.fRef = 0) ∧ State.reset.prc.abandoned = none ∧
    State.reset.puc.abandoned = none ∧
    ((holding { sample with state := .opened }).record 0).map (fun r => (r.origin, r.state)) = some (.console, .opened) :=
  ⟨wit_ready, by decide +kernel⟩

/-- R26: a RUNNING private line is quiet when hunting at mark with an age of 1,000. -/
theorem wit_StandbyIsEnteredExactlyWhenQuiet_running :
    let s := (at_ .B .running .framing id).onRx .B fun r => { r with last := .mark, pin := .mark, age := 1000 }
    (s.csv .B).state = .running ∧ (s.unit .B).rx.mode = .framing ∧ (s.unit .B).rx.sub = .hunting false false ∧
      (s.unit .B).rx.last = .mark ∧ (s.unit .B).rx.pin = .mark ∧ 1000 ≤ (s.unit .B).rx.age := by decide

theorem wit_MillisecondTickCountsEveryTimer :
    ({ Printer.powerOn with yieldTimer := some (29999, 30000) } : Printer).yieldTimer = some (29999, 30000) ∧
    29999 < 30000 ∧ ({ Motor.powerOn with idle := some 3599999 } : Motor).idle = some 3599999 ∧ 3599999 < 3600000 ∧
    waking.tbu.state = .waking ∧ State.reset.running = true ∧ State.reset.tbu.state ≠ .waking := by decide

/-- R2: the entries of the fixed combination 31 and a substitute of 5 are refused. -/
theorem wit_SetCodeTableLoadsItsEntries_bad : Ready State.reset ∧ State.reset.ctr.table.length = 64 ∧
    fixedComb 31 = true ∧ 31 < 32 ∧ ¬ ((5 : Byte).toNat ≤ 127 ∧ (5 : Byte).toNat ∉ [5, 7, 10, 12, 13, 32]) :=
  ⟨wit_ready, by decide⟩

/-- R33, R34: rates at and beyond the range, and each state before. -/
theorem wit_SetLineReplacesTheRecord_states : (4500 ≤ 4500 ∧ 30000 ≤ 30000 ∧ 4499 < 4500 ∧ 30000 < 30001 ∧ 30001 < 65536) ∧
    Ready (at_ .A .free .condition id) ∧ ModesFollow (at_ .A .free .condition id) ∧
    ((at_ .A .free .condition id).csv .A).state = .free ∧ Ready (at_ .B .fault .condition id) ∧
    ModesFollow (at_ .B .fault .condition id) ∧ ((at_ .B .fault .condition id).csv .B).state = .fault :=
  ⟨by decide, ⟨rfl, rfl, rfl⟩, by intro l; cases l <;> rfl, rfl, ⟨rfl, rfl, rfl⟩, by intro l; cases l <;> rfl, rfl⟩

/-- Line A connected with its receiver in this sub-state. -/
def receiving (x : RxSub) : State := (at_ .A .connected .framing id).onRx .A fun r => { r with sub := x }

theorem wit_LineTickStepsTheLine_receiver :
    ((receiving (.hunting true false)).unit .A).rx.sub = .hunting true false ∧
    ((receiving (.spaceHeld 31)).unit .A).rx.sub = .spaceHeld 31 ∧ 31 < 32 ∧
    ((receiving (.character ⟨415, true, [], 0⟩)).unit .A).rx.sub = .character ⟨415, true, [], 0⟩ ∧ 415 < 416 ∧
    ((receiving (.hunting false true)).unit .A).rx.due = true ∧ (changed.unit .A).rx.due = true ∧
    ((at_ .A .free .condition id).unit .A).rx.last = ((at_ .A .free .condition id).unit .A).rx.known ∧
    ((State.reset.onTx .A fun t => { t with state := .sending 0 128 511 }).unit .A).tx.state = .sending 0 128 511 ∧
    511 < 384 + 128 := by decide

/-- R88: a companion owed, and an offer's character whose shift must be sent first. -/
theorem wit_TxCharacterStartHandsTheNext_shift :
    let s := placed.onSelector .A fun x => { x with companion := some ⟨7, false, .seq⟩ }
    let u : State := placed.onSelector .A fun x => { x with seqs := [⟨.wru, [.chr 5]⟩] }
    let v : State := { u with ctr := { u.ctr with table := wruTable } }
    s.running = true ∧ (s.csv .A).state ≠ .disabled ∧ (s.unit .A).tx.state = .idle ∧ (s.unit .A).tx.ordered = .mark ∧
      (s.selector .A).companion = some ⟨7, false, .seq⟩ ∧
      v.running = true ∧ (v.csv .A).state ≠ .disabled ∧ (v.unit .A).tx.state = .idle ∧
      (v.unit .A).tx.ordered = .mark ∧ (v.selector .A).companion = none ∧ (v.selector .A).flight = none ∧
      (v.selector .A).seqs = [⟨.wru, [.chr 5]⟩] ∧ translateItem v.ctr.table (.chr 5) = some ⟨9, some .figures⟩ ∧
      shiftBefore (v.ctr.tx.get .A) ⟨9, some .figures⟩ = some .figures ∧
      shiftBefore (.held .figures) ⟨9, some .figures⟩ = none := by decide +kernel

theorem wit_StartElementAndItsCheck_start :
    ((receiving (.hunting false true)).unit .A).rx.mode = .framing ∧
    ((receiving (.hunting false true)).unit .A).rx.sub = .hunting false true := ⟨rfl, rfl⟩

/-- R45: combination 0 with the stop sample at space is a space condition. -/
theorem wit_StopSampleEndsTheFrame_space :
    let f : Frame := ⟨416, true, List.replicate 15 .space, 0⟩
    let s := (receiving (.character f)).onRx .A fun r => { r with last := .space }
    (s.unit .A).rx.mode = .framing ∧ (s.unit .A).rx.sub = .character f ∧ f.samples.length = 15 ∧
      (s.unit .A).rx.last = .space ∧ (s.csv .A).state = .connected ∧ NothingPlaced s .A ∧
      (s.csv .A).exch.sub.isPaging = false := ⟨rfl, rfl, rfl, rfl, rfl, ⟨rfl, rfl⟩, rfl⟩

theorem wit_ReportedConditionsReachTheSupervisor_space :
    ((receiving (.spaceHeld 32)).unit .A).rx.sub = .spaceHeld 32 ∧ ModesFollow (receiving (.spaceHeld 32)) ∧
    ((waking.onRx .B fun r => { r with watchSeen := true }).unit .B).rx.watchSeen = true ∧
    (waking.unit .B).rx.mode = .watch := ⟨rfl, by intro l; cases l <;> rfl, rfl, rfl⟩

/-- The lower ends of R96. -/
theorem wit_IdentityAndValuesAreSet_least :
    let v : SupValues := ⟨true, 0, 10, 200, 50, 500, 200, 1000, 1, 1, 10, 0, true⟩
    200 ≤ v.clearRecognizeMs ∧ 50 ≤ v.confirmMs ∧ 500 ≤ v.clearConfirmMs ∧ 200 ≤ v.guardMs ∧ 1000 ≤ v.prepMs ∧
      1 ≤ v.callConfirmS ∧ 1 ≤ v.proceedS ∧ 10 ≤ v.connectS ∧ (v.idleTimeoutS = 0 ∨ 10 ≤ v.idleTimeoutS) := by decide

/-- The states and the timers of R102, R106, R112, R114, and a line whose receiver meets space. -/
theorem wit_ClearCallAndExpiriesClear_each :
    let s (st : SupState) := at_ .A st .framing fun t =>
      { t with clearRecognize := some 0, callConfirm := some 0, proceed := some 0, connect := some 0, idle := some 0 }
    ((s .connected).csv .A).timers.clearRecognize = some 0 ∧ ((s .connected).csv .A).timers.idle = some 0 ∧
      ((s .calling).csv .A).timers.callConfirm = some 0 ∧ ((s .awaitConnect).csv .A).timers.connect = some 0 ∧
      Receiver.meetsSpace ((receiving (.spaceHeld 0)).unit .A).rx = true ∧
      Receiver.meetsSpace ((receiving (.hunting false false)).unit .A).rx = false := by decide

/-- A call whose recognition time has run out, at a station with this identity. -/
def recognized (id : Option (List Chr)) : State :=
  { at_ .A .incoming .condition fun t => { t with recognize := some 0 } with identity := id }

theorem wit_RecognizedCallIsAdmittedOrRefused_each :
    (recognized none).identity = none ∧ ((recognized (some [65])).csv .A).values.answerEnable = true ∧
    ¬ ((recognized (some [65])).stm.free.length - (0 + 0) < ((recognized (some [65])).csv .A).values.acceptMin) ∧
    (recognized (some [65])).record 0 = none ∧ (recognized (some [65])).running = true ∧
    (routeOf (recognized (some [65])) (originOf .A)).out.punch = true := by decide +kernel

theorem wit_ExchangeConfigurationAndTimers_calling :
    ((exchanging .outgoing .offerWait).csv .A).exch.offerTimer = some 0 ∧
    ((exchanging .outgoing .offerWait).csv .A).state = .connected ∧
    ((exchanging .outgoing .offerWait).csv .A).direction = .outgoing ∧
    ((exchanging .incoming .awaitClose).csv .A).exch.pageTimer = some 0 ∧
    ((exchanging .incoming .awaitClose).csv .A).exch.held = [] := ⟨rfl, rfl, rfl, rfl, rfl⟩

theorem wit_StatusCommandsReport : Ready (holdingLast sample) ∧ (holdingLast sample).record 47 = some sample ∧
    (holdingLast sample).record 0 = none ∧ (47 : Nat) < 48 ∧ 2 ≤ (2 : Byte).toNat ∧ 48 ≤ (48 : Byte).toNat :=
  ⟨⟨rfl, rfl, rfl⟩, by decide +kernel⟩

theorem wit_MsgAppendStoresTheText_chain : (writing 31).record 0 = some
      { sample with state := .opened, length := 31, chain := [0] } ∧ sample.origin = .console ∧
    [0].length = blocksFor 31 ∧ [0].length = blocksFor 32 ∧ [0].length = blocksFor 5 ∧
    State.reset.record 0 = none ∧ Ready (holding sample) ∧ (holding sample).record 0 = some sample ∧
    sample.state ≠ .opened := by
  refine ⟨by decide +kernel, rfl, rfl, rfl, rfl, by decide, ⟨rfl, rfl, rfl⟩, by decide +kernel, by decide⟩

theorem wit_MsgCloseAndDelete_ready :
    let gone := { sample with state := .cancelled, dests := .empty, grants := ⟨true, false, false, false⟩ }
    Ready (holding sample) ∧ (holding gone).record 0 = some gone ∧ gone.state = .cancelled ∧
      (holding { sample with dests := ⟨⟨false, false, false, false⟩, true⟩ }).record 0 =
        some { sample with dests := ⟨⟨false, false, false, false⟩, true⟩ } := by
  refine ⟨⟨rfl, rfl, rfl⟩, by decide +kernel, rfl, by decide +kernel⟩

/-- R70, R72, R75, R81: values at and beyond the ranges, a store that can be cleared, and a line that frames nothing. -/
theorem wit_StoreAndQueueConfiguration_bounds : Ready State.reset ∧ (8193 < 65536 ∧ ¬ 8193 ≤ 8192 ∧ ¬ 512 ≤ 511) ∧
    State.reset.entries = [] ∧ DestSet.isEmpty ⟨⟨false, false, true, false⟩, false⟩ = false ∧
    (List.replicate 8 (127 : Chr)).length ≤ 8 ∧ 2 ≤ ([78, 78] : List Chr).length ∧ 3600 ≤ 3600 ∧
    (State.reset.selector .A).cutoff = none ∧ State.reset.stm.episode.get .A = false := ⟨wit_ready, by decide⟩

theorem wit_MsgRerouteRemovesThenAdds_bad : Ready (holding sample) ∧
    (DestSet.empty.isEmpty = true ∧ DestSet.empty.isEmpty = true) ∧
    (holding { sample with origin := .lineA }).record 0 = some { sample with origin := .lineA } ∧
    (holding { sample with state := .cancelled }).record 0 = some { sample with state := .cancelled } ∧
    State.reset.record 0 = none := by
  refine ⟨⟨rfl, rfl, rfl⟩, ⟨rfl, rfl⟩, by decide +kernel, by decide +kernel, by decide⟩

/-- The only record is the first in its queue. -/
theorem only_record {s : State} {r : Rec} (hs : ∀ i, s.record i = none) {j : Nat} {q : Rec}
    (h : (s.setRecord 0 (some r)).record j = some q) : j = 0 ∧ q = r := by
  by_cases hj : 0 = j
  · subst hj
    rw [State.record_setRecord] at h
    split at h
    · simp_all
    · simp_all
  · rw [State.record_setRecord_ne s (some r) hj, hs] at h
    cases h

theorem reset_empty (i : Nat) : State.reset.record i = none := by
  show ((List.replicate 48 none)[i]?).join = none
  rw [List.getElem?_replicate]
  split <;> rfl

theorem wit_SendGrantChoosesLiveThenStored_first :
    FirstInQueue (sending outgoing) (sendOf .A)
      (fun r => ((r.stamp.get (sendOf .A)).isSome = true ∧ r.state = .closed ∧ r.live .A = false) ∧
        ∀ n, ((sending outgoing).csv .A).remaining = .blocks n → blocksFor r.length ≤ n) 0 outgoing ∧
    FirstInQueue (sending { outgoing with flags := { outgoing.flags with liveA := true } }) (sendOf .A)
      (fun r => (r.stamp.get (sendOf .A)).isSome = true ∧ r.live .A = true ∧
        (r.state = .closed ∨ (r.state = .opened ∧ r.cursor.get (sendOf .A) < r.length))) 0
      { outgoing with flags := { outgoing.flags with liveA := true } } := by
  refine ⟨⟨by decide +kernel, ⟨⟨rfl, rfl, rfl⟩, fun n h => ?_⟩, fun j q h _ => .inl (only_record reset_empty h).1⟩,
    ⟨by decide +kernel, ⟨rfl, rfl, .inl rfl⟩, fun j q h _ => .inl (only_record reset_empty h).1⟩⟩
  have : n = 1 := by
    have h' : Acceptance.blocks 1 = Acceptance.blocks n := h
    injection h' with h'
    exact h'.symm
  subst this
  decide

/-- R90: a limit of 0 blocks keeps the record back; R91: the charge of R90 fits exactly at 1. -/
theorem wit_SendGrantChoosesLiveThenStored_deferred :
    let s := (sending outgoing).onCsv .A fun c => { c with remaining := .blocks 0 }
    (s.csv .A).state = .running ∧ (s.csv .A).remaining = .blocks 0 ∧ ¬ blocksFor outgoing.length ≤ 0 ∧
      s.record 0 = some outgoing ∧ storedHeldBack s .A = false := by decide +kernel

/-- The gap closes the line's OPEN record. -/
theorem wit_SendGrantChoosesLiveThenStored_gapClose :
    let r := { sample with origin := .lineA, state := .opened }
    let s := ((at_ .A .running .framing id).onFramer .A fun _ => ⟨.text, [], some 0⟩).setRecord 0 (some r)
    let t := { s with stm := { s.stm with lineLink := ⟨some 0, none⟩ } }
    (t.framerOf .A).held = [] ∧ t.stm.lineLink.get .A = some 0 ∧ t.record 0 = some r ∧ r.dests.isEmpty = false := by
  decide +kernel

/-- A fresh CHAR key, alone, with the keyboard locked and with it free. -/
theorem wit_ScanDebouncesAndKeysAreCarriedOut_fresh :
    let s := typing [] true
    let t := after (.keyboardScan 1) s
    (∀ k < 64, keyDown s.kbs k = false ∧ (keyDown t.kbs k = true ↔ k = 0)) ∧
      (keyEntry s.kbs 0).kind = .char ∧ (if anyDown t.kbs .shift then (66 : Chr) else 65) ≠ 0 ∧
      (∀ k < 64, keyDown (after (.keyboardScan 0) s).kbs k = false) := by decide +kernel

/-- The keyboard's open record, and a store with no block left. -/
theorem wit_ScanDebouncesAndKeysAreCarriedOut_open :
    let r := { sample with origin := .keyboard, state := .opened, length := 31, chain := [0] }
    let s := ((typing [.chr 65] false).setRecord 0 (some r))
    let t := { s with stm := { s.stm with kbLink := some 0 } }
    let u := { typing [.chr 65] false with stm := { Store.powerOn with free := [] } }
    kbLocked t = false ∧ t.stm.kbLink = some 0 ∧ t.record 0 = some r ∧ r.chain.length = blocksFor r.length ∧
      31 + 1 < t.stm.cfg.maxMsgLen ∧ 31 % 32 ≠ 0 ∧ r.dests.isEmpty = false ∧ kbLocked u = false ∧
      u.stm.kbLink = none ∧ u.stm.kbOwed = none ∧ u.stm.free.length ≤ 0 ∧ u.identity = none ∧
      u.kbs.mode = .localMode := by decide +kernel

theorem wit_PrinterConfigurationSensorsAndHeat_refused : ¬ 3 + 3 + 10 ≤ (15 : Nat) ∧ ¬ (959 : Nat) < 959 ∧
    (printing none false).prc.grant ≠ none ∧ Ready (printing none false) ∧
    (printing (some (.cr, 3)) false).prc.op ≠ none ∧
    ({ Printer.powerOn with decay := 0, abandoned := some 0 } : Printer).abandoned = some 0 :=
  ⟨by decide, by decide, by decide, ⟨rfl, rfl, rfl⟩, by decide, rfl⟩

/-- The only candidate is the choice (R150, R169). -/
theorem wit_PrinterPrintsItsQueue_chosen :
    Chosen (fun i r => Candidate (holding sample) .print i r ∧ ((holding sample).prc.passOver = some i →
      ∀ j q, Candidate (holding sample) .print j q → j = i)) .print .lineB 0 sample := by
  refine ⟨⟨⟨by decide +kernel, rfl, .inl rfl⟩, fun h => by cases h⟩, fun j q h => ?_⟩
  obtain ⟨rfl, rfl⟩ := only_record reset_empty h.1.1
  exact ⟨id, fun _ => Nat.le_refl _, fun _ => .inl rfl⟩

/-- R146, R153: an operation at its limit with and without a grant, the last operation of a trailer, a hot head. -/
theorem wit_PrinterPrintsItsQueue_ends :
    let s := printing (some (.strike 65, 0)) false
    let g : PrintGrant := ⟨0, .trailer, some [.lineFeed], []⟩
    (∃ r, s.record 0 = some r ∧ r.state ≠ .cancelled ∧ r.dests.out.print = true ∧ r.stops.print = false ∧
      r.grants = ⟨true, false, false, false⟩ ∧ r.dests = ⟨⟨true, false, false, false⟩, false⟩ ∧
      r.cursor.print < r.length) ∧
      s.prc.grant = some ⟨0, .text, none, []⟩ ∧ g.script = some [.lineFeed] ∧
      ({ Printer.powerOn with heat := 400 } : Printer).cfg.hHi ≤ 400 ∧
      ({ Printer.powerOn with abandoned := some 5 } : Printer).abandoned ≠ none :=
  ⟨⟨{ sample with grants := ⟨true, false, false, false⟩ }, by decide +kernel, by decide, rfl, rfl, rfl, rfl, by decide⟩,
    rfl, rfl, by decide, by decide⟩

theorem wit_PunchConfigurationAndSensors_each : Ready State.reset ∧ State.reset.puc.grant = none ∧
    (punching .leader none none).puc.grant ≠ none ∧ ¬ (121 : Nat) ≤ 120 ∧ 1 ≤ (1 : Nat) ∧ 50 ≤ (50 : Nat) ∧
    ({ Punch.powerOn with release := some 0 } : Punch).release = some 0 ∧
    ({ Punch.powerOn with chad := ⟨false, true, 20⟩, hold := true } : Punch).chad.count = 20 ∧
    ({ Punch.powerOn with abandoned := some 0 } : Punch).abandoned = some 0 :=
  ⟨wit_ready, rfl, by decide, by decide, by decide, by decide, rfl, rfl, rfl⟩

/-- The only candidate is the punch's choice. -/
theorem wit_PunchPunchesItsQueue_chosen :
    let r := { sample with stamp := ⟨none, some 0, none, none⟩ }
    Chosen (Candidate (holding r) .punch) .punch .lineB 0 r := by
  refine ⟨⟨by decide +kernel, rfl, .inl rfl⟩, fun j q h => ?_⟩
  obtain ⟨rfl, rfl⟩ := only_record reset_empty h.1
  exact ⟨id, fun _ => Nat.le_refl _, fun _ => .inl rfl⟩

/-- Each phase's frame, a text character and its translation, each kind of frame in flight, and the last reserve frame. -/
theorem wit_PunchPunchesItsQueue_frames :
    let s := { punching .text none none with stm := { (punching .text none none).stm with cells := [(0, 13)] } }
    PunchReady s ∧ (∃ r, s.record 0 = some r ∧ r.cursor.punch < r.length ∧ readChar s r 0 = 13 ∧ r.stops.punch = false ∧
      r.dests.out.punch = true ∧ r.state ≠ .cancelled) ∧
      translateChr s.ctr.table 13 = some ⟨8, none⟩ ∧ translateChr wruTable 5 = some ⟨9, some .figures⟩ ∧
      s.ctr.tape ≠ .held .figures ∧
      (punching .erase none none).puc.grant = some ⟨0, .erase, 0, [], none, none⟩ ∧
      (punching .text (some ⟨.shift .figures 9, 27, 0, []⟩) (some (.punch 27, 0))).puc.grant =
        some ⟨0, .text, 0, [], none, some ⟨.shift .figures 9, 27, 0, []⟩⟩ ∧
      (punching .text (some ⟨.char, 1, 1, [.back, .erase, .again]⟩) (some (.backspace, 3))).puc.op =
        some (.backspace, 3) ∧
      ({ Punch.powerOn with tape := some 1 } : Punch).tape = some 1 ∧ s.puc.cfg.verify = true := by
  refine ⟨⟨rfl, rfl, rfl, rfl, rfl, rfl, rfl⟩, ⟨_, rfl, ?_, ?_, rfl, rfl, ?_⟩, ?_, ?_, ?_, rfl, rfl, rfl, rfl, rfl⟩ <;>
    decide +kernel

/-- Each motor state that a row acts on. -/
theorem wit_MotorsFollowTheirCommandsAndTimers_each : Ready State.reset ∧ State.reset.prc.fault = false ∧
    ({ Motor.powerOn with state := .running, idle := some 60000 } : Motor).idle = some 60000 ∧ 1000 * 60 ≤ 60000 ∧
    ({ Motor.powerOn with state := .running, speed := ⟨false, true, 5⟩ } : Motor).speed = ⟨false, true, 5⟩ ∧
    ({ Motor.powerOn with state := .fault } : Motor).state = .fault ∧
    (200 ≤ 200 ∧ 1 ≤ 1 ∧ 1 ≤ 1 ∧ ¬ 2 ≤ 1) := ⟨wit_ready, rfl, rfl, by decide, rfl, rfl, by decide⟩

theorem wit_ModesTableAndBoundsStay_table : TableSound (at_ .A .connected .framing id).ctr.table :=
  ⟨rfl, fun k sh h => by cases sh <;> revert k <;> decide +kernel⟩

/-! ### A received character, the selector's sources, and the parts of a grant -/

/-- The code table with CHAR 'N', PROCEED and WRU. -/
def heardTable : List CodeEntry := ((powerOnTable.set 12 ⟨.char, 78⟩).set 11 ⟨.proceed, 0⟩).set 41 ⟨.wru, 0⟩

/-- The samples of a combination's five units. -/
def samplesOf (c : Comb) : List Level :=
  (List.range 5).flatMap fun k => List.replicate 3 (if c.getLsbD k then .mark else .space)

def frameOf (c : Comb) : Frame := ⟨416, true, samplesOf c, 0⟩

/-- Line A at the stop sample of combination c. -/
def hearing (st : SupState) (c : Comb) (good : Bool) : State :=
  let s := (at_ .A st .framing id).onRx .A fun r =>
    { r with sub := .character (frameOf c), last := if good then Level.mark else .space }
  { s with ctr := { s.ctr with table := heardTable } }

theorem samples_read : ∀ c : Comb, c = combOf (samplesOf c) := by decide +kernel

theorem hearing_hears (st : SupState) (c : Comb) (good : Bool) (h : good = true ∨ c ≠ 0) :
    CharacterIn (hearing st c good) .A (frameOf c) c good :=
  ⟨rfl, rfl, Nat.le_refl _, rfl, samples_read c, by
    show good = true ↔ (if good then Level.mark else .space) = .mark
    cases good <;> simp, h⟩

/-- An 'N' on a RUNNING line, an errored character on a CONNECTED one, with the framer at each phase. -/
theorem wit_StopSampleEndsTheFrame_delivers :
    CharacterIn (hearing .running 12 true) .A (frameOf 12) 12 true ∧ Delivers (hearing .running 12 true) .A 12 true ⟨78, false⟩ ∧
    FramerListens (hearing .running 12 true) .A ∧ CellsCanonical (hearing .running 12 true) ∧
    CharacterIn (hearing .connected 1 false) .A (frameOf 1) 1 false ∧
    Delivers (hearing .connected 1 false) .A 1 false ⟨(hearing .connected 1 false).ctr.substitute, true⟩ ∧
    FramerListens (hearing .connected 1 false) .A ∧ FramerListens (hearing .clearing 1 false) .A :=
  ⟨hearing_hears _ _ _ (.inl rfl), .inr ⟨rfl, .inl ⟨by decide +kernel, by decide +kernel⟩⟩, ⟨rfl, .inl rfl⟩,
    by show Memory.wf _ = true; decide, hearing_hears _ _ _ (.inr (by decide)), .inl ⟨rfl, rfl⟩,
    ⟨rfl, .inr (.inl ⟨rfl, by decide⟩)⟩, ⟨rfl, .inr (.inr ⟨rfl, by decide⟩)⟩⟩

/-- R83 to R86: what the framer holds at each phase, the record it writes, and a store that is full. -/
theorem wit_StopSampleEndsTheFrame_framer :
    let n : RxChar := ⟨78, false⟩
    let s := hearing .running 12 true
    let text := s.onFramer .A fun _ => ⟨.text, [n, n, n], some 5⟩
    let odd := s.onFramer .A fun _ => ⟨.text, [n, n, ⟨65, true⟩], none⟩
    let head := { s.onFramer .A fun _ => ⟨.head [.som, .urgent, .number], [n], none⟩ with
      fqm := { s.fqm with framing := s.fqm.framing.set .A ⟨[78, 78], [78, 78, 78, 78], 30, true⟩
                          sel := s.fqm.sel } }
    let r := { sample with origin := .lineA, state := .opened, length := 31 }
    let rec_ := text.setRecord 0 (some r)
    let full := { s with stm := { s.stm with free := [] } }
    (text.framingOf .A).eom = [78, 78, 78, 78] ∧ (text.framerOf .A).held ++ [n] = [n, n, n, n] ∧
      ([n, n, ⟨65, true⟩, n].any (·.errored)) = true ∧ (odd.framerOf .A).phase = .text ∧
      (head.framingOf .A).som = [78, 78] ∧ stageApplies head .A .som = true ∧ text.stm.episode.get .A = false ∧
      rec_.record 0 = some r ∧ r.length % 32 + 1 ≤ 32 ∧ r.length + 1 < rec_.stm.cfg.maxMsgLen ∧
      r.dests.isEmpty = false ∧ (s.framerOf .A).phase = .idle ∧ s.record 0 = none ∧ s.stm.free.head? = some 0 ∧
      full.stm.free = [] ∧ (head.framingOf .A).eom.head? ≠ some (65 : Chr) := by decide +kernel

/-- Line A ready to start a character, with these sources. -/
def starting (x : Selector) : State :=
  let s := (((at_ .A .running .framing id).order .A .mark).setSelector .A x).setRecord 0 (some { sample with
    grants := ⟨false, false, true, false⟩, dests := ⟨⟨false, false, true, false⟩, false⟩ })
  { s with ctr := { s.ctr with table := heardTable }, stm := { s.stm with cells := [(0, 78), (1, 13), (2, 32)] } }

/-- R12, R87, R88, R92, R104: an answerback whose shift is forced, one that needs none, a cut-off, and a record's lead,
text and tail. -/
theorem wit_TxCharacterStartHandsTheNext_sources :
    let t := heardTable
    let g : SendGrant := ⟨0, true, [], none, false⟩
    let s := starting { Selector.idle with grant := some g }
    s.running = true ∧ (s.unit .A).tx.state = .idle ∧ (s.unit .A).tx.ordered = .mark ∧ (s.selector .A).companion = none ∧
      (s.selector .A).flight = none ∧ (s.selector .A).seqs = [] ∧ (s.selector .A).grant = some g ∧
      translateChr t 78 = some ⟨12, some .letters⟩ ∧ translateChr t 13 = some ⟨8, none⟩ ∧
      ((starting { Selector.idle with answerback := some ⟨[78, 13], true⟩ }).selector .A).answerback =
        some ⟨[78, 13], true⟩ ∧
      ((starting { Selector.idle with cutoff := some [13] }).selector .A).cutoff = some [13] ∧
      (s.csv .A).state = .running ∧ halfDuplex s .A = false ∧
      (∃ r, s.record 0 = some r ∧ r.stops.get (sendOf .A) = false ∧ r.cursor.get (sendOf .A) < r.length ∧
        readChar s r 0 = 78) := by
  refine ⟨by decide, by decide, by decide, by decide, by decide, by decide, by decide, by decide +kernel,
    by decide +kernel, by decide, by decide, by decide, by decide, ?_⟩
  exact ⟨{ sample with grants := ⟨false, false, true, false⟩, dests := ⟨⟨false, false, true, false⟩, false⟩ },
    by decide +kernel, rfl, by decide, by decide +kernel⟩

/-- Line A at the end of a character, with these sources. -/
def ending_ (x : Selector) : State := (starting x).onTx .A fun t => { t with state := .sending 1 96 480 }

/-- R62, R63, R92, R104, R113, R114, R123, R127, R129: what ends with the character. -/
theorem wit_TxCharacterEndFreesTheTransmitter_ends :
    let tail : SendGrant := ⟨0, false, [], some [], true⟩
    let wait : SendGrant := ⟨0, true, [], none, true⟩
    let s := ending_ { Selector.idle with grant := some tail }
    (s.unit .A).tx.state = .sending 1 96 480 ∧ (s.selector .A).grant = some tail ∧ tail.tail = some [] ∧
      ((ending_ { Selector.idle with grant := some wait }).selector .A).grant = some wait ∧
      ((ending_ { Selector.idle with seqs := [⟨.wru, []⟩] }).selector .A).seqs = [⟨.wru, []⟩] ∧
      ((ending_ { Selector.idle with answerback := some ⟨[], true⟩ }).selector .A).answerback = some ⟨[], true⟩ ∧
      ((ending_ { Selector.idle with cutoff := some [] }).selector .A).cutoff = some [] ∧
      ((asked .awaitConnect .asking []).csv .A).phase = .asking ∧
      ((exchanging .outgoing .closing).csv .A).exch.sub = .closing ∧
      ((s.onRecord 0 fun r => { r with stops := ⟨false, false, true, false⟩ }).record 0).map (·.stops.sendA) =
        some true := by decide +kernel

/-- R112, R114, R115: PROCEED in its wait, and a character in progress, in a capture, and the 20th of one. -/
theorem wit_OutgoingCallAsksCapturesAndEnds_hears :
    let calling : State := (hearing .calling 11 true).onCsv .A fun c => { c with phase := .proceedWait, digits := [53] }
    let progress : State := (hearing .awaitConnect 12 true).onCsv .A fun c => { c with phase := .progress false }
    let capture (st : SupState) : State := (hearing st 12 true).onCsv .A fun c =>
      { c with phase := .capturing, captured := List.replicate 19 ⟨65, false⟩, expected := some [65], matchLen := 1 }
    CharacterIn calling .A (frameOf 11) 11 true ∧ (readComb calling.ctr.table (calling.ctr.rx.get .A) 11).kind = .proceed ∧
    CharacterIn progress .A (frameOf 12) 12 true ∧ Delivers progress .A 12 true ⟨78, false⟩ ∧
    CharacterIn (capture .awaitConnect) .A (frameOf 12) 12 true ∧
    Delivers (capture .connected) .A 12 true ⟨78, false⟩ ∧
    20 ≤ (((capture .connected).csv .A).captured ++ [(⟨78, false⟩ : RxChar)]).length ∧
    ((progress.csv .A).captured ++ [(⟨78, false⟩ : RxChar)]).length < 20 ∧ (progress.csv .A).exch.sub.isPaging = false := by
  have h (s : State) (c : Comb) (h1 : (s.unit .A).rx.mode = .framing) (h2 : (s.unit .A).rx.sub = .character (frameOf c))
      (h3 : (s.unit .A).rx.last = .mark) (h4 : c = combOf (samplesOf c)) : CharacterIn s .A (frameOf c) c true :=
    ⟨h1, h2, Nat.le_refl _, rfl, h4, by simp [h3], .inl rfl⟩
  exact ⟨h _ _ rfl rfl rfl (by decide +kernel), by decide +kernel, h _ _ rfl rfl rfl (by decide +kernel),
    .inr ⟨rfl, .inl ⟨by decide +kernel, by decide +kernel⟩⟩, h _ _ rfl rfl rfl (by decide +kernel),
    .inr ⟨rfl, .inl ⟨by decide +kernel, by decide +kernel⟩⟩, by decide, by decide, rfl⟩

/-- R104, R124, R126 to R130: a third BLANK, WRU, and the last combination of a page in each sub-state. -/
theorem wit_ExchangeConfigurationAndTimers_hears :
    let wait := (hearing .connected 0 true).onCsv .A fun c =>
      { c with direction := .outgoing, exch := { c.exch with sub := .offerWait, blankRun := 2 } }
    let wru := { hearing .connected 9 true with
      ctr := { (hearing .connected 9 true).ctr with rx := (hearing .connected 9 true).ctr.rx.set .A (.held .figures) } }
    let page (x : ExchSub) (two : Bool) (b : Comb) := (hearing .connected 0 true).onCsv .A fun c =>
      { c with exch := { c.exch with sub := x, held := [b, 0, 0], pageTwo := two, together := false } }
    CharacterIn (hearing .connected 0 true) .A (frameOf 0) 0 true ∧
    (readComb wait.ctr.table (wait.ctr.rx.get .A) 0).kind = .none ∧ 2 ≤ (wait.csv .A).exch.blankRun ∧
    (readComb wru.ctr.table (wru.ctr.rx.get .A) 9).kind = .wru ∧ (wru.csv .A).abActive = false ∧
    ((page .offered false 9).csv .A).exch.sub.isPaging = true ∧ (9 : Comb).toNat / 2 % 4 = 0 ∧
    (9 : Comb).getLsbD 4 = false ∧ (27 : Comb).getLsbD 4 = true ∧ (19 : Comb).toNat / 2 % 4 = 1 ∧
    (23 : Comb).toNat / 2 % 4 = 3 ∧ (21 : Comb).toNat / 2 % 4 = 2 ∧
    ((page .awaitClose true 21).csv .A).exch.pageTwo = true :=
  ⟨hearing_hears _ _ _ (.inl rfl), by decide +kernel⟩

/-- R59: a text that crosses the limit, one that fills the store in the middle, and a record already above the limit. -/
theorem wit_MsgAppendStoresTheText_spans :
    let s := { writing 5 with stm := { (writing 5).stm with cfg := ⟨6, 64, true⟩ } }
    let u := { writing 31 with stm := { (writing 31).stm with reservation := ⟨511, 0⟩ } }
    let above := { writing 5 with stm := { (writing 5).stm with cfg := ⟨4, 64, true⟩ } }
    ([65] ++ [66, 67] : List Chr).length + 5 = 8 ∧ 5 + ([65] : List Chr).length = s.stm.cfg.maxMsgLen ∧
      ([66, 67] : List Chr).length < s.stm.cfg.maxMsgLen ∧ s.record 1 = none ∧ BlocksConserved s ∧
      31 + ([65] : List Chr).length = 32 * (1 + (u.stm.free.length - 511)) ∧ 32 < u.stm.cfg.maxMsgLen ∧
      BlocksConserved u ∧ above.stm.cfg.maxMsgLen ≤ 5 ∧ ([66] : List Chr).length < above.stm.cfg.maxMsgLen := by
  unfold BlocksConserved
  decide +kernel

/-- R61, R64: an OPEN record without destinations that the printer still holds, and one held and one not by a grant. -/
theorem wit_MsgCloseAndDelete_granted :
    let r := { sample with state := .opened, dests := .empty, grants := ⟨true, false, false, false⟩ }
    (holding r).record 0 = some r ∧ r.origin = .console ∧ r.dests.isEmpty = true ∧ r.grants.any = true := by
  decide +kernel

/-- R81: an EOM of one character and one with CR are out of range. -/
theorem wit_StoreAndQueueConfiguration_framing : ¬ 2 ≤ ([78] : List Chr).length ∧ (13 : Chr).toNat ∈ [0, 5, 10, 13] ∧
    ¬ 3601 ≤ 3600 := by decide

/-- A keyboard about to carry out these actions, its record of `n` characters in block 0 OPEN or none, and its store. -/
def carrying (fifo : List KeyAction) (n : Option Nat) (free : Nat) : State :=
  let s := (typing fifo false).setRecord 0 (n.map fun n =>
    { sample with origin := .keyboard, state := .opened, length := n, chain := [0], stamp := ⟨some 0, none, none, none⟩ })
  { s with identity := some [65, 66], stm := { s.stm with
      kbLink := n.map fun _ => 0, free := if n.isSome then (List.range 511).map (· + 1) else List.range 512
      reservation := ⟨(if n.isSome then 511 else 512) - free, 0⟩ } }

/-- R139, R140: room in the last block, a new block at a multiple of 32, none to be had, part-way, the limit, and a record
found above it. -/
theorem wit_ScanDebouncesAndKeysAreCarriedOut_text :
    let s := carrying [.hereIs, .chr 67] (some 31) 0
    let above := { carrying [.chr 67] (some 31) 2 with stm := { (carrying [.chr 67] (some 31) 2).stm with cfg := ⟨30, 64, true⟩ } }
    kbLocked s = false ∧ s.kbs.fifo.length ≤ 16 ∧ s.stm.kbLink = some 0 ∧ CellsCanonical s ∧ BlocksConserved s ∧
      min 2 (32 * (1 + 0) - 31) = 1 ∧ s.stm.free.length - (s.stm.reservation.a + s.stm.reservation.b) = 0 ∧
      blocksFor 32 = 1 ∧ (carrying [.wru] (some 32) 1).stm.free.length - 510 = 1 ∧
      (carrying [.wru] none 1).stm.kbLink = none ∧ (carrying [.wru] none 1).record 0 = none ∧
      BlocksConserved (carrying [.wru] none 1) ∧ s.identity = some [65, 66] ∧ s.kbs.mode ≠ .directA ∧
      above.stm.cfg.maxMsgLen ≤ 31 ∧ above.kbs.urgentPending = false ∧ 31 + 1 < s.stm.cfg.maxMsgLen := by
  unfold BlocksConserved CellsCanonical
  decide +kernel

/-- R138, R141: a mode action and a WRU in a direct mode, the line RUNNING, half duplex and quiet or not, and DISABLED. -/
theorem wit_ScanDebouncesAndKeysAreCarriedOut_modes :
    let s := (at_ .A .running .framing id).onKbs fun k => { k with mode := .directA, fifo := [.wru, .mode .directB] }
    let down := State.reset.onKbs fun k =>
      { k with mode := .directB, scanTimer := 0, debounce := 2, keymap := k.keymap.set 0 ⟨.modeLocal, 0, 0⟩
               keys := k.keys.set 0 ⟨false, 1⟩ }
    kbLocked s = false ∧ s.kbs.fifo = [.wru, .mode .directB] ∧ s.kbs.mode ≠ .localMode ∧ kbLocked down = true ∧
      (down.csv .B).state ≠ .connected ∧ (after (.keyboardScan 1) down).kbs.mode = .localMode ∧
      (after (.keyboardScan 1) down).kbs.inputAge = 0 ∧ down.running = true := by decide +kernel

/-- R151, R152, R153: the last item of each phase, a stopped record, and a starved one with another candidate. -/
theorem wit_PrinterPrintsItsQueue_phases :
    let at' (p : PrintPhase) (xs : List Script) :=
      let s := printing (some (.lf none, 3)) false
      { s with prc := { s.prc with grant := some ⟨0, p, some xs, []⟩ } }
    let r := { sample with state := .opened, cursor := ⟨3, 0, 0, 0⟩, grants := ⟨true, false, false, false⟩ }
    let idle := ((printing none false).setRecord 0 (some r)).setRecord 1 (some { sample with stamp := ⟨some 1, none, none, none⟩ })
    (at' .lead [.crLfIfCount]).prc.grant = some ⟨0, .lead, some [.crLfIfCount], []⟩ ∧
      (at' .header [.lineFeed]).puc.grant = none ∧ (at' .trailer [.lineFeed]).prc.cfg.headers = true ∧
      (at' .yielding [.crLfIfCount]).prc.owedCr = false ∧ charOps (at' .lead []).prc 65 ≠ [] ∧
      charOps (at' .lead []).prc 5 = [] ∧ idle.record 0 = some r ∧ r.cursor.print = r.length ∧ r.stops.print = false ∧
      idle.prc.op = none ∧ idle.prc.grant = some ⟨0, .text, none, []⟩ ∧
      (after .prdy ((at' .text []).onRecord 0 fun r => { r with stops := ⟨true, false, false, false⟩ })).prc.grant = none ∧
      grantOps (printing none false) ⟨0, .text, none, []⟩ = [.strike 65] ∧
      (idle.record 1).map (fun q => (q.state, q.stamp.print)) = some (.closed, some 1) := by decide +kernel

/-- R170, R171: the last FEED of a trailer, CLOSE's last frame with TRAILER 0, a stopped record, and an untranslatable
character. -/
theorem wit_PunchPunchesItsQueue_ends :
    let fed : PunchGrant := ⟨0, .trailer, 11, [], none, none⟩
    let s := punching .trailer none (some (.feed, 3))
    let last := { s with puc := { s.puc with grant := some fed } }
    let f : PunchFrame := ⟨.char, 8, 0, []⟩
    (last.puc.cfg.trailer ≤ fed.done + 1 ∧ last.prc.grant = none ∧ fed.owed = none) ∧
      (punching .close (some f) (some (.punch 8, 3))).puc.op = some (.punch 8, 3) ∧ f.steps = [] ∧ f.retry < 2 ∧
      translateChr last.ctr.table 65 = none ∧
      (last.onRecord 0 fun r => { r with stops := ⟨false, true, false, false⟩ }).record 0 ≠ none ∧
      (after (.urdy 0) last).record 0 = none ∧ last.mtc.punch.state = .running ∧ last.puc.tapeHold = false := by
  decide +kernel

/-! ## Witnesses and tests for the together mark, the standby check, the repeat and the timers -/

/-- R11, R123: an expiry took the offer with a character due; that character is a space condition. -/
def togetherSpace : State :=
  let f : Frame := ⟨416, true, List.replicate 15 .space, 0⟩
  ((receiving (.character f)).onRx .A fun r => { r with last := .space }).onExch .A fun e =>
    { e with sub := .offered, together := true }

theorem test_space_ends_together : ((after (.stopSample .A) togetherSpace).csv .A).exch =
    { (togetherSpace.csv .A).exch with together := false } := by decide +kernel

theorem wit_ExchangeConfigurationAndTimers_space : (togetherSpace.unit .A).rx.mode = .framing ∧
    (∃ f, (togetherSpace.unit .A).rx.sub = .character f ∧ 416 ≤ f.pos ∧ f.started = true ∧
      combOf f.samples = (0 : Comb)) ∧ (togetherSpace.unit .A).rx.last = .space ∧
    (togetherSpace.csv .A).state = .connected ∧ NothingPlaced togetherSpace .A :=
  ⟨rfl, ⟨_, rfl, by decide, rfl, by decide +kernel⟩, rfl, rfl, ⟨rfl, rfl⟩⟩

/-- R26: a space that a millisecond tick has put on the pin of a RUNNING line refuses STANDBY. -/
theorem test_standby_sees_the_pin :
    let s (lv : Level) := (at_ .B .running .framing id).onRx .B fun r => { r with last := .mark, pin := lv, age := 1000 }
    (after (.standby [0]) (s .mark)).tbu.state = .standby ∧
      (after (.standby [0]) (s .space)).cpe.port = .response .wrongState [] := by decide +kernel

/-- R135: a stopped repeat, its key at 0 in this shift state, and a REPEAT key held. -/
def repeatStopped : State :=
  State.reset.onKbs fun k =>
    { k with scanTimer := 0, debounce := 2, keymap := (k.keymap.set 0 ⟨.char, 0, 66⟩).set 1 ⟨.repeatKey, 0, 0⟩
             keys := (k.keys.set 0 ⟨false, 1⟩).set 1 ⟨true, 0⟩, repeatKey := some 0, repeatSpent := true }

theorem test_char_down_restarts_repeat : (after (.keyboardScan 3) repeatStopped).kbs.repeatTimer = some 500 ∧
    (after (.keyboardScan 3) repeatStopped).kbs.fifo = [] ∧
    (after (.keyboardScan 2) repeatStopped).kbs.repeatTimer = none := by decide +kernel

theorem wit_ScanDebouncesAndKeysAreCarriedOut_repeat :
    let t := after (.keyboardScan 3) repeatStopped
    repeatStopped.kbs.scanTimer = 0 ∧ repeatStopped.running = true ∧ anyDown t.kbs .repeatKey = true ∧
      t.kbs.repeatKey = some 0 ∧ keyDown t.kbs 0 = true ∧ (keyEntry repeatStopped.kbs 0).kind = .char ∧
      keyDown repeatStopped.kbs 0 = false ∧ repeatStopped.kbs.repeatTimer = none := by decide +kernel

/-- R21: timers of one millisecond, and one that has run out. -/
theorem wit_TimersExpireOnTheNthTick_each :
    let s := (at_ .B .connected .framing fun t => { t with idle := some 1, quiet := some 0 }).onExch .B fun e =>
      { e with offerTimer := some 1 }
    let p : Punch := { Punch.powerOn with op := some (.punch 3, 1), release := some 1 }
    (s.csv .B).timers.idle = some 1 ∧ (s.csv .B).timers.quiet = some 0 ∧ (s.csv .B).exch.offerTimer = some 1 ∧
      p.op = some (.punch 3, 1) ∧ p.release = some 1 ∧
      ({ Motor.powerOn with start := some 2000 } : Motor).start = some 2000 := ⟨rfl, rfl, rfl, rfl, rfl, rfl⟩

/-- R2: a place named twice, a character of another kind's entry, and payloads whose form is wrong. -/
theorem wit_SetCodeTableLoadsItsEntries_form :
    let twice : List (Nat × Shift × CodeEntry) := [(1, .letters, ⟨.char, 65⟩), (1, .letters, ⟨.wru, 0⟩)]
    ¬ (twice.map fun x => (x.1, x.2.1)).Nodup ∧ (∀ x ∈ twice, x.1 < 32 ∧ fixedComb x.1 = false ∧ x.2.2.legal = true) ∧
      (⟨.wru, 1⟩ : CodeEntry).legal = false ∧ (⟨.ltrs, 0⟩ : CodeEntry).legal = false ∧
      (([] : List Byte).getD 1 0).toNat < 1 ∧ 52 < (([0, 53] : List Byte).getD 1 0).toNat ∧
      ([0, 1] : List Byte).length ≠ 2 + 4 * (([0, 1] : List Byte).getD 1 0).toNat ∧
      (∀ p ∈ ([[0, 1, 32, 0, 0, 0], [0, 1, 1, 2, 0, 0], [0, 1, 1, 0, 2, 0], [0, 1, 1, 0, 1, 128]] : List (List Byte)),
        p.length = 2 + 4 * (p.getD 1 0).toNat ∧ (31 < (p.getD 2 0).toNat ∨ 1 < (p.getD 3 0).toNat ∨
          (p.getD 4 0).toNat ∉ [0, 1, 4, 5, 6, 7] ∨ 127 < (p.getD 5 0).toNat) ∧
        (after (.setCodeTable p) State.reset).cpe.port = .response .badArgument []) := by decide +kernel

/-! ## Witnesses and tests for line records, queue stamps, the end of a connection and the supervisor's timers -/

/-- Line A in TEXT at the stop sample of an errored character, its OPEN record of `n` characters in the first blocks, or
none with a continuation owed, one block reserved, and MAX_MSG_LEN `max`. -/
def filing (n : Option Nat) (max : Nat) : State :=
  let s := (hearing .running 1 false).setFramer .A ⟨.text, [], none⟩
  let used := match n with
    | some n => blocksFor n
    | none => 0
  let r (n : Nat) : Rec := { sample with origin := .lineA, state := .opened, length := n, chain := List.range (blocksFor n) }
  { s.setRecord 0 (n.map r) with stm := { (s.setRecord 0 (n.map r)).stm with
      free := (List.range 512).drop used, reservation := ⟨1, 0⟩, cfg := ⟨max, 64, true⟩, lineLink := ⟨n.map fun _ => 0, none⟩
      lineOwed := ⟨if n.isSome then none else
        some ⟨false, ⟨⟨true, false, true, false⟩, false⟩, true, false, false, none, some 3⟩, none⟩ } }

/-- R52, R53, R58, R59: an append that needs a new block, one that reaches the limit, a record above it, a continuation
owed, and a store with no block for it. -/
theorem wit_StopSampleEndsTheFrame_blocks :
    let r : Rec := { sample with origin := .lineA, state := .opened, length := 32, chain := [0] }
    let s := filing (some 32) 4096
    s.record 0 = some r ∧ s.stm.lineLink.get .A = some 0 ∧ newBlocks r 1 = 1 ∧ LineRoom s .A r 1 ∧ BlocksConserved s ∧
      32 + 1 < s.stm.cfg.maxMsgLen ∧ 32 + 1 = (filing (some 32) 33).stm.cfg.maxMsgLen ∧ r.dests.isEmpty = false ∧
      (filing (some 32) 20).stm.cfg.maxMsgLen ≤ 32 ∧ (filing (some 32) 20).record 1 = none ∧
      (filing (some 32) 20).stm.free.head? = some 1 ∧ LineMayTake (filing (some 32) 20) .A ∧
      (filing none 20).stm.lineLink.get .A = none ∧ ((filing none 20).stm.lineOwed.get .A).isSome = true ∧
      LineMayTake (filing none 20) .A ∧ (filing none 20).record 0 = none ∧ (filing none 20).stm.free.head? = some 0 ∧
      ¬ LineMayTake { filing none 20 with stm := { (filing none 20).stm with free := [] } } .A := by
  unfold LineRoom LineMayTake BlocksConserved
  decide +kernel

/-- R59: the character that reaches the limit closes the record, and the next one opens its continuation. -/
theorem test_line_record_splits :
    let t := after (.stopSample .A) (filing (some 32) 33)
    t.record 0 = some (closedAs 0 { sample with
        origin := .lineA, state := .opened, length := 33, chain := [0, 1]
        flags := { sample.flags with errored := true, split := true } }) ∧
      t.stm.reservation.a = 0 ∧ (t.stm.lineOwed.a.map (·.continuation)) = some true ∧
      ((after (.stopSample .A) (filing none 20)).record 0).map (fun q => (q.length, q.stamp.print, q.flags.continuation)) =
        some (1, some 0, true) := by decide +kernel

/-- R105, R112: line A at the stop sample of a space, in this state and phase. -/
def spacing (st : SupState) (p : CallPhase) : State :=
  (hearing st 0 false).onCsv .A fun c => { c with phase := p }

theorem wit_StopSampleEndsTheFrame_spaces :
    ((spacing .calling .confirmWait).unit .A).rx.sub = .character (frameOf 0) ∧ combOf (frameOf 0).samples = 0 ∧
    ((spacing .calling .confirmWait).unit .A).rx.last = .space ∧
    (∀ x ∈ ([(.connected, .none), (.selecting, .none), (.awaitConnect, .asking), (.calling, .proceedWait)]
        : List (SupState × CallPhase)),
      ((after (.stopSample .A) (spacing x.1 x.2)).csv .A).timers.clearRecognize =
        some ((spacing x.1 x.2).csv .A).values.clearRecognizeMs) ∧
    ((after (.stopSample .A) (spacing .calling .confirmWait)).csv .A).timers.clearRecognize = none := by decide +kernel

/-- R105, R112: the 32nd mark after a space, in each state that frames. -/
theorem wit_ReportedConditionsReachTheSupervisor_marks :
    let s (st : SupState) (p : CallPhase) : State := ((at_ .A st .framing fun t => { t with
        clearRecognize := some 9, callConfirm := some 8 }).onRx .A fun r => { r with sub := .spaceHeld 32 }).onCsv .A
      fun c => { c with phase := p }
    let t (st : SupState) (p : CallPhase) : Supervisor := (after (.spaceHeldEnd .A) (s st p)).csv .A
    (∀ x ∈ [SupState.selecting, .awaitConnect, .connected, .calling], ((s x .proceedWait).unit .A).rx.sub = .spaceHeld 32 ∧
      (t x .proceedWait).timers.clearRecognize = none) ∧
    (t .calling .confirmWait).timers.callConfirm = none ∧ (t .calling .confirmWait).phase = .proceedWait ∧
    (t .calling .confirmWait).timers.proceed = some (1000 * ((s .calling .confirmWait).csv .A).values.proceedS) ∧
    (t .clearing .none).timers.clearRecognize = some 9 ∧
    ¬ ((at_ .A .connected .framing id).unit .A).rx.inSpace = true := by decide +kernel

/-- R106: a character handed to the transmitter of a connected line starts the idle timer. -/
theorem test_transmit_restarts_idle : (placed.csv .A).state = .connected ∧ (placed.csv .A).values.idleTimeoutS ≠ 0 ∧
    ((after (.txCharacterStart .A) placed).csv .A).timers.idle = some (1000 * (placed.csv .A).values.idleTimeoutS) := by
  decide +kernel

/-- R86, R93: line A CLEARING with two characters held and an open record, record 1 granted and part sent, and CLEAR_CONFIRM_MS
run out. -/
def cutShort : State :=
  let n : RxChar := ⟨78, false⟩
  let s := (at_ .A .clearing .framing fun t => { t with clearConfirm := some 0 }).setFramer .A ⟨.text, [n, n], none⟩
  let s := (s.setRecord 0 (some { sample with origin := .lineA, state := .opened })).setRecord 1 (some { outgoing with
    chain := [1], cursor := ⟨0, 0, 2, 0⟩, grants := ⟨false, false, true, false⟩, stamp := ⟨none, none, some 1, none⟩ })
  let s := s.onSelector .A fun x => { x with grant := some ⟨1, false, [], none, true⟩ }
  { s with stm := { s.stm with lineLink := ⟨some 0, none⟩, free := (List.range 512).drop 2 } }

theorem wit_ConnectionEnded :
    let r : Rec := { sample with origin := .lineA, state := .opened }
    (cutShort.csv .A).state = .clearing ∧ (cutShort.csv .A).timers.clearConfirm = some 0 ∧
      (cutShort.framerOf .A).phase ≠ .idle ∧ cutShort.record 0 = some r ∧ r.dests.isEmpty = false ∧
      (cutShort.selector .A).grant.map (·.index) = some 1 ∧ r.cursor.get (sendOf .A) = 0 ∧
      cutShort.stm.episode.get .A = false ∧ CellsCanonical cutShort ∧ BlocksConserved cutShort ∧ LineRoom cutShort .A r 2 ∧
      r.length + 2 < cutShort.stm.cfg.maxMsgLen ∧ cutShort.stm.lineLink.get .A ≠ some 1 ∧
      ((at_ .A .running .framing fun t => { t with fault := some 0 }).framerOf .A).phase = .idle ∧
      ModesFollow (at_ .A .running .framing fun t => { t with fault := some 0 }) := by
  refine ⟨rfl, rfl, by decide, by decide +kernel, rfl, rfl, rfl, rfl, by show Memory.wf _ = true; decide, ?_, ?_, by decide,
    by decide, rfl, by intro l; cases l <;> rfl⟩
  · unfold BlocksConserved; decide +kernel
  · unfold LineRoom; decide +kernel

/-- R59, R60, R86: held characters that reach the limit, and a full block with no other to be had. -/
theorem wit_ConnectionEnded_held :
    let max := { cutShort with stm := { cutShort.stm with cfg := ⟨5, 64, true⟩ } }
    let full := { cutShort.onRecord 0 (fun r => { r with length := 32 }) with
      stm := { (cutShort.onRecord 0 fun r => { r with length := 32 }).stm with free := [] } }
    3 + 2 = max.stm.cfg.maxMsgLen ∧ LineRoom max .A { sample with origin := .lineA, state := .opened } 2 ∧
      ¬ LineMayTake full .A ∧ (32 < full.stm.cfg.maxMsgLen ∧ 32 % 32 = 0) ∧
      ((after (.clearConfirmExpiry .A) max).record 0).map (·.flags.split) = some true ∧
      ((after (.clearConfirmExpiry .A) full).record 0).map (·.flags.truncated) = some true ∧
      (after (.clearConfirmExpiry .A) full).stm.discarded.a = 2 := by
  unfold LineRoom LineMayTake
  decide +kernel

theorem test_connection_end : ((after (.clearConfirmExpiry .A) cutShort).record 1).map (fun r =>
      (r.cursor.sendA, r.attempts.a, r.grants.any, r.stamp.sendA)) = some (0, 1, false, some 1) ∧
    ((after (.clearConfirmExpiry .A) cutShort).record 0).map (fun r => (r.state, r.length)) = some (.closed, 5) := by
  decide +kernel

/-- R92: CALL takes every record's live charge for its line. -/
theorem test_call_drops_charges :
    let s := (at_ .A .free .condition id).setRecord 0 (some { sample with charged := ⟨true, true⟩ })
    ((after (.call [0, 1, 53, 0, 1]) s).record 0).map (·.charged) = some ⟨false, true⟩ := by decide +kernel

/-- R77: two joins of one step, and the sequence at its highest value. -/
theorem test_joins : joins [.print, .punch] ⟨none, none, none, none⟩ 7 = (⟨some 7, some 8, none, none⟩, 9) ∧
    joins [.print, .sendA] ⟨none, none, some 3, none⟩ 4294967295 = (⟨some 4294967295, none, some 3, none⟩, 4294967295) := by
  decide

/-- R77, R80: a removal that empties the queues, one beside another queued record, and the return to 0 at a release. -/
theorem wit_MsgRerouteRemovesThenAdds_stamps :
    let s := { holding sample with fqm := { (holding sample).fqm with seq := 5 } }
    let t := { s.setRecord 1 (some { sample with chain := [1], stamp := ⟨some 2, none, none, none⟩ }) with
      fqm := { s.fqm with seq := 5 } }
    ((after (.msgReroute [0, 2, 1]) s).record 0).map (fun r => (r.stamp.print, r.stamp.punch)) = some (none, some 0) ∧
      ((after (.msgReroute [0, 2, 1]) t).record 0).map (·.stamp.punch) = some (some 5) ∧
      (after (.msgDelete [0]) s).fqm.seq = 0 ∧ (after (.msgDelete [0]) t).fqm.seq = 5 := by decide +kernel

/-- R59, R67: a text that crosses the limit with every index taken. -/
theorem wit_MsgAppendStoresTheText_stops :
    let s := { writing 5 with stm := { (writing 5).stm with
      cfg := ⟨6, 64, true⟩, recs := (writing 5).stm.recs.map fun x => x.or (some { sample with chain := [] }) } }
    let text : List Chr := [65, 0, 66, 67]
    (∀ j < s.stm.recs.length, s.record j ≠ none) ∧ text = [65, 0] ++ 66 :: [67] ∧
      (([65, 0] : List Chr).filter fun c => decide (c ≠ 0)) = [65] ∧ 5 + ([65] : List Chr).length = s.stm.cfg.maxMsgLen ∧
      ([66, 67] : List Chr).length < s.stm.cfg.maxMsgLen ∧ s.stm.free.length ≥ 1 ∧ BlocksConserved s ∧
      (after (.msgAppend (e1 0 ++ eText text)) s).cpe.port = .response .storeFull [2, 0] := by
  unfold BlocksConserved
  decide +kernel

/-- R135: a spent repeat with its key and the REPEAT key held, and no fresh key. -/
theorem wit_ScanDebouncesAndKeysAreCarriedOut_spent :
    let s := repeatStopped.onKbs fun k => { k with keys := k.keys.set 0 ⟨true, 0⟩ }
    let t := after (.keyboardScan 3) s
    s.kbs.scanTimer = 0 ∧ s.running = true ∧ s.kbs.repeatSpent = true ∧ anyDown t.kbs .repeatKey = true ∧
      keyDown t.kbs 0 = true ∧ t.kbs.repeatKey = some 0 ∧
      ((List.range 64).filter fun k => !keyDown s.kbs k && keyDown t.kbs k) = [] ∧ t.kbs.repeatTimer = none := by
  decide +kernel

/-- R157: a printer that is not READY, with a STRIKE next and a hot head, and with a cool one. -/
theorem wit_PrinterPrintsItsQueue_heats :
    let s := printing none false
    let hot := { s with prc := { s.prc with hold := true, heat := s.prc.cfg.hHi } }
    hot.prc.op = none ∧ hot.prc.owedCr = false ∧ hot.prc.cfg.hHi ≤ hot.prc.heat ∧ hot.prc.hold = true ∧
      hot.prc.grant.map (grantOps hot) = some [.strike 65] ∧ (after .printOperationIssue hot).prc.heatHold = true ∧
      ¬ s.prc.cfg.hHi ≤ s.prc.heat := by decide +kernel

/-- R59, R140: a HERE_IS that crosses the limit in its middle, under a pending urgent mark: with an index FREE and a block to
be had, with no block, and with every index taken. -/
theorem wit_ScanDebouncesAndKeysAreCarriedOut_crosses :
    let at' (free : Nat) : State := { carrying [.hereIs] (some 31) free with
      stm := { (carrying [.hereIs] (some 31) free).stm with cfg := ⟨32, 64, true⟩ }
      kbs := { (carrying [.hereIs] (some 31) free).kbs with urgentPending := true } }
    let taken : State := { at' 1 with stm := { (at' 1).stm with
      recs := (at' 1).stm.recs.map fun x => x.or (some { sample with chain := [] }) } }
    (at' 1).identity = some ([65] ++ [66]) ∧ (at' 1).stm.kbLink = some 0 ∧ kbLocked (at' 1) = false ∧
      31 + ([65] : List Chr).length = (at' 1).stm.cfg.maxMsgLen ∧ blocksFor 32 - 1 = 0 ∧ (at' 1).record 1 = none ∧
      unreserved (at' 1).stm = 1 ∧ unreserved (at' 0).stm = 0 ∧ (∀ j < taken.stm.recs.length, taken.record j ≠ none) ∧
      BlocksConserved (at' 1) ∧ BlocksConserved taken ∧ CellsCanonical (at' 1) ∧
      ((after .keyFifoDrain (at' 1)).record 1).map (fun r => (r.urgent, r.length, r.flags.continuation)) = some (true, 1, true) ∧
      (after .keyFifoDrain (at' 0)).stm.kbOwed.map (·.urgent) = some true ∧
      (after .keyFifoDrain taken).kbs.storeFull = true := by
  unfold BlocksConserved CellsCanonical
  decide +kernel

/-- R33, R96, R121, R182: one value outside its range at a time, at the least and the greatest. -/
theorem test_out_of_range :
    let supervision (ae : Byte) (confirm idle : Nat) : List Byte := [0, ae] ++ e2 32 ++ e1 30 ++ e2 300 ++ e2 confirm ++
      e2 1000 ++ e2 500 ++ e2 3000 ++ e1 5 ++ e1 30 ++ e2 60 ++ e2 idle ++ [0]
    let exchange (ab pt : Byte) (accept : Nat) : List Byte := [0, ab] ++ e2 500 ++ [pt] ++ e2 accept ++ e2 511
    let port (i : Instr) : Port := (after i State.reset).cpe.port
    port (.setSupervision (supervision 1 1000 10)) = .response .ok [] ∧
      port (.setSupervision (supervision 1 1001 10)) = .response .badArgument [] ∧
      port (.setSupervision (supervision 1 1000 9)) = .response .badArgument [] ∧
      port (.setSupervision (supervision 2 1000 10)) = .response .badArgument [] ∧
      port (.setExchange (exchange 15 3 4095)) = .response .ok [0] ∧
      port (.setExchange (exchange 16 3 4095)) = .response .badArgument [] ∧
      port (.setExchange (exchange 15 4 4095)) = .response .badArgument [] ∧
      port (.setExchange (exchange 15 3 4096)) = .response .badArgument [] ∧
      port (.setLine ([0, 0, 1] ++ e2 5000 ++ [0, 0, 0] ++ e2 49 ++ [20])) = .response .badArgument [] ∧
      port (.setMotors ([2] ++ e2 2000 ++ e2 5 ++ e2 60)) = .response .badArgument [] := by decide +kernel

/-- R43: line A about to send a raw BLANK, on a half or full duplex line, its receiver in a sub-state of FRAMING. -/
def blanking (d : Duplex) (r : RxSub) : State :=
  (placed.onUnit .A fun u => { u with cfg := { u.cfg with duplex := d } }).onRx .A fun x => { x with sub := r }

/-- R43: tick 0 blanks a receiver that hunts on a half-duplex line; one in SPACE_HELD, or of a full-duplex line, stays. -/
theorem wit_TxCharacterStartHandsTheNext_blanks :
    let s := blanking .half (.hunting false false)
    txTakes s .A = true ∧ (s.unit .A).rx.mode = .framing ∧ (s.unit .A).cfg.duplex = .half ∧
      ((after (.txCharacterStart .A) s).unit .A).rx.sub = .blanked ∧
      ((after (.txCharacterStart .A) (blanking .half (.spaceHeld 3))).unit .A).rx.sub = .spaceHeld 3 ∧
      ((after (.txCharacterStart .A) (blanking .full (.hunting false true))).unit .A).rx.sub = .hunting false true := by
  decide +kernel

/-- R114, R126, R130: line A in AWAIT_CONNECT, no character yet, paging with its page timer run out and these held. -/
def unanswered (held : List Comb) : State :=
  (asked .awaitConnect (.progress false) []).onExch .A fun e =>
    { e with sub := .awaitPage0, pageTimer := some 0, held := held }

theorem wit_ExchangeConfigurationAndTimers_awaiting :
    let s := unanswered []
    let t := after (.pageTimerExpiry .A) s
    let u := after (.pageTimerExpiry .A) (unanswered [31, 1])
    (s.csv .A).exch.sub.isPaging = true ∧ (s.csv .A).exch.pageTimer = some 0 ∧ (s.csv .A).exch.held = [] ∧
      (s.csv .A).state = .awaitConnect ∧ (s.csv .A).phase = .progress false ∧
      (s.selector .A).seqs = [] ∧ (s.selector .A).answerback = none ∧ (translateChr s.ctr.table 5).isSome = true ∧
      (t.selector .A).seqs = [⟨.wru, [.chr 5]⟩] ∧ (t.csv .A).phase = .asking ∧ (t.csv .A).exch.cause = .noPage ∧
      ((unanswered [31, 1]).csv .A).exch.held = [31, 1] ∧ (u.csv .A).exch.held = [] ∧
      u.ctr.rx.get .A = .held .letters := by decide +kernel

/-- R153: an OPEN record of three characters, two of them printed, in TEXT, or its header's last operation in flight. -/
def starving (g : PrintGrant) (cursor : Nat) (op : Option (PrintOp × Nat)) (timer : Option (Nat × Nat)) : State :=
  let s := printing op false
  let s := s.setRecord 0 (some { sample with
    state := .opened, chain := [0], cursor := ⟨cursor, 0, 0, 0⟩, grants := ⟨true, false, false, false⟩ })
  { s with prc := { s.prc with grant := some g, yieldTimer := timer }
           stm := { s.stm with free := (List.range 512).drop 1 } }

/-- R153: the timer starts at the length, for YIELD_S seconds, from the text or from the header's end. -/
theorem wit_PrinterPrintsItsQueue_starves :
    let s := starving ⟨0, .text, none, []⟩ 2 (some (.strike 67, 5)) none
    let h := starving ⟨0, .header, some [.lineFeed], []⟩ 3 (some (.lf none, 5)) none
    let started := some (0, 1000 * s.prc.cfg.yieldS)
    s.prc.op = some (.strike 67, 5) ∧ s.prc.starved = false ∧ s.prc.yieldTimer = none ∧ s.puc.grant = none ∧
      (s.record 0).map (fun r => (r.cursor.print + 1, r.length, r.state, r.stops.print)) = some (3, 3, .opened, false) ∧
      (after .prdy s).prc.yieldTimer = started ∧
      (h.record 0).map (fun r => (r.cursor.print, r.length)) = some (3, 3) ∧ (after .prdy h).prc.yieldTimer = started := by
  decide +kernel

/-- R153: the timer runs on through another row, and is cleared when the record closes or its length rises. -/
theorem wit_PrinterPrintsItsQueue_yieldStops :
    let s := starving ⟨0, .text, none, []⟩ 3 none (some (1200, 3000))
    Ready s ∧ YieldRuns s ∧ (s.record 0).map (·.origin) = some .console ∧
      (after (.setAttendance [0]) s).prc.yieldTimer = some (1200, 3000) ∧
      (after (.mechResume [0]) s).prc.yieldTimer = some (1200, 3000) ∧
      (after (.msgClose (e1 0)) s).prc.yieldTimer = none ∧
      (after (.msgAppend (e1 0 ++ eText [65])) s).prc.yieldTimer = none ∧
      ((after (.msgAppend (e1 0 ++ eText [65])) s).record 0).map (·.length) = some 4 := by
  refine ⟨⟨rfl, rfl, rfl⟩, (yieldRuns_iff _).1 (by decide +kernel), by decide +kernel⟩

/-- R166: a granted OPEN record at its length has no next operation. -/
theorem wit_PunchPunchesItsQueue_waits :
    let s := (punching .text none none).setRecord 0 (some { sample with
      state := .opened, cursor := ⟨0, 3, 0, 0⟩, dests := ⟨⟨false, true, false, false⟩, false⟩
      grants := ⟨false, true, false, false⟩ })
    PunchReady s ∧ s.puc.grant = some ⟨0, .text, 0, [], none, none⟩ ∧ ¬ SectionNext s ⟨0, .text, 0, [], none, none⟩ ∧
      exec .punchOperationIssue s = .next s := by
  refine ⟨⟨rfl, rfl, rfl, rfl, rfl, rfl, rfl⟩, rfl, ?_, rfl⟩
  rintro (h | ⟨h, -⟩ | ⟨h, -⟩ | ⟨h, -⟩ | ⟨h, -⟩ | ⟨c, -, ⟨h, -⟩ | ⟨-, r, h, k, -⟩⟩) <;> first | cases h | skip
  · exact h rfl
  · exact absurd k (by decide)

/-- R70, R75, R81: bytes just outside their values. -/
theorem test_store_and_queue_out_of_range :
    let port (i : Instr) : Port := (after i State.reset).cpe.port
    let framing (c on : Byte) : List Byte := [0] ++ e1 1 ++ [c] ++ e1 2 ++ [78, 78] ++ e2 10 ++ [on]
    port (.setStore (e2 8192 ++ e2 64 ++ [2])) = .response .badArgument [] ∧
      port (.setStore (e2 8192 ++ e2 64 ++ [1])) = .response .ok [] ∧
      port (.setRoute [1, 0, 1]) = .response .badArgument [] ∧ port (.setRoute [4, 0, 1]) = .response .badArgument [] ∧
      port (.setRoute [2, 2, 1]) = .response .badArgument [] ∧ port (.setRoute [2, 1, 32]) = .response .badArgument [] ∧
      port (.setRoute [2, 1, 31 - 4]) = .response .ok [] ∧
      port (.setFraming (framing 127 1)) = .response .ok [] ∧
      port (.setFraming (framing 127 2)) = .response .badArgument [] ∧
      port (.setFraming (framing 128 1)) = .response .badArgument [] := by decide +kernel

/-- R111: the forms of CALL that are refused with BAD_ARGUMENT, at their bounds. -/
theorem test_call_out_of_range :
    let s := at_ .A .free .condition id
    let port (p : List Byte) : Port := (after (.call p) s).cpe.port
    let bad : Port := .response .badArgument []
    port [0, 1, 57, 1, 65, 1] = .response .ok [1, 0] ∧ port [2, 1, 57, 1, 65, 1] = bad ∧ port [0, 0, 1, 65, 1] = bad ∧
      port ([0, 17] ++ List.replicate 17 48 ++ [0, 1]) = bad ∧ port [0, 1, 58, 1, 65, 1] = bad ∧
      port ([0, 1, 57, 21] ++ List.replicate 21 65 ++ [1]) = bad ∧ port [0, 1, 57, 1, 5, 1] = bad ∧
      port [0, 1, 57, 1, 128, 1] = bad ∧ port [0, 1, 57, 1, 65, 2] = bad ∧ port [0, 1, 57, 0, 21] = bad ∧
      port [0, 1, 57, 0, 0] = bad ∧ port [0, 1, 57, 0, 20] = .response .ok [1, 0] ∧ port [0, 1, 57, 0, 1, 0] = bad := by
  decide +kernel

end Sys2Proof.Tests
end

section
/-! SUPPORT. What any operation of the traffic store, the framer included, leaves alone: the timebase, the translator, the
lines, the supervisors, the mechanisms and the selectors. -/

namespace Sys2Proof.Machine

open Sys2Proof

/-- `t` comes from `s` by operations of the store and of a line's framer: outside the store they touch the framers, the
arrival sequence, the keyboard's store-full flag and the event latches; the framers only where `framing` allows. -/
structure StoreStep (s t : State) (framing : Bool := true) : Prop where
  tbu : t.tbu = s.tbu := by rfl
  ctr : t.ctr = s.ctr := by rfl
  lu : t.lu = s.lu := by rfl
  identity : t.identity = s.identity := by rfl
  xcfg : t.xcfg = s.xcfg := by rfl
  sup : t.sup = s.sup := by rfl
  prc : t.prc = s.prc := by rfl
  puc : t.puc = s.puc := by rfl
  mtc : t.mtc = s.mtc := by rfl
  pending : t.pending = s.pending := by rfl
  cfg : t.stm.cfg = s.stm.cfg := by rfl
  fqm : t.fqm = { s.fqm with seq := t.fqm.seq, framer := t.fqm.framer } := by rfl
  framers : framing = false → t.fqm.framer = s.fqm.framer := by exact fun _ => rfl
  kbs : t.kbs = { s.kbs with storeFull := t.kbs.storeFull } := by rfl
  cpe : t.cpe = { s.cpe with latches := t.cpe.latches } := by rfl
  latched : ∀ k, s.cpe.latches.getLsbD k = true → t.cpe.latches.getLsbD k = true := by exact fun _ h => h

namespace StoreStep

variable {s t u : State} {framing : Bool}

theorem refl (s : State) : StoreStep s s framing := {}

theorem trans (a : StoreStep s t framing) (b : StoreStep t u framing) : StoreStep s u framing where
  tbu := b.tbu.trans a.tbu
  ctr := b.ctr.trans a.ctr
  lu := b.lu.trans a.lu
  identity := b.identity.trans a.identity
  xcfg := b.xcfg.trans a.xcfg
  sup := b.sup.trans a.sup
  prc := b.prc.trans a.prc
  puc := b.puc.trans a.puc
  mtc := b.mtc.trans a.mtc
  pending := b.pending.trans a.pending
  cfg := b.cfg.trans a.cfg
  fqm := by rw [b.fqm, a.fqm]
  framers := fun h => (b.framers h).trans (a.framers h)
  kbs := by rw [b.kbs, a.kbs]
  cpe := by rw [b.cpe, a.cpe]
  latched := fun k h => b.latched k (a.latched k h)

theorem unit (a : StoreStep s t) (l : LineId) : t.unit l = s.unit l := by rw [State.unit, a.lu]; rfl
theorem csv (a : StoreStep s t) (l : LineId) : t.csv l = s.csv l := by rw [State.csv, a.sup]; rfl
theorem selector (a : StoreStep s t) (l : LineId) : t.selector l = s.selector l := by rw [State.selector, a.fqm]; rfl

theorem onRecords (s : State) (f : Nat → Rec → Rec) : StoreStep s (s.onRecords f) framing := {}
theorem setFramer (s : State) (l : LineId) (f : Framer) : StoreStep s (s.setFramer l f) where
  framers := nofun
theorem onFramer (s : State) (l : LineId) (f : Framer → Framer) : StoreStep s (s.onFramer l f) where
  framers := nofun
theorem fst {α : Type} {x : α} (a : StoreStep s t framing) : StoreStep s (t, x).1 framing := a
theorem latch (s : State) (e : Event) : StoreStep s (s.latch e) framing where
  latched := latch_mono s e

end StoreStep

variable {framing : Bool}

theorem StoreOnly.storeStep {P : Nat → Prop} {s t : State} (a : StoreOnly P s t) :
    StoreStep s t framing where
  tbu := a.tbu
  ctr := a.ctr
  lu := a.lu
  identity := a.identity
  xcfg := a.xcfg
  sup := a.sup
  prc := a.prc
  puc := a.puc
  mtc := a.mtc
  pending := a.pending
  cfg := by rw [a.stm]
  fqm := by rw [a.fqm]
  framers := fun _ => by rw [a.fqm]
  kbs := a.kbs
  cpe := a.cpe
  latched := a.latched

/-! ## Records, blocks and reservations (R52 to R64) -/

theorem setRecord_step (s : State) (i : Nat) (r : Option Rec) : StoreStep s (s.setRecord i r) framing :=
  (StoreOnly.setRecord s i r).storeStep
theorem onRecord_step (s : State) (i : Nat) (f : Rec → Rec) : StoreStep s (s.onRecord i f) framing :=
  (StoreOnly.onRecord s i f).storeStep
theorem evalLow_step (s : State) : StoreStep s (evalLow s) framing := (evalLow_storeOnly (fun _ => False) s).storeStep
theorem unreservedRose_step (s : State) : StoreStep s (unreservedRose s) framing :=
  (unreservedRose_storeOnly (fun _ => False) s).storeStep
theorem settleSequence_step (s : State) : StoreStep s (settleSequence s) framing :=
  (settleSequence_storeOnly (fun _ => False) s).storeStep
theorem enqueue_step (s : State) (d : Deliv) (i : Nat) : StoreStep s (enqueue s d i) framing :=
  (enqueue_storeOnly s d i).storeStep
theorem dequeue_step (s : State) (d : Deliv) (i : Nat) : StoreStep s (dequeue s d i) framing :=
  (dequeue_storeOnly s d i).storeStep
theorem releaseIfDone_step (s : State) (i : Nat) : StoreStep s (releaseIfDone s i) framing :=
  (releaseIfDone_storeOnly s i).storeStep
theorem startGrant_step (s : State) (d : Deliv) (i : Nat) : StoreStep s (startGrant s d i) framing :=
  (startGrant_storeOnly s d i).storeStep
theorem endGrant_step (s : State) (d : Deliv) (i : Nat) : StoreStep s (endGrant s d i) framing :=
  (endGrant_storeOnly s d i).storeStep
theorem advanceCursor_step (s : State) (d : Deliv) (i : Nat) : StoreStep s (advanceCursor s d i) framing :=
  (advanceCursor_storeOnly s d i).storeStep
theorem completeDelivery_step (s : State) (d : Deliv) (i : Nat) : StoreStep s (completeDelivery s d i) framing :=
  (completeDelivery_storeOnly s d i).storeStep

theorem setReservation_step (s : State) (l : LineId) (n : Nat) : StoreStep s (setReservation s l n) framing := by
  have a : StoreStep s { s with stm := { s.stm with reservation := s.stm.reservation.set l n } } framing := {}
  simp only [setReservation]
  split
  · exact a.trans (unreservedRose_step _)
  · exact a.trans (evalLow_step _)

/-- A block taken is the head of the free list, and the rest stays on it (R52). -/
theorem takeBlock_step {s t : State} {w : Writer} {b : Nat} (h : takeBlock s w = some (b, t)) :
    StoreStep s t framing := by
  unfold takeBlock at h
  split at h
  · cases h
  · next rest _ =>
    have a : StoreStep s { s with stm := { s.stm with free := rest } } framing := {}
    cases w with
    | line l =>
      simp only at h
      split at h
      · cases h; exact a.trans {}
      · split at h
        · cases h; exact a.trans (evalLow_step _)
        · cases h
    | keyboard | console =>
      simp only at h
      split at h
      · cases h; exact a.trans (evalLow_step _)
      · cases h

theorem linkWriter_step (s : State) (w : Writer) (i : Option Nat) : StoreStep s (linkWriter s w i) framing := by
  cases w <;> exact {}

theorem oweTo_step (s : State) (w : Writer) (o : Option OpenSpec) : StoreStep s (oweTo s w o) framing := by
  cases w <;> exact {}

theorem StoreStep.ite {s t u : State} {c : Prop} [Decidable c] (a : StoreStep s t framing) (b : StoreStep s u framing) :
    StoreStep s (if c then t else u) framing := by
  split
  · exact a
  · exact b

theorem enqueueAtOpen_step (s : State) (i : Nat) (spec : OpenSpec) : StoreStep s (enqueueAtOpen s i spec) framing := by
  have join (c : Bool) (t : State) (d : Deliv) : StoreStep t (if c then enqueue t d i else t) framing :=
    .ite (enqueue_step ..) (.refl _)
  exact (((join _ _ _).trans (join _ _ _)).trans (join _ _ _)).trans (join _ _ _)

theorem setNext_step (s : State) (n : NextNumbers) : StoreStep s { s with stm := { s.stm with nextNum := n } } framing :=
  {}

theorem openRecord_step {s t : State} {w : Writer} {spec : OpenSpec} {i : Nat} (h : openRecord s w spec = some (i, t)) :
    StoreStep s t framing := by
  unfold openRecord at h
  split at h
  · cases h
  · next j _ =>
    split at h
    · cases h
    · next b v hb =>
      cases h
      refine .trans (.trans ?_ (linkWriter_step ..)) (enqueueAtOpen_step ..)
      exact .trans ((takeBlock_step hb).trans (setRecord_step ..)) (setNext_step ..)

theorem unlink_step (s : State) (i : Nat) : StoreStep s (unlink s i) framing := {}

theorem closeRecord_step (s : State) (i : Nat) (announce : Bool) : StoreStep s (closeRecord s i announce) framing := by
  unfold closeRecord
  split
  · exact .refl s
  · next r _ =>
    split
    · exact .refl s
    · exact .refl s
    · have a := (setRecord_step (framing := framing) s i (some { r with state := .closed })).trans (unlink_step _ i)
      have join (c : Bool) (t : State) (d : Deliv) : StoreStep t (if c then enqueue t d i else t) framing :=
        .ite (enqueue_step ..) (.refl _)
      have tell (c : Bool) (t : State) (e : Event) : StoreStep t (if c then t.latch e else t) framing :=
        .ite (.latch ..) (.refl _)
      refine .trans ?_ (releaseIfDone_step ..)
      refine .trans (.trans ?_ (tell _ _ _)) (tell _ _ _)
      exact .trans (.trans a (join _ _ _)) (join _ _ _)

theorem splitRecord_step (s : State) (w : Writer) (i : Nat) : StoreStep s (splitRecord s w i) framing := by
  unfold splitRecord
  split
  · exact .refl s
  · exact .trans (setRecord_step ..) (.trans (closeRecord_step ..) (oweTo_step ..))

theorem appendRaw_step {s t : State} {w : Writer} {i : Nat} {c : Chr} {e : Bool} (h : appendRaw s w i c e = some t) :
    StoreStep s t framing := by
  unfold appendRaw at h
  split at h
  · cases h
  · next r _ =>
    simp only at h
    split at h
    · cases h
    · next q v hg =>
      have a : StoreStep s v framing := by
        split at hg
        · split at hg
          · cases hg
          · next hb => cases hg; exact takeBlock_step hb
        · cases hg; exact .refl s
      cases h
      exact a.trans {}

theorem appendAndSplit_step {s t : State} {w : Writer} {i : Nat} {c : Chr} {e : Bool}
    (h : appendAndSplit s w i c e = some t) : StoreStep s t framing := by
  unfold appendAndSplit at h
  split at h
  · cases h
  · next v hv => cases h; exact (appendRaw_step hv).trans (.ite (splitRecord_step ..) (.refl _))

theorem offerChar_step (s : State) (w : Writer) (fresh : OpenSpec) (c : Chr) (e : Bool) :
    StoreStep s (offerChar s w fresh c e).st framing := by
  have checked : StoreStep s (match writerLink s w with
      | some i => if atLimit s i then splitRecord s w i else s
      | none => s) framing := by
    split
    · exact .ite (splitRecord_step ..) (.refl s)
    · exact .refl s
  unfold offerChar
  simp only
  split
  · split
    · next h => exact checked.trans (appendAndSplit_step h)
    · exact checked
  · split
    · exact checked
    · next h =>
      have opened := checked.trans (openRecord_step h)
      split
      · next k => exact opened.trans (appendAndSplit_step k)
      · exact opened

/-! ## Line writers and framers (R57, R60, R82 to R86) -/

theorem beginEpisode_step (s : State) (l : LineId) (counted : Bool) :
    StoreStep s (beginEpisode s l counted) framing := by
  unfold beginEpisode
  simp only
  split
  · exact .trans (.trans {} (onRecord_step ..)) (.latch ..)
  · exact .trans {} (.latch ..)

theorem openLineRecord_step (s : State) (l : LineId) : StoreStep s (openLineRecord s l) framing := by
  unfold openLineRecord
  split
  · next h => exact openRecord_step h
  · exact beginEpisode_step ..

theorem storeLineChar_step (s : State) (l : LineId) (x : RxChar) : StoreStep s (storeLineChar s l x) framing := by
  unfold storeLineChar
  split
  · exact {}
  · exact .ite (offerChar_step ..) ((offerChar_step ..).trans (beginEpisode_step ..))

theorem storeLineChars_step (s : State) (l : LineId) (xs : List RxChar) :
    StoreStep s (storeLineChars s l xs) framing := by
  induction xs generalizing s with
  | nil => exact .refl s
  | cons x xs ih => exact (storeLineChar_step s l x).trans (ih _)

theorem closeLineMessage_step (s : State) (l : LineId) : StoreStep s (closeLineMessage s l) framing := by
  unfold closeLineMessage
  split
  · exact .trans (closeRecord_step ..) {}
  · exact {}

theorem framerEnd_step (s : State) (l : LineId) : StoreStep s (framerEnd s l) := by
  unfold framerEnd
  simp only
  split
  · exact .refl s
  all_goals exact .trans (.trans (storeLineChars_step ..) (closeLineMessage_step ..)) (.setFramer ..)

theorem stageEffect_step (s : State) (l : LineId) (held : List RxChar) (st : HeadStage) :
    StoreStep s (stageEffect s l held st) := by
  cases st <;> simp only [stageEffect]
  · exact .refl s
  all_goals
    split
    · exact onRecord_step ..
    · exact .refl s

theorem framerChar_step (s : State) (l : LineId) (x : RxChar) : StoreStep s (framerChar s l x).1 := by
  unfold framerChar
  dsimp only
  split
  · exact .fst ((openLineRecord_step ..).trans (.onFramer ..))
  · exact .fst (.onFramer ..)
  · split
    · exact .fst (.onFramer ..)
    · split
      · exact .fst (.onFramer ..)
      · exact .fst ((stageEffect_step ..).trans (.onFramer ..))
      · exact .fst (.onFramer ..)
  · split
    · exact .fst ((closeLineMessage_step ..).trans (.setFramer ..))
    · exact .fst (.onFramer ..)
    · exact .fst (.trans (.onFramer ..) (storeLineChars_step ..))

theorem framerRun_step (n : Nat) (s : State) (l : LineId) (xs : List RxChar) : StoreStep s (framerRun n s l xs).1 := by
  induction n generalizing s xs with
  | zero => exact .refl s
  | succ n ih =>
    cases xs with
    | nil => exact .refl s
    | cons x xs => exact (framerChar_step s l x).trans (ih _ _)

theorem restartGap_step (s : State) (l : LineId) : StoreStep s (restartGap s l) := by
  unfold restartGap
  exact .onFramer ..

end Sys2Proof.Machine
end


section
/-! SUPPORT. What every operation keeps: each receiver in the mode of its supervisor's state, the code table sound, and the
bounded figures bounded. -/

namespace Sys2Proof.Machine

open Sys2Proof

/-! ## Keeping the modes, the table and the bounds -/

/-- The receiver mode that a supervisor state gives (R39). -/
def SupState.rxMode (running : Bool) : SupState → RxMode
  | .disabled => .off
  | .free | .incoming | .answering | .refusing | .guard | .fault => .condition
  | .calling | .selecting | .awaitConnect | .connected | .clearing => .framing
  | .running => if running then .framing else .watch

/-- Line l's receiver is in the mode of its supervisor's state (R39). -/
def LineFollows (s : State) (l : LineId) : Prop := (s.unit l).rx.mode = (s.csv l).state.rxMode s.running

theorem modesFollow_iff (s : State) : ModesFollow s ↔ ∀ l, LineFollows s l := by
  have h (st : SupState) (m : RxMode) : ModeFollows s.running st m ↔ m = st.rxMode s.running := by cases st <;> rfl
  exact forall_congr' fun l => h _ _

/-- `t` keeps what `s` has: it runs as `s` does, its table is sound and its figures bounded where those of `s` are, and so
are the modes of the lines in `on`. -/
structure KeepsOn (on : LineId → Prop) (s t : State) : Prop where
  running : t.running = s.running
  table : t.ctr.table = s.ctr.table
  bounds : Bounded s → Bounded t
  modes : ∀ l, on l → LineFollows s l → LineFollows t l

/-- Every line's mode is kept; every line's but l's. -/
abbrev Keeps (s t : State) : Prop := KeepsOn (fun _ => True) s t
abbrev KeepsOff (l : LineId) (s t : State) : Prop := KeepsOn (· ≠ l) s t

variable {on : LineId → Prop} {s t u : State} {l : LineId}

theorem KeepsOn.refl (s : State) : KeepsOn on s s := ⟨rfl, rfl, id, fun _ _ h => h⟩

theorem KeepsOn.trans (a : KeepsOn on s t) (b : KeepsOn on t u) : KeepsOn on s u where
  running := b.running.trans a.running
  table := b.table.trans a.table
  bounds h := b.bounds (a.bounds h)
  modes l o h := b.modes l o (a.modes l o h)

theorem KeepsOn.ite {c : Prop} [Decidable c] (a : c → KeepsOn on s t) (b : ¬ c → KeepsOn on s u) :
    KeepsOn on s (if c then t else u) := by
  split
  · next h => exact a h
  · next h => exact b h

theorem KeepsOn.off (a : Keeps s t) : KeepsOn on s t := ⟨a.running, a.table, a.bounds, fun l _ => a.modes l trivial⟩

theorem KeepsOn.mono {on' : LineId → Prop} (a : KeepsOn on s t) (h : ∀ l, on' l → on l) : KeepsOn on' s t :=
  ⟨a.running, a.table, a.bounds, fun l o => a.modes l (h l o)⟩

/-- A line that was left out is set right. -/
theorem KeepsOn.complete (a : KeepsOff l s t) (h : LineFollows t l) : Keeps s t where
  running := a.running
  table := a.table
  bounds := a.bounds
  modes k _ o := by
    by_cases e : k = l
    · rw [e]; exact h
    · exact a.modes k e o

/-- What a change has to leave: the timebase's state and last count, the table, the printer's figures, the key FIFO, and of
the lines the receiver's mode and the mode that the supervisor's state gives. -/
theorem KeepsOn.of_parts
    (lines : ∀ l, on l → (t.unit l).rx.mode = (s.unit l).rx.mode ∧
      (t.csv l).state.rxMode s.running = (s.csv l).state.rxMode s.running)
    (tbu : t.tbu.state = s.tbu.state := by rfl) (last : t.tbu.lastCount = s.tbu.lastCount := by rfl)
    (table : t.ctr.table = s.ctr.table := by rfl) (heat : t.prc.heat = s.prc.heat := by rfl)
    (count : t.prc.count = s.prc.count := by rfl) (cfg : t.prc.cfg = s.prc.cfg := by rfl)
    (fifo : t.kbs.fifo = s.kbs.fifo := by rfl) : KeepsOn on s t where
  running := by rw [State.running, tbu]; rfl
  table := table
  bounds h := ⟨heat ▸ h.heat, fifo ▸ h.fifo, by rw [count, cfg]; exact h.count, last ▸ h.last⟩
  modes l o h := by
    obtain ⟨m, c⟩ := lines l o
    have r : t.running = s.running := by rw [State.running, tbu]; rfl
    rw [LineFollows, m, r, c]
    exact h

/-- A change outside the lines. -/
theorem KeepsOn.of_rest (lu : t.lu = s.lu := by rfl) (sup : t.sup = s.sup := by rfl)
    (tbu : t.tbu.state = s.tbu.state := by rfl) (last : t.tbu.lastCount = s.tbu.lastCount := by rfl)
    (table : t.ctr.table = s.ctr.table := by rfl) (heat : t.prc.heat = s.prc.heat := by rfl)
    (count : t.prc.count = s.prc.count := by rfl) (cfg : t.prc.cfg = s.prc.cfg := by rfl)
    (fifo : t.kbs.fifo = s.kbs.fifo := by rfl) : KeepsOn on s t :=
  .of_parts (fun l _ => by simp only [State.unit, State.csv, lu, sup, and_self]) tbu last table heat count cfg fifo

theorem StoreStep.keeps (a : StoreStep s t) : KeepsOn on s t :=
  .of_rest a.lu a.sup (by rw [a.tbu]) (by rw [a.tbu]) (by rw [a.ctr]) (by rw [a.prc]) (by rw [a.prc]) (by rw [a.prc])
    (by rw [a.kbs])

/-! ## The primitive updates -/

theorem onUnit_keeps (s : State) (l : LineId) {f : LineUnit → LineUnit}
    (h : on l → (f (s.unit l)).rx.mode = (s.unit l).rx.mode) : KeepsOn on s (s.onUnit l f) := by
  refine .of_parts fun k o => ⟨?_, rfl⟩
  by_cases e : k = l
  · subst e; rw [State.onUnit_unit_same]; exact h o
  · rw [State.onUnit_unit_ne s f e]

theorem onRx_keeps (s : State) (l : LineId) {f : Receiver → Receiver}
    (h : on l → (f (s.unit l).rx).mode = (s.unit l).rx.mode) : KeepsOn on s (s.onRx l f) := onUnit_keeps s l h

/-- What leaves l right for every state that only l's mode tells from `s` sets it right. -/
theorem LineFollows.of_keeps (h : ∀ t, KeepsOff l t s → Keeps t u) : LineFollows u l := by
  have off : KeepsOff l (s.onRx l fun r => { r with mode := (s.csv l).state.rxMode s.running }) s :=
    .of_parts fun k o => ⟨by rw [State.onRx_unit_ne _ _ o], rfl⟩
  exact (h _ off).modes l trivial (by rw [LineFollows, State.onRx_unit_same]; rfl)

theorem onTx_keeps (s : State) (l : LineId) (f : Transmitter → Transmitter) : KeepsOn on s (s.onTx l f) :=
  onUnit_keeps s l fun _ => rfl

theorem onStats_keeps (s : State) (l : LineId) (f : LineStats → LineStats) : KeepsOn on s (s.onStats l f) :=
  onUnit_keeps s l fun _ => rfl

theorem onCsv_keeps (s : State) (l : LineId) {f : Supervisor → Supervisor}
    (h : on l → (f (s.csv l)).state.rxMode s.running = (s.csv l).state.rxMode s.running) : KeepsOn on s (s.onCsv l f) := by
  refine .of_parts fun k o => ⟨rfl, ?_⟩
  by_cases e : k = l
  · subst e; rw [State.onCsv_csv_same]; exact h o
  · rw [State.onCsv_csv_ne s f e]

theorem onTimers_keeps (s : State) (l : LineId) (f : SupTimers → SupTimers) : KeepsOn on s (s.onTimers l f) :=
  onCsv_keeps s l fun _ => rfl

theorem onExch_keeps (s : State) (l : LineId) (f : Exchange → Exchange) : KeepsOn on s (s.onExch l f) :=
  onCsv_keeps s l fun _ => rfl

theorem onSelector_keeps (s : State) (l : LineId) (f : Selector → Selector) : KeepsOn on s (s.onSelector l f) := .of_rest
theorem setSelector_keeps (s : State) (l : LineId) (x : Selector) : KeepsOn on s (s.setSelector l x) := .of_rest
theorem onRecords_keeps (s : State) (f : Nat → Rec → Rec) : KeepsOn on s (s.onRecords f) := .of_rest
theorem latch_keeps (s : State) (e : Event) : KeepsOn on s (s.latch e) := .of_rest
theorem onMotor_keeps (s : State) (k : Mech) (f : Motor → Motor) : KeepsOn on s (s.onMotor k f) := .of_rest
theorem onCpe_keeps (s : State) (f : Console → Console) : KeepsOn on s (s.onCpe f) := .of_rest
theorem onPuc_keeps (s : State) (f : Punch → Punch) : KeepsOn on s (s.onPuc f) := .of_rest
theorem forgetShifts_keeps (s : State) (l : LineId) : KeepsOn on s (s.forgetShifts l) := .of_rest
theorem setTxShift_keeps (s : State) (l : LineId) (r : ShiftRecord) : KeepsOn on s (s.setTxShift l r) := .of_rest
theorem setRxShift_keeps (s : State) (l : LineId) (r : ShiftRecord) : KeepsOn on s (s.setRxShift l r) := .of_rest
theorem setTape_keeps (s : State) (r : ShiftRecord) : KeepsOn on s (s.setTape r) := .of_rest
theorem recompute_keeps (s : State) (l : LineId) : KeepsOn on s (s.recompute l) := .of_rest
theorem recomputeBoth_keeps (s : State) : KeepsOn on s s.recomputeBoth := .trans (recompute_keeps ..) (recompute_keeps ..)
theorem order_keeps (s : State) (l : LineId) (v : Level) : KeepsOn on s (s.order l v) := onTx_keeps ..

theorem abandonTx_keeps (s : State) (l : LineId) : KeepsOn on s (s.abandonTx l) := by
  unfold State.abandonTx
  split
  · exact .refl s
  · exact .trans (onTx_keeps s l fun t => { t with state := .idle, pin := t.ordered }) .of_rest

theorem onKbs_keeps (s : State) {f : Keyboard → Keyboard} (h : (f s.kbs).fifo = s.kbs.fifo) : KeepsOn on s (s.onKbs f) :=
  .of_rest (fifo := h)

theorem onPrc_keeps (s : State) {f : Printer → Printer} (heat : (f s.prc).heat = s.prc.heat)
    (count : (f s.prc).count = s.prc.count) (cfg : (f s.prc).cfg = s.prc.cfg) : KeepsOn on s (s.onPrc f) :=
  .of_rest (heat := heat) (count := count) (cfg := cfg)

/-- A wake request moves STANDBY to WAKING, which does not run either (R29). -/
theorem requestWake_keeps (s : State) (c : WakeCause) : KeepsOn on s (s.requestWake c) := by
  unfold State.requestWake
  split
  · next h =>
    have r : ({ s with tbu := { s.tbu with state := .waking, wakeCause := c, wakeTimer := some Config.wakeTicks } } :
        State).running = s.running := by simp [State.running, h, TbState.isRunning]
    exact ⟨r, rfl, fun h => ⟨h.heat, h.fifo, h.count, h.last⟩, fun l _ h => by rw [LineFollows, r]; exact h⟩
  · exact .refl s

/-! ## Settling -/

theorem Kept.keeps {on' : LineId → Bool} (a : Kept on' s t) (h : ∀ l, on l → t.csv l = s.csv l) : KeepsOn on s t :=
  .of_parts (fun l o => ⟨by rw [a.unit l], by rw [h l o]⟩) (by rw [a.tbu]) (by rw [a.tbu]) (by rw [a.ctr])
    (by rw [a.prc]) (by rw [a.prc]) (by rw [a.prc]) (by rw [a.kbs])

theorem settle_keeps (s : State) : KeepsOn on s (settle s) :=
  (settle_settled s).kept.keeps fun l _ => ((settle_settled s).kept.quiet l rfl).2.1

theorem placeSeq_keeps (s : State) (l : LineId) (q : TxSeq) : KeepsOn on s (placeSeq s l q) := onSelector_keeps ..

theorem placeWru_keeps (s : State) (l : LineId) : KeepsOn on s (placeWru s l) :=
  .trans (onCsv_keeps s l fun _ => rfl) (placeSeq_keeps ..)

theorem placeOffer_keeps (s : State) (l : LineId) : KeepsOn on s (placeOffer s l) :=
  .trans (onExch_keeps ..) (placeSeq_keeps ..)

theorem endSilentProgress_keeps (s : State) (l : LineId) : KeepsOn on s (endSilentProgress s l) :=
  .ite (fun _ => placeWru_keeps ..) fun _ => .refl s

theorem exchangeDone_keeps (s : State) (l : LineId) : KeepsOn on s (exchangeDone s l) := by
  unfold exchangeDone
  refine .trans (.trans (onCsv_keeps s l ?_) (latch_keeps ..)) (endSilentProgress_keeps ..)
  exact fun _ => rfl

theorem startPageTimer_keeps (s : State) (l : LineId) : KeepsOn on s (startPageTimer s l) :=
  .ite (fun _ => .refl s) fun _ => onExch_keeps ..

theorem seqDone_keeps (s : State) (l : LineId) (k : SeqKind) : KeepsOn on s (seqDone s l k) := by
  cases k <;> unfold seqDone
  case selection =>
    refine .ite (fun h => ?_) fun _ => .refl s
    unfold enterAwaitConnect State.enterSup
    refine .trans (onCsv_keeps s l fun _ => ?_) (onCsv_keeps _ l fun _ => rfl)
    simp only [h, SupState.rxMode]
  case wru => exact .ite (fun _ => onCsv_keeps s l fun _ => rfl) fun _ => .refl s
  case close => exact .ite (fun _ => exchangeDone_keeps ..) fun _ => .refl s
  all_goals exact .ite (fun _ => startPageTimer_keeps ..) fun _ => .refl s

theorem answerbackEnd_keeps (s : State) (l : LineId) : KeepsOn on s (answerbackEnd s l) := by
  have a : KeepsOn on s ((s.onSelector l fun x => { x with answerback := none }).onCsv l fun c => { c with abActive := false }) :=
    .trans (onSelector_keeps ..) (onCsv_keeps _ l fun _ => rfl)
  exact .ite (fun _ => a.trans (placeOffer_keeps ..)) fun _ => a

theorem chargeOne_keeps (s : State) (l : LineId) : KeepsOn on s (chargeOne s l) := onCsv_keeps s l fun _ => rfl

theorem advanceSend_keeps (s : State) (l : LineId) (g : SendGrant) : KeepsOn on s (advanceSend s l g) := by
  unfold advanceSend
  split
  · exact .refl s
  · have a : KeepsOn on s (advanceCursor s (sendOf l) g.index) := (advanceCursor_step ..).keeps
    exact .ite (fun _ => a.trans (chargeOne_keeps ..)) fun _ => a

theorem consumeItem_keeps (s : State) (l : LineId) (f : Flight) : KeepsOn on s (consumeItem s l f) := by
  cases f <;> unfold consumeItem
  case recordText =>
    dsimp only
    split
    · exact advanceSend_keeps ..
    · exact .refl s
  all_goals exact onSelector_keeps ..

theorem countUntranslatable_keeps (s : State) (l : LineId) : KeepsOn on s (countUntranslatable s l) := onStats_keeps ..

theorem stopSend_keeps (s : State) (l : LineId) (g : SendGrant) : KeepsOn on s (stopSend s l g) :=
  .trans (onSelector_keeps ..) (endGrant_step ..).keeps

/-- What one step of the selector can be with nothing on the transmitter (section 5.6): the end of the front sequence, of the
answerback, of the cut-off sequence or of the grant, the passage to the closing parts, or the skip of a character that does
not translate. -/
inductive IdleStep (s : State) (l : LineId) : State → Prop where
  | seqEnd (k : SeqKind) (qs : List TxSeq) (front : (s.selector l).seqs = ⟨k, []⟩ :: qs) :
      IdleStep s l (seqDone (s.setSelector l { s.selector l with seqs := qs }) l k)
  | answerEnd (forced : Bool) (ended : (s.selector l).answerback = some ⟨[], forced⟩) : IdleStep s l (answerbackEnd s l)
  | cutoffEnd (ended : (s.selector l).cutoff = some []) :
      IdleStep s l (s.setSelector l { s.selector l with cutoff := none })
  | delivered (g : SendGrant) (grant : (s.selector l).grant = some g) (lead : g.lead = []) (tail : g.tail = some []) :
      IdleStep s l (completeDelivery (s.setSelector l { s.selector l with grant := none }) (sendOf l) g.index)
  | openEnd (g : SendGrant) (r : Rec) (grant : (s.selector l).grant = some g) (lead : g.lead = []) (tail : g.tail = none)
      (record : s.record g.index = some r) (ended : r.length ≤ r.cursor.get (sendOf l)) :
      IdleStep s l (endGrant (s.setSelector l { s.selector l with grant := none }) (sendOf l) g.index)
  | textEnd (g : SendGrant) (r : Rec) (grant : (s.selector l).grant = some g) (lead : g.lead = []) (tail : g.tail = none)
      (record : s.record g.index = some r) (ended : r.length ≤ r.cursor.get (sendOf l)) :
      IdleStep s l (s.onSend l fun g => { g with tail := some (closing s l) })
  | skip (i : TxItem) (f : Flight) (next : nextItem s l = some (i, f)) (untranslatable : translateItem s.ctr.table i = none) :
      IdleStep s l (consumeItem (countUntranslatable s l) l f)

/-- One step of the selector stops the grant, whatever is on the transmitter but the record's own, or is one of an idle
transmitter. -/
theorem sendStep_is (k : sendStep s l = some t) :
    (∃ g, (s.selector l).grant = some g ∧ stopAsked s (sendOf l) g.index = true ∧
      recordUnderWay (s.selector l) = false ∧ t = stopSend s l g) ∨
    ((s.selector l).flight = none ∧ (s.selector l).companion = none ∧ IdleStep s l t) := by
  unfold sendStep at k
  simp only at k
  split at k
  · next u e =>
    cases k
    split at e
    · next g hg =>
      split at e
      · next c =>
        cases e
        simp only [Bool.and_eq_true, Bool.not_eq_true'] at c
        exact .inl ⟨g, hg, c.1, c.2, rfl⟩
      · cases e
    · cases e
  · split at k
    · cases k
    · next idle =>
      simp only [Bool.or_eq_true, not_or, Bool.not_eq_true, Option.isSome_eq_false_iff, Option.isNone_iff_eq_none] at idle
      refine .inr ⟨idle.1, idle.2, ?_⟩
      simp only [Option.orElse_eq_orElse, Option.orElse_eq_or, Option.or_eq_some_iff] at k
      rcases k with k | ⟨-, k | ⟨-, k | ⟨-, k | ⟨-, k⟩⟩⟩⟩
      · split at k
        · next h => cases k; exact .seqEnd _ _ h
        · cases k
        · cases k
      · split at k
        · next h => cases k; exact .answerEnd _ h
        · cases k
        · cases k
      · split at k
        · next h => cases k; exact .cutoffEnd h
        · cases k
      · split at k
        · cases k
        · next g hg =>
          split at k
          · next lead tail => cases k; exact .delivered g hg lead tail
          · next lead tail =>
            split at k
            · cases k
            · next r hr =>
              split at k
              · cases k
              · next c =>
                split at k
                · cases k; exact .openEnd g r hg lead tail hr (Nat.not_lt.mp c)
                · cases k; exact .textEnd g r hg lead tail hr (Nat.not_lt.mp c)
          · cases k
          · cases k
      · split at k
        · split at k
          · cases k
          · next i f h =>
            split at k
            · next u => cases k; exact .skip i f h (Option.isNone_iff_eq_none.mp u)
            · cases k
        · cases k

theorem IdleStep.keeps (k : IdleStep s l t) : KeepsOn on s t := by
  cases k with
  | seqEnd => exact .trans (setSelector_keeps ..) (seqDone_keeps ..)
  | answerEnd => exact answerbackEnd_keeps ..
  | cutoffEnd => exact setSelector_keeps ..
  | delivered => exact .trans (setSelector_keeps ..) (completeDelivery_step ..).keeps
  | openEnd => exact .trans (setSelector_keeps ..) (endGrant_step ..).keeps
  | textEnd => exact onSelector_keeps ..
  | skip => exact .trans (countUntranslatable_keeps ..) (consumeItem_keeps ..)

theorem sendStep_keeps (k : sendStep s l = some t) : KeepsOn on s t := by
  rcases sendStep_is k with ⟨g, -, -, -, rfl⟩ | ⟨-, -, idle⟩
  · exact stopSend_keeps ..
  · exact idle.keeps

theorem sendSweep_keeps (n : Nat) (s : State) (l : LineId) : KeepsOn on s (sendSweep n s l) := by
  induction n generalizing s with
  | zero => exact .refl s
  | succ n ih =>
    unfold sendSweep
    split
    · exact .refl s
    · next k => exact (sendStep_keeps k).trans (ih _)

theorem settleLine_keeps (s : State) (l : LineId) : KeepsOn on s (settleLine s l) :=
  .trans (sendSweep_keeps ..) (settle_keeps _)

theorem settleAll_keeps (s : State) : KeepsOn on s (settleAll s) :=
  .trans (.trans (sendSweep_keeps ..) (sendSweep_keeps ..)) (settle_keeps _)

end Sys2Proof.Machine
end


section
/-! SUPPORT. Every entry into a supervisor state leaves the line's receiver in that state's mode (R39). -/

namespace Sys2Proof.Machine

open Sys2Proof

variable {on : LineId → Prop} {s t u : State} {l : LineId}

/-! ## Modes of the receiver -/

theorem enterSup_state (s : State) (l : LineId) (st : SupState) : ((s.enterSup l st).csv l).state = st := by
  simp [State.enterSup]

theorem enterSup_off (s : State) (l : LineId) (st : SupState) : KeepsOff l s (s.enterSup l st) :=
  onCsv_keeps s l fun h => absurd rfl h

theorem enterSup_keeps (s : State) (l : LineId) (st : SupState)
    (h : st.rxMode s.running = (s.csv l).state.rxMode s.running) : KeepsOn on s (s.enterSup l st) :=
  onCsv_keeps s l fun _ => h

theorem onRx_off (s : State) (l : LineId) (f : Receiver → Receiver) : KeepsOff l s (s.onRx l f) :=
  onRx_keeps s l fun h => absurd rfl h

theorem onRx_follows {f : Receiver → Receiver} (h : (f (s.unit l).rx).mode = (s.csv l).state.rxMode s.running) :
    LineFollows (s.onRx l f) l := by
  rw [LineFollows, State.onRx_unit_same]; exact h

theorem Receiver.frame_mode (r : Receiver) : r.frame.mode = .framing := by
  unfold Receiver.frame
  split
  · assumption
  · rfl

theorem enterCondition_off (s : State) (l : LineId) : KeepsOff l s (enterCondition s l) := onRx_off ..

theorem enterCondition_follows (h : (s.csv l).state.rxMode s.running = .condition) :
    LineFollows (enterCondition s l) l := by
  refine onRx_follows ?_
  rw [h]
  by_cases m : (s.unit l).rx.mode = .condition
  · rw [if_pos m]; exact m
  · rw [if_neg m]

/-- A line set right stays so. -/
theorem KeepsOn.follows (a : Keeps s t) (h : LineFollows s l) : LineFollows t l := a.modes l trivial h

/-! ## The end of a connection (R93, R99, R131) -/

theorem dropPlaced_keeps (s : State) (l : LineId) : KeepsOn on s (dropPlaced s l) := onSelector_keeps ..
theorem abandonExchange_keeps (s : State) (l : LineId) : KeepsOn on s (abandonExchange s l) := onExch_keeps ..
theorem dropCharges_keeps (s : State) (l : LineId) : KeepsOn on s (dropCharges s l) := onRecords_keeps ..

theorem endSendOnConnection_keeps (s : State) (l : LineId) : KeepsOn on s (endSendOnConnection s l) := by
  unfold endSendOnConnection
  dsimp only
  split
  · exact .trans (.trans (onRecords_keeps ..) (onSelector_keeps ..)) (endGrant_step ..).keeps
  · exact .trans (onRecords_keeps ..) (onSelector_keeps ..)

theorem connectionEnd_keeps (s : State) (l : LineId) : KeepsOn on s (connectionEnd s l) := by
  unfold connectionEnd
  refine .trans ?_ (onCsv_keeps _ l fun _ => rfl)
  refine .trans (.trans ?_ (dropPlaced_keeps ..)) (abandonExchange_keeps ..)
  exact .trans ((framerEnd_step s l).trans (setReservation_step ..)).keeps (endSendOnConnection_keeps ..)

/-! ## Entries -/

/-- An entry sets its own line right, whatever mode the receiver was in. -/
theorem enterGuard_follows (off : KeepsOff l t s) : Keeps t (enterGuard s l) := by
  unfold enterGuard
  refine .trans (.trans ?_ (order_keeps ..)) (latch_keeps ..)
  refine .complete (off.trans (.trans (.trans (enterSup_off s l _) (onTimers_keeps ..)) (enterCondition_off ..))) ?_
  exact enterCondition_follows (by rw [State.onTimers_csv_same, enterSup_state]; rfl)

theorem enterGuard_keeps (s : State) (l : LineId) : Keeps s (enterGuard s l) := enterGuard_follows (.refl s)

theorem clearConfirmed_keeps (s : State) (l : LineId) : Keeps s (clearConfirmed s l) :=
  .trans (connectionEnd_keeps ..) (enterGuard_keeps ..)

theorem enterIncoming_keeps (h : (s.csv l).state.rxMode s.running = .condition) : KeepsOn on s (enterIncoming s l) := by
  unfold enterIncoming
  exact .trans (.trans (enterSup_keeps s l .incoming h.symm) (onTimers_keeps ..)) (requestWake_keeps ..)

theorem enterFree_keeps (s : State) (l : LineId) : Keeps s (enterFree s l) := by
  have a : Keeps s ((enterCondition (s.enterSup l .free) l).order l .space) := by
    refine .trans (.complete (.trans (enterSup_off s l .free) (enterCondition_off ..)) ?_) (order_keeps ..)
    exact enterCondition_follows (by rw [enterSup_state]; rfl)
  refine .ite (fun _ => a.trans (enterIncoming_keeps ?_)) fun _ => a
  show SupState.rxMode _ ((s.enterSup l .free).csv l).state = _
  rw [enterSup_state]; rfl

theorem enterClearing_keeps (s : State) (l : LineId) (why : ClearReason) : Keeps s (enterClearing s l why) := by
  unfold enterClearing
  dsimp only
  refine (KeepsOn.trans (t := State.onRx (State.order _ l .space) l Receiver.frame) (.complete (l := l) ?_ ?_)
    (.ite (fun _ => clearConfirmed_keeps ..) fun _ => .refl _))
  · refine .trans (.trans ?_ (order_keeps ..)) (onRx_off ..)
    refine .trans (.trans ?_ (dropPlaced_keeps ..)) (abandonExchange_keeps ..)
    exact .trans (enterSup_off s l .clearing) (onCsv_keeps _ l fun _ => rfl)
  · refine onRx_follows ?_
    rw [Receiver.frame_mode]
    simp only [State.csv, State.order_sup, abandonExchange, dropPlaced]
    cases l <;> rfl

theorem connectionStart_keeps (s : State) (l : LineId) (dir : Direction) (digits : List Chr) (expected : Option (List Chr))
    (n : Nat) : KeepsOn on s (connectionStart s l dir digits expected n) := by
  unfold connectionStart
  refine .trans (.trans (.trans ?_ (onSelector_keeps ..)) (forgetShifts_keeps ..)) (dropCharges_keeps ..)
  exact onCsv_keeps s l fun _ => rfl

theorem confirmCall_keeps (s : State) (l : LineId) : KeepsOn on s (confirmCall s l) :=
  .ite (fun _ => .trans (order_keeps ..) (onTimers_keeps ..)) fun _ => .refl s

theorem prestart_keeps (s : State) (l : LineId) : KeepsOn on s (prestart s l) := by
  have one (k : Mech) (c : Bool) (t : State) (f : SupTimers → SupTimers) :
      KeepsOn on t (if c then (t.onTimers l f).onMotor k fun m => m.setPrestart l true else t) :=
    .ite (fun _ => .trans (onTimers_keeps ..) (onMotor_keeps ..)) fun _ => .refl t
  exact .trans (one .print _ s _) (one .punch _ _ _)

theorem enterAnswering_keeps (h : (s.csv l).state.rxMode s.running = .condition) : KeepsOn on s (enterAnswering s l) := by
  unfold enterAnswering
  refine .trans (.trans ?_ (prestart_keeps ..)) (confirmCall_keeps ..)
  exact .trans (enterSup_keeps s l .answering h.symm) (connectionStart_keeps ..)

theorem enterRefusing_keeps (h : (s.csv l).state.rxMode s.running = .condition) (why : RefusalCause) :
    KeepsOn on s (enterRefusing s l why) :=
  .trans (.trans (enterSup_keeps s l .refusing h.symm) (onCsv_keeps _ l fun _ => rfl)) (latch_keeps ..)

theorem restartIdle_keeps (s : State) (l : LineId) : KeepsOn on s (restartIdle s l) :=
  .ite (fun _ => onTimers_keeps ..) fun _ => .refl s

theorem startOfferWait_keeps (s : State) (l : LineId) : KeepsOn on s (startOfferWait s l) := onExch_keeps ..

theorem setReservation_keeps (s : State) (l : LineId) (n : Nat) : KeepsOn on s (setReservation s l n) :=
  (setReservation_step ..).keeps

/-- A PRIVATE line's receiver frames, or watches where the part does not run (R39, R49). -/
theorem enterRunning_follows (off : KeepsOff l t s) : Keeps t (enterRunning s l) := by
  unfold enterRunning
  dsimp only
  refine (KeepsOn.trans (t := State.onRx _ l _) (.complete (l := l) ?_ ?_)
    (.ite (fun _ => onTimers_keeps ..) fun _ => .refl _))
  · refine off.trans (.trans (.trans ?_ (order_keeps ..)) (onRx_off ..))
    refine .trans (.trans (.trans ?_ (forgetShifts_keeps ..)) (onSelector_keeps ..)) (dropCharges_keeps ..)
    exact .trans (.trans (enterSup_off s l .running) (onCsv_keeps _ l fun _ => rfl)) (setReservation_keeps ..)
  · refine onRx_follows ?_
    have c : ∀ v : State, (v.csv l).state = .running → ((setReservation v l 0).csv l).state = .running := fun v h => by
      rw [(setReservation_step v l 0).csv, h]
    have k := c ((s.enterSup l .running).onCsv l fun c =>
      { c with callCount := nextCall c.callCount, direction := .none, remaining := .unlimited, ending := false
               abActive := false }) (by rw [State.onCsv_csv_same]; exact enterSup_state ..)
    refine Eq.trans ?_ (congrArg (SupState.rxMode _) k.symm)
    rw [SupState.rxMode]
    split
    · exact Receiver.frame_mode _
    · rfl

theorem enterRunning_keeps (s : State) (l : LineId) : Keeps s (enterRunning s l) := enterRunning_follows (.refl s)

theorem enterFault_keeps (s : State) (l : LineId) : Keeps s (enterFault s l) := by
  unfold enterFault
  dsimp only
  refine .trans (.trans (t := enterCondition _ l) (.complete (l := l) ?_ ?_)
    (.ite (fun _ => onTimers_keeps ..) fun _ => .refl _)) (latch_keeps ..)
  · refine .trans (.trans ?_ (order_keeps ..)) (enterCondition_off ..)
    exact .trans (connectionEnd_keeps ..) (enterSup_off ..)
  · refine enterCondition_follows ?_
    show SupState.rxMode _ (((connectionEnd s l).enterSup l .fault).csv l).state = _
    rw [enterSup_state]; rfl

theorem enterDisabled_keeps (s : State) (l : LineId) : Keeps s (enterDisabled s l) := by
  unfold enterDisabled
  refine .complete (.trans (.trans ?_ (onRx_off ..)) (enterSup_off ..)) ?_
  · exact .trans (.trans (abandonTx_keeps ..) (forgetShifts_keeps ..)) (onSelector_keeps ..)
  · rw [LineFollows, enterSup_state]
    cases l <;> rfl

/-! ## Reported conditions (R40, R42, R101 to R117) -/

theorem startClear_keeps (s : State) (l : LineId) : KeepsOn on s (startClear s l) := onTimers_keeps ..
theorem stopClear_keeps (s : State) (l : LineId) : KeepsOn on s (stopClear s l) := onTimers_keeps ..
theorem callConfirmed_keeps (s : State) (l : LineId) : KeepsOn on s (callConfirmed s l) := onCsv_keeps s l fun _ => rfl

theorem reportSpace_keeps (s : State) (l : LineId) : Keeps s (reportSpace s l) := by
  unfold reportSpace
  split
  case h_1 h => exact enterSup_keeps s l _ (by rw [h]; rfl)
  case h_7 => exact .ite (fun _ => startClear_keeps ..) fun _ => .refl s
  case h_8 => exact clearConfirmed_keeps ..
  case h_9 | h_10 => exact onTimers_keeps ..
  case h_11 | h_12 | h_13 => exact .refl s
  all_goals exact startClear_keeps ..

theorem reportMark_keeps (s : State) (l : LineId) : Keeps s (reportMark s l) := by
  unfold reportMark
  split
  case h_1 h => exact enterIncoming_keeps (by rw [h]; rfl)
  case h_7 => exact .ite (fun _ => callConfirmed_keeps ..) fun _ => stopClear_keeps ..
  case h_8 | h_9 => exact onTimers_keeps ..
  case h_10 | h_11 | h_12 | h_13 => exact .refl s
  all_goals exact stopClear_keeps ..

theorem report_keeps (s : State) (l : LineId) (v : Level) : Keeps s (report s l v) := by
  cases v
  · exact reportSpace_keeps ..
  · exact reportMark_keeps ..

/-- Entry to FRAMING sets a line right whose supervisor's state asks for it. -/
theorem enterFraming_follows (off : KeepsOff l t s) (h : (s.csv l).state.rxMode s.running = .framing) :
    Keeps t (enterFraming s l) := by
  unfold enterFraming
  split
  · next m => exact off.complete (m.trans h.symm)
  · have a : Keeps t (s.onRx l Receiver.frame) :=
      .complete (off.trans (onRx_off ..)) (onRx_follows (by rw [Receiver.frame_mode, h]))
    exact .ite (fun _ => a.trans (reportSpace_keeps ..)) fun _ => a

theorem enterConnected_answering (s : State) (l : LineId) : Keeps s (enterConnected s l true) := by
  unfold enterConnected
  simp only [if_true]
  refine enterFraming_follows (.trans (.trans (.trans (.trans (enterSup_off s l .connected) (restartIdle_keeps ..))
    (onExch_keeps ..)) (startOfferWait_keeps ..)) (latch_keeps ..)) ?_
  have r : ((restartIdle (s.enterSup l .connected) l).csv l).state = .connected := by
    simp only [restartIdle, enterSup_state, if_true, State.onTimers_csv_same]
  have e (t : State) (f : Exchange → Exchange) : ((t.onExch l f).csv l).state = (t.csv l).state := by
    rw [State.onExch_csv_same]
  show SupState.rxMode _ ((startOfferWait _ l).csv l).state = _
  rw [startOfferWait, e, e, r]
  rfl

/-- CONNECTED keeps the FRAMING of AWAIT_CONNECT. -/
theorem enterConnected_calling (h : (s.csv l).state.rxMode s.running = .framing) : Keeps s (enterConnected s l false) := by
  unfold enterConnected
  simp only [Bool.false_eq_true, if_false]
  refine .trans (.trans ?_ (.ite (fun _ => startOfferWait_keeps ..) fun _ => .refl _)) (latch_keeps ..)
  exact .trans (.trans (enterSup_keeps s l .connected h.symm) (restartIdle_keeps ..)) (onTimers_keeps ..)

/-! ## Received combinations (R7 to R11, R104, R108, R112 to R115, R122 to R130) -/

theorem enterSelecting_keeps (h : (s.csv l).state.rxMode s.running = .framing) : KeepsOn on s (enterSelecting s l) :=
  .trans (.trans (enterSup_keeps s l .selecting h.symm) (onTimers_keeps ..)) (placeSeq_keeps ..)

theorem clearOnFull_keeps (s : State) (l : LineId) : Keeps s (clearOnFull s l) :=
  .ite (fun _ => enterClearing_keeps ..) fun _ => .refl s

theorem framerTake_keeps (s : State) (l : LineId) (x : RxChar) : Keeps s (framerTake s l x) := by
  unfold framerTake
  refine .trans ?_ (restartGap_step ..).keeps
  have a : Keeps s (framerRun framerFuel s l [x]).1 := (framerRun_step ..).keeps
  exact .ite (fun _ => a.trans (clearOnFull_keeps ..)) fun _ => a

theorem wruRequest_keeps (s : State) (l : LineId) : KeepsOn on s (wruRequest s l) := by
  unfold wruRequest
  dsimp only
  refine .ite (fun _ => ?_) fun _ => .refl s
  have a : KeepsOn on s (if offerWaiting s l = true then s.onExch l fun e => { e with offerTimer := none } else s) :=
    .ite (fun _ => onExch_keeps ..) fun _ => .refl s
  refine a.trans ?_
  generalize (if offerWaiting s l = true then s.onExch l fun e => { e with offerTimer := none } else s) = v
  refine .ite (fun _ => .refl v) fun _ => ?_
  split
  · exact .trans (onCsv_keeps v l fun _ => rfl) (onSelector_keeps ..)
  · exact .ite (fun _ => placeOffer_keeps ..) fun _ => .refl v

/-- The capture with its answerback recorded, and WRONG_STATION latched at a mismatch (R115). -/
def captureTaken (s : State) (l : LineId) : State :=
  let t := s.onCsv l fun c =>
    { c with remote := if c.captured = [] then none else some (c.captured.map (·.chr))
             phase := .none, captured := [], timers := { c.timers with capture := none } }
  if captureMatches (s.csv l) then t else t.latch .wrongStation

theorem captureEnd_matched (h : (s.csv l).state = .awaitConnect) (k : captureMatches (s.csv l) = true) :
    captureEnd s l = enterConnected (captureTaken s l) l false := by simp [captureEnd, captureTaken, h, k]

theorem captureEnd_mismatched (h : (s.csv l).state = .awaitConnect) (k : captureMatches (s.csv l) = false) :
    captureEnd s l = enterClearing (captureTaken s l) l .wrongStation := by simp [captureEnd, captureTaken, h, k]

theorem captureEnd_connected (h : (s.csv l).state = .connected) :
    captureEnd s l = enterClearing (captureTaken s l) l .done := by simp [captureEnd, captureTaken, h]

theorem captureEnd_other (h : (s.csv l).state ≠ .awaitConnect) (k : (s.csv l).state ≠ .connected) :
    captureEnd s l = captureTaken s l := by
  cases e : (s.csv l).state <;> first | exact absurd e h | exact absurd e k | simp only [captureEnd, captureTaken, e]

theorem captureTaken_keeps (s : State) (l : LineId) : KeepsOn on s (captureTaken s l) := by
  have a : KeepsOn on s (s.onCsv l fun c =>
    { c with remote := if c.captured = [] then none else some (c.captured.map (·.chr))
             phase := .none, captured := [], timers := { c.timers with capture := none } }) := onCsv_keeps s l fun _ => rfl
  exact .ite (fun _ => a) fun _ => a.trans (latch_keeps ..)

theorem captureTaken_state (s : State) (l : LineId) : ((captureTaken s l).csv l).state = (s.csv l).state := by
  unfold captureTaken
  split <;> cases l <;> rfl

theorem captureEnd_keeps (s : State) (l : LineId) : Keeps s (captureEnd s l) := by
  have a : Keeps s (captureTaken s l) := captureTaken_keeps ..
  by_cases h : (s.csv l).state = .awaitConnect
  · cases k : captureMatches (s.csv l)
    · rw [captureEnd_mismatched h k]; exact a.trans (enterClearing_keeps ..)
    · rw [captureEnd_matched h k]
      exact a.trans (enterConnected_calling (by rw [captureTaken_state, h]; rfl))
  · by_cases k : (s.csv l).state = .connected
    · rw [captureEnd_connected k]; exact a.trans (enterClearing_keeps ..)
    · rw [captureEnd_other h k]; exact a

theorem captureChar_keeps (s : State) (l : LineId) (x : RxChar) : Keeps s (captureChar s l x) := by
  unfold captureChar
  have a : Keeps s (s.onCsv l fun c =>
    { c with captured := c.captured ++ [x], timers := { c.timers with capture := some Config.captureQuietMs } }) :=
    onCsv_keeps s l fun _ => rfl
  refine .ite (fun _ => (a.trans (captureEnd_keeps ..)).trans (onCsv_keeps _ l fun _ => rfl)) fun _ => a

theorem progressChar_keeps (s : State) (l : LineId) (x : RxChar) : KeepsOn on s (progressChar s l x) :=
  onCsv_keeps s l fun _ => rfl

theorem deliver_keeps (s : State) (l : LineId) (x : RxChar) : Keeps s (deliver s l x) := by
  unfold deliver
  dsimp only
  split
  · exact .ite (fun _ => captureChar_keeps ..) fun _ => framerTake_keeps ..
  · exact .ite (fun _ => .refl s) fun _ => framerTake_keeps ..
  · exact framerTake_keeps ..
  · split
    · exact progressChar_keeps ..
    · exact captureChar_keeps ..
    all_goals exact .refl s
  all_goals exact .refl s

theorem placePage_keeps (s : State) (l : LineId) (k : SeqKind) (p : List Comb) (sub : ExchSub) :
    KeepsOn on s (placePage s l k p sub) := .trans (onExch_keeps ..) (placeSeq_keeps ..)

theorem placePage0_keeps (s : State) (l : LineId) (ack : Bool) (sub : ExchSub) : KeepsOn on s (placePage0 s l ack sub) :=
  .trans (onExch_keeps ..) (placePage_keeps ..)

theorem placePage1_keeps (s : State) (l : LineId) (sub : ExchSub) : KeepsOn on s (placePage1 s l sub) :=
  .trans (.trans (onExch_keeps ..) (setReservation_keeps ..)) (placePage_keeps ..)

theorem blankIndication_keeps (s : State) (l : LineId) : KeepsOn on s (blankIndication s l) :=
  .ite (fun _ => .ite (fun _ => onExch_keeps ..) fun _ => .trans (onExch_keeps ..) (placePage0_keeps ..)) fun _ => .refl s

theorem endBlankRun_keeps (s : State) (l : LineId) : KeepsOn on s (endBlankRun s l) := onExch_keeps ..
theorem countUndefined_keeps (s : State) (l : LineId) : KeepsOn on s (countUndefined s l) := onStats_keeps ..

theorem proceedIndication_keeps (s : State) (l : LineId) : KeepsOn on s (proceedIndication s l) :=
  .ite (fun h => enterSelecting_keeps (by rw [h.1]; rfl)) fun _ => .refl s

theorem translateReceived_keeps (s : State) (l : LineId) (c : Comb) (errored : Bool) :
    Keeps s (translateReceived s l c errored) := by
  have b : Keeps s (endBlankRun s l) := endBlankRun_keeps ..
  unfold translateReceived
  refine .ite (fun _ => b.trans (deliver_keeps ..)) fun _ => ?_
  dsimp only
  split
  · exact b.trans (setRxShift_keeps ..)
  · exact b.trans (setRxShift_keeps ..)
  · exact .ite (fun _ => (b.trans (deliver_keeps ..)).trans (setRxShift_keeps ..)) fun _ => b.trans (deliver_keeps ..)
  · exact b.trans (deliver_keeps ..)
  · exact b.trans (wruRequest_keeps ..)
  · exact .ite (fun _ => blankIndication_keeps ..) fun _ => b.trans (countUndefined_keeps ..)
  · exact .ite (fun _ => b.trans (proceedIndication_keeps ..)) fun _ => b.trans (countUndefined_keeps ..)
  · exact .ite (fun _ => b) fun _ => b.trans (countUndefined_keeps ..)

theorem handedBack_keeps (s : State) (l : LineId) (cs : List (Comb × Bool)) : Keeps s (handedBack s l cs) := by
  induction cs generalizing s with
  | nil => exact .refl s
  | cons c cs ih => exact (translateReceived_keeps s l c.1 c.2).trans (ih _)

theorem exchangePlain_keeps (s : State) (l : LineId) (why : PlainCause) (last : Option (Comb × Bool)) :
    Keeps s (exchangePlain s l why last) := by
  unfold exchangePlain
  refine .trans ?_ (handedBack_keeps ..)
  refine .trans (.trans ?_ (latch_keeps ..)) (endSilentProgress_keeps ..)
  exact .trans (onExch_keeps ..) (setReservation_keeps ..)

theorem actOnPage_keeps (s : State) (l : LineId) (p : List Comb) : KeepsOn on s (actOnPage s l p) := by
  unfold actOnPage
  split
  · exact .trans (onExch_keeps ..) (placePage0_keeps ..)
  · exact .trans (onExch_keeps ..) (placePage1_keeps ..)
  · exact .trans (onExch_keeps ..) (.ite (fun _ => placePage1_keeps ..) fun _ => placePage_keeps ..)
  · exact exchangeDone_keeps ..
  all_goals exact .refl s

theorem checkPage_keeps (s : State) (l : LineId) (p : List Comb) : Keeps s (checkPage s l p) := by
  unfold checkPage
  dsimp only
  refine .ite (fun _ => .trans (onExch_keeps ..) (exchangePlain_keeps ..)) fun _ => ?_
  refine .ite (fun _ => .trans (onExch_keeps ..) (exchangePlain_keeps ..)) fun _ => ?_
  exact .ite (fun _ => .trans (onExch_keeps ..) (actOnPage_keeps ..)) fun _ =>
    .trans (onExch_keeps ..) (startPageTimer_keeps ..)

theorem engineTake_keeps (s : State) (l : LineId) (c : Comb) (errored : Bool) : Keeps s (engineTake s l c errored) := by
  unfold engineTake
  dsimp only
  refine .ite (fun _ => exchangePlain_keeps ..) fun _ => .ite (fun _ => exchangePlain_keeps ..) fun _ => ?_
  exact .ite (fun _ => .trans (onExch_keeps ..) (startPageTimer_keeps ..)) fun _ => checkPage_keeps ..

theorem endTogether_keeps (s : State) (l : LineId) : KeepsOn on s (endTogether s l) := onExch_keeps ..

theorem receiveComb_keeps (s : State) (l : LineId) (c : Comb) (errored : Bool) : Keeps s (receiveComb s l c errored) := by
  unfold receiveComb
  refine .trans (endTogether_keeps s l) (.ite (fun _ => ?_) fun _ => translateReceived_keeps ..)
  exact .ite (fun _ => wruRequest_keeps ..) fun _ => engineTake_keeps ..

end Sys2Proof.Machine
end


section
/-! SUPPORT. The code table: what one entry's change does, and what a SET_CODE_TABLE payload can hold (R1, R2). -/

namespace Sys2Proof.Machine

open Sys2Proof

theorem place_inj {k j : Nat} (hk : k < 32) (hj : j < 32) (sh sj : Shift) :
    j + 32 * sj.code = k + 32 * sh.code ↔ j = k ∧ sj = sh := by
  cases sj <;> cases sh <;> simp [Shift.code] <;> omega

theorem place_lt {j : Nat} (hj : j < 32) (sj : Shift) : j + 32 * sj.code < 64 := by
  cases sj <;> simp only [Shift.code] <;> omega

theorem tableEntry_set {t : List CodeEntry} (h : t.length = 64) {k j : Nat} {sh sj : Shift} (hk : k < 32) (hj : j < 32)
    (e : CodeEntry) :
    tableEntry (t.set (j + 32 * sj.code) e) k sh = if j = k ∧ sj = sh then e else tableEntry t k sh := by
  rw [tableEntry, List.getElem?_set]
  by_cases c : j = k ∧ sj = sh
  · obtain ⟨rfl, rfl⟩ := c
    have := place_lt hj sj
    simp [h, this]
  · rw [if_neg (fun x => c ((place_inj hk hj sh sj).mp x)), if_neg c]; rfl

/-- A character byte that R1 gives an entry of this kind. -/
def charByteOk (k : CodeKind) (chr : Byte) : Prop :=
  if k = .char then 1 ≤ chr.toNat ∧ chr.toNat ≤ 127 ∧ chr ≠ 5 ∧ chr ≠ 7 else chr = 0

theorem readCodeEntry_iff (comb shift kind chr : Byte) (x : CodeLoad) :
    readCodeEntry comb shift kind chr = some x ↔ ∃ k, readCodeKind kind = some k ∧ comb.toNat ≤ 31 ∧ shift.toNat ≤ 1 ∧
      fixedComb comb.toNat = false ∧ charByteOk k chr ∧ x = (comb.toNat + 32 * shift.toNat, ⟨k, chr.setWidth 7⟩) := by
  unfold readCodeEntry
  cases hk : readCodeKind kind with
  | none => simp
  | some q =>
    have ok : (if q = .char then decide (1 ≤ chr.toNat ∧ chr.toNat ≤ 127 ∧ chr ≠ 5 ∧ chr ≠ 7) else decide (chr = 0)) = true ↔
        charByteOk q chr := by
      unfold charByteOk
      by_cases c : q = .char <;> simp only [c, if_true, if_false, decide_eq_true_eq]
    simp only [Option.bind_eq_bind, Option.bind_some, ok, Option.ite_none_right_eq_some, Option.some.injEq,
      exists_eq_left', and_assoc, eq_comm (a := x)]

/-- A character byte that its kind allows makes a legal entry, for the kinds that can be loaded. -/
theorem legal_iff_charByteOk {k : CodeKind} {chr : Byte} (h : k ≠ .ltrs ∧ k ≠ .figs) (c : chr.toNat ≤ 127) :
    (CodeEntry.legal ⟨k, chr.setWidth 7⟩) = true ↔ charByteOk k chr := by
  have zero : (chr.setWidth 7 = (0 : BitVec 7)) ↔ chr = 0 := by constructor <;> intro h <;> bv_omega
  have five : (chr.setWidth 7 = (5 : BitVec 7)) ↔ chr = 5 := by constructor <;> intro h <;> bv_omega
  have seven : (chr.setWidth 7 = (7 : BitVec 7)) ↔ chr = 7 := by constructor <;> intro h <;> bv_omega
  have pos : 1 ≤ chr.toNat ↔ chr ≠ 0 := by constructor <;> intro h <;> bv_omega
  cases k <;> simp_all [CodeEntry.legal, charByteOk, and_assoc]

theorem readCodeKind_loads {b : Byte} {k : CodeKind} (h : readCodeKind b = some k) : k ≠ .ltrs ∧ k ≠ .figs := by
  unfold readCodeKind at h
  repeat' split at h
  all_goals first | (cases h; decide) | cases h

theorem charByteOk_le {k : CodeKind} {chr : Byte} (h : charByteOk k chr) : chr.toNat ≤ 127 := by
  unfold charByteOk at h
  split at h
  · exact h.2.1
  · simp [h]

/-- A loaded entry names a place that can be loaded and is legal there (R1, R2). -/
def CodeLoad.fits (x : CodeLoad) : Prop :=
  ∃ (k : Nat) (sh : Shift), x.1 = k + 32 * sh.code ∧ k < 32 ∧ fixedComb k = false ∧ x.2.legal = true

theorem readCodeEntry_fits {comb shift kind chr : Byte} {x : CodeLoad} (h : readCodeEntry comb shift kind chr = some x) :
    CodeLoad.fits x := by
  obtain ⟨k, hk, hc, hs, hf, ok, rfl⟩ := (readCodeEntry_iff ..).mp h
  refine ⟨comb.toNat, if shift = 0 then .letters else .figures, ?_, by omega, hf,
    (legal_iff_charByteOk (readCodeKind_loads hk) (charByteOk_le ok)).mpr ok⟩
  have : shift = 0 ∨ shift = 1 := by bv_omega
  rcases this with rfl | rfl <;> rfl

theorem readCodeEntries_fits {p : List Byte} {es : List CodeLoad} (h : readCodeEntries p = some es) :
    ∀ x ∈ es, CodeLoad.fits x := by
  induction p using readCodeEntries.induct generalizing es with
  | case1 => cases h; simp
  | case2 comb shift kind chr rest ih =>
    rw [readCodeEntries] at h
    cases he : readCodeEntry comb shift kind chr with
    | none => simp [he] at h
    | some e =>
      cases hs : readCodeEntries rest with
      | none => simp [he, hs] at h
      | some xs =>
        simp only [he, hs, Option.bind_eq_bind, Option.bind_some, Option.ite_none_left_eq_some, Option.some.injEq] at h
        obtain ⟨-, rfl⟩ := h
        intro x m
        rcases List.mem_cons.mp m with rfl | m
        · exact readCodeEntry_fits he
        · exact ih hs x m
  | case3 p a b => rw [readCodeEntries] at h <;> simp_all

theorem tableSound_set {t : List CodeEntry} (h : TableSound t) {x : CodeLoad} (f : CodeLoad.fits x) :
    TableSound (t.set x.1 x.2) := by
  obtain ⟨j, sj, e, hj, hf, hl⟩ := f
  refine ⟨by rw [List.length_set]; exact h.1, fun k sh hk => ?_⟩
  rw [e, tableEntry_set h.1 hk hj]
  by_cases c : j = k ∧ sj = sh
  · rw [if_pos c, ← c.1, hf]; exact hl
  · rw [if_neg c]; exact h.2 k sh hk

theorem tableSound_load {es : List CodeLoad} (f : ∀ x ∈ es, CodeLoad.fits x) {t : List CodeEntry} (h : TableSound t) :
    TableSound (loadEntries t es) := by
  induction es generalizing t with
  | nil => exact h
  | cons x es ih =>
    exact ih (fun y m => f y (List.mem_cons_of_mem _ m)) (tableSound_set h (f x List.mem_cons_self))

theorem readCodeTable_iff (p : List Byte) (sub : Byte) (es : List CodeLoad) :
    readCodeTable p = some (sub, es) ↔ ∃ n rest, p = sub :: n :: rest ∧ substituteOk sub = true ∧ 1 ≤ n.toNat ∧
      n.toNat ≤ 52 ∧ rest.length = 4 * n.toNat ∧ readCodeEntries rest = some es := by
  match p with
  | [] => simp [readCodeTable]
  | [_] => simp [readCodeTable]
  | a :: n :: rest =>
    simp only [readCodeTable, Option.ite_none_right_eq_some, Option.bind_eq_bind, Option.bind_eq_some_iff, Option.some.injEq,
      Prod.mk.injEq, List.cons.injEq]
    constructor
    · rintro ⟨⟨h1, h2, h3, h4⟩, xs, hx, rfl, rfl⟩
      exact ⟨n, rest, ⟨rfl, rfl, rfl⟩, h1, h2, h3, h4, hx⟩
    · rintro ⟨_, _, ⟨rfl, rfl, rfl⟩, h1, h2, h3, h4, hx⟩
      exact ⟨⟨h1, h2, h3, h4⟩, es, hx, rfl, rfl⟩

end Sys2Proof.Machine
end


section
/-! SUPPORT. Every row keeps the modes of the receivers, the code table and the bounded figures (R1, R18, R39, R136, R154,
R157). -/

namespace Sys2Proof.Machine

open Sys2Proof

variable {on : LineId → Prop} {s t u : State} {l : LineId}

/-- What O59's step keeps. -/
structure Orderly (s : State) : Prop where
  modes : ∀ l, LineFollows s l
  table : TableSound s.ctr.table
  bounds : Bounded s

theorem Keeps.orderly (a : Keeps s t) (h : Orderly s) : Orderly t where
  modes l := a.modes l trivial (h.modes l)
  table := a.table ▸ h.table
  bounds := a.bounds h.bounds

/-! ## Keyboard (R135 to R141) -/

theorem refuseKey_keeps (s : State) (why : KeyRefusal) : KeepsOn on s (refuseKey s why) :=
  .trans (onKbs_keeps s rfl) (latch_keeps ..)

theorem keyAppend_keeps (s : State) (c : Chr) : KeepsOn on s (keyAppend s c).1 := by
  have urged : KeepsOn on s (urgeOwed s) := .ite (fun _ => .of_rest) fun _ => .refl s
  have offered := urged.trans (offerChar_step (urgeOwed s) .keyboard (keySpec s) c false).keeps
  unfold keyAppend
  dsimp only
  generalize offerChar (urgeOwed s) .keyboard (keySpec s) c false = o at offered ⊢
  have a : KeepsOn on s (if o.opened = true then o.st.onKbs fun k => { k with urgentPending := false } else o.st) :=
    .ite (fun _ => offered.trans (onKbs_keeps _ rfl)) fun _ => offered
  split
  · exact a
  · exact a.trans (.trans (onKbs_keeps _ rfl) (refuseKey_keeps ..))

theorem keyAppendAll_keeps (s : State) (cs : List Chr) : KeepsOn on s (keyAppendAll s cs) := by
  induction cs generalizing s with
  | nil => exact .refl s
  | cons c cs ih =>
    have a : KeepsOn on s (keyAppend s c).1 := keyAppend_keeps s c
    unfold keyAppendAll
    split
    · next e => rw [e] at a; exact a.trans (ih _)
    · next e => rw [e] at a; exact a

theorem keyMessageEnd_keeps (s : State) : KeepsOn on s (keyMessageEnd s) := by
  unfold keyMessageEnd
  split
  · exact .trans (closeRecord_step ..).keeps .of_rest
  · exact .of_rest

theorem keyMode_keeps (s : State) (m : KbMode) : KeepsOn on s (keyMode s m) :=
  .ite (fun _ => .refl s) fun _ => .trans (keyMessageEnd_keeps s) (onKbs_keeps _ rfl)

theorem carryOut_keeps (s : State) (a : KeyAction) : KeepsOn on s (carryOut s a) := by
  cases a <;> unfold carryOut
  case chr => exact keyAppend_keeps ..
  case msgEnd => exact keyMessageEnd_keeps s
  case hereIs =>
    dsimp only
    split
    · exact refuseKey_keeps ..
    · exact keyAppendAll_keeps ..
  case wru => exact .ite (fun _ => refuseKey_keeps ..) fun _ => keyAppend_keeps ..
  case urgent =>
    dsimp only
    split
    · exact (onRecord_step ..).keeps
    · exact onKbs_keeps _ rfl
  case mode => exact keyMode_keeps ..

/-- A change of the key FIFO that does not lengthen it beyond its depth. -/
theorem onFifo_keeps (s : State) {f : Keyboard → Keyboard} (h : s.kbs.fifo.length ≤ Config.fifoDepth →
    (f s.kbs).fifo.length ≤ Config.fifoDepth) : KeepsOn on s (s.onKbs f) :=
  ⟨rfl, rfl, fun b => ⟨b.heat, h b.fifo, b.count, b.last⟩, fun _ _ h => h⟩

theorem drainKeys_keeps (n : Nat) (s : State) : KeepsOn on s (drainKeys n s) := by
  induction n generalizing s with
  | zero => exact .refl s
  | succ n ih =>
    unfold drainKeys
    refine .ite (fun _ => .refl s) fun _ => ?_
    split
    · exact .refl s
    · next a rest e =>
      refine .trans (.trans (onFifo_keeps s fun h => ?_) (carryOut_keeps ..)) (ih _)
      rw [e] at h
      exact Nat.le_of_succ_le h

theorem formAction_keeps (s : State) (a : KeyAction) : KeepsOn on s (formAction s a) := by
  unfold formAction
  dsimp only
  split
  · exact .trans (.trans (keyMode_keeps ..) (onKbs_keeps _ rfl)) (drainKeys_keeps ..)
  · refine .ite (fun _ => refuseKey_keeps ..) fun h => .trans (onFifo_keeps s fun _ => ?_) (drainKeys_keeps ..)
    rw [List.length_append]
    exact Nat.lt_of_not_le h

theorem keyWentDown_keeps (s : State) (p : Nat) : KeepsOn on s (keyWentDown s p) := by
  unfold keyWentDown
  dsimp only
  split
  · exact .ite (fun _ => onKbs_keeps _ rfl) fun _ => .refl s
  · exact .ite (fun _ => .trans (onKbs_keeps _ rfl) (formAction_keeps ..)) fun _ => formAction_keeps ..

theorem keysWentDown_keeps (ps : List Nat) (s : State) : KeepsOn on s (ps.foldl keyWentDown s) := by
  induction ps generalizing s with
  | nil => exact .refl s
  | cons p ps ih => exact (keyWentDown_keeps s p).trans (ih _)

theorem followRepeat_fifo (k : Keyboard) : (followRepeat k).fifo = k.fifo := by
  unfold followRepeat
  split
  · split <;> rfl
  · rfl

theorem keyboardScan_keeps (closed : BitVec 64) (s : State) : KeepsOn on s (keyboardScan closed s) := by
  unfold keyboardScan
  refine .ite (fun _ => ?_) fun _ => .refl s
  have a : KeepsOn on s (s.onKbs fun k => { k with keys := scanKeys k.debounce closed 0 k.keys, scanTimer := scanPeriod s }) :=
    onKbs_keeps s rfl
  refine .ite (fun _ => ?_) fun _ => .ite (fun _ => a) fun _ => a.trans (requestWake_keeps ..)
  exact ((a.trans (keysWentDown_keeps ..)).trans (onKbs_keeps _ (followRepeat_fifo _))).trans (settleAll_keeps _)

theorem repeatExpiry_keeps (s : State) : KeepsOn on s (repeatExpiry s) := by
  unfold repeatExpiry
  refine .ite (fun _ => ?_) fun _ => .refl s
  split
  · exact .trans (.trans (onKbs_keeps s rfl) (formAction_keeps ..)) (settleAll_keeps _)
  · exact onKbs_keeps s rfl

/-! ## Printer (R145 to R162) -/

theorem endPrintGrant_keeps (s : State) : KeepsOn on s (endPrintGrant s) := by
  unfold endPrintGrant
  split
  · exact .refl s
  · exact .trans (t := { s with prc := { s.prc with grant := none, yieldTimer := none, starved := false } }) .of_rest
      (endGrant_step ..).keeps

theorem advanceCursor_keeps (s : State) (d : Deliv) (i : Nat) : KeepsOn on s (advanceCursor s d i) :=
  (advanceCursor_step ..).keeps

theorem setPrintGrant_keeps (s : State) (g : Option PrintGrant) : KeepsOn on s (s.setPrintGrant g) := .of_rest

theorem onRecord_keeps (s : State) (i : Nat) (f : Rec → Rec) : KeepsOn on s (s.onRecord i f) := (onRecord_step ..).keeps

theorem followHeat_keeps (s : State) : KeepsOn on s (followHeat s) := by
  obtain ⟨h, e⟩ := followHeat_eq s
  rw [e]; exact .of_rest

theorem printItemDone_keeps (s : State) (g : PrintGrant) : KeepsOn on s (printItemDone s g) := by
  unfold printItemDone
  split
  · exact advanceCursor_keeps ..
  · exact setPrintGrant_keeps ..
  · exact setPrintGrant_keeps ..
  · exact setPrintGrant_keeps ..
  · exact .ite (fun _ => .trans (setPrintGrant_keeps ..) (onRecord_keeps ..)) fun _ => setPrintGrant_keeps ..

/-- H rises to 1,023 at most (R157). -/
theorem issuePrintOp_keeps (s : State) (op : PrintOp) : KeepsOn on s (issuePrintOp s op) := by
  refine ⟨rfl, rfl, fun b => ⟨?_, b.fifo, b.count, b.last⟩, fun _ _ h => h⟩
  show chargeHeat _ op ≤ _
  cases op
  case strike => exact Nat.min_le_right ..
  all_goals exact b.heat

/-- The printed count stays within the line (R154). -/
theorem layoutAfter_count (x : Printer) (op : PrintOp) (h : x.count ≤ x.cfg.lineLength) :
    (layoutAfter x op).count ≤ (layoutAfter x op).cfg.lineLength := by
  unfold layoutAfter
  split
  case h_3 => exact Nat.zero_le _
  case h_4 | h_5 | h_6 => exact h
  all_goals
    dsimp only
    split
    · next c => exact c
    · exact h

theorem layoutAfter_heat (x : Printer) (op : PrintOp) : (layoutAfter x op).heat = x.heat := by
  unfold layoutAfter; split <;> rfl

theorem completePrintOp_keeps (s : State) (op : PrintOp) : KeepsOn on s (completePrintOp s op) := by
  have a : KeepsOn on s (s.onPrc fun x => { layoutAfter x op with op := none, owedCr := false }) :=
    ⟨rfl, rfl, fun b => ⟨(layoutAfter_heat s.prc op).trans_le b.heat, b.fifo, layoutAfter_count _ _ b.count, b.last⟩,
      fun _ _ h => h⟩
  unfold completePrintOp
  refine .ite (fun _ => a) fun _ => ?_
  split
  · exact .ite (fun _ => a.trans (printItemDone_keeps ..)) fun _ => a
  · exact a

theorem stallPrinter_keeps (s : State) (op : PrintOp) : KeepsOn on s (stallPrinter s op) := by
  have a : KeepsOn on s (s.onPrc fun x =>
      { x with fault := true, lastFault := some (op.kind, s.prc.grant.map (·.index)), op := none }) :=
    onPrc_keeps s rfl rfl rfl
  unfold stallPrinter
  dsimp only
  refine .trans ?_ (latch_keeps ..)
  split
  · exact a.trans (.trans (onRecord_keeps ..) (endPrintGrant_keeps _))
  · exact a

theorem takePrintGrant_keeps (s : State) (i : Nat) (o : Origin) : KeepsOn on s (takePrintGrant s i o) := by
  have a : KeepsOn on s ((startGrant s .print i).onPrc fun x =>
      { x with grant := some ⟨i, .lead, none, []⟩, lastServed := o, passOver := none, yieldTimer := none
               starved := false }) := .trans (startGrant_step ..).keeps (onPrc_keeps _ rfl rfl rfl)
  exact .ite (fun _ => a) fun _ => a.trans (onRecord_keeps ..)

theorem followPaperHold_keeps (now : Bool) (s : State) : KeepsOn on s (followPaperHold now s) := by
  have a : KeepsOn on s (s.onPrc fun x => { x with hold := true, release := none }) := onPrc_keeps s rfl rfl rfl
  exact .ite (fun _ => .ite (fun _ => a) fun _ => a.trans (latch_keeps ..)) fun _ =>
    .ite (fun _ => onPrc_keeps s rfl rfl rfl) fun _ => .refl s

/-! ## Punch (R164 to R175) -/

theorem setPunchGrant_keeps (s : State) (g : Option PunchGrant) : KeepsOn on s (s.setPunchGrant g) := .of_rest

theorem endPunchGrant_keeps (s : State) : KeepsOn on s (endPunchGrant s) := by
  unfold endPunchGrant
  split
  · exact .refl s
  · exact .trans (setPunchGrant_keeps ..) (endGrant_step ..).keeps

theorem punchFault_keeps (s : State) (c : PunchCause) : KeepsOn on s (punchFault s c) := by
  have a : KeepsOn on s { s with puc := { s.puc with fault := true, lastFault := some (c, s.puc.grant.map (·.index)), op := none } } :=
    .of_rest
  unfold punchFault
  dsimp only
  refine .trans ?_ (latch_keeps ..)
  split
  · exact a
  · exact a.trans (.trans (onRecord_keeps ..) (endPunchGrant_keeps _))

theorem takePunchGrant_keeps (s : State) (i : Nat) (r : Rec) : KeepsOn on s (takePunchGrant s i r) :=
  .trans (.trans (startGrant_step ..).keeps (setTape_keeps ..)) (onPuc_keeps ..)

theorem beginFrame_keeps (s : State) (g : PunchGrant) (f : Option PunchFrame) : KeepsOn on s (beginFrame s g f) := by
  unfold beginFrame
  dsimp only
  split
  case h_1 | h_2 => exact .trans (setPunchGrant_keeps ..) (setTape_keeps ..)
  all_goals exact setPunchGrant_keeps ..

theorem countTape_keeps (s : State) (o : PunchOp) : KeepsOn on s (countTape s o) := by
  unfold countTape
  have a (n : Nat) : KeepsOn on s (if n = 0 then
      ((s.onPuc fun x => { x with tape := some n }).onPuc fun x => { x with tapeHold := true }).latch .punchAttn
      else s.onPuc fun x => { x with tape := some n }) :=
    .ite (fun _ => .trans (onPuc_keeps ..) (.trans (onPuc_keeps ..) (latch_keeps ..))) fun _ => onPuc_keeps ..
  split
  · exact .refl s
  all_goals
    split
    · exact a _
    · exact .refl s
    · exact .refl s

theorem frameDone_keeps (s : State) (g : PunchGrant) (f : PunchFrame) : KeepsOn on s (frameDone s g f) := by
  have a : KeepsOn on s (if f.retry = 0 then s else s.setTape (repairedShift f.kind)) :=
    .ite (fun _ => .refl s) fun _ => setTape_keeps ..
  unfold frameDone
  dsimp only
  generalize (if f.retry = 0 then s else s.setTape (repairedShift f.kind)) = v at a ⊢
  refine a.trans ?_
  split
  · exact .ite (fun _ => .trans (setPunchGrant_keeps ..) (onRecord_keeps ..)) fun _ => setPunchGrant_keeps ..
  · exact setPunchGrant_keeps ..
  · exact setPunchGrant_keeps ..
  · split
    · exact .trans (setPunchGrant_keeps ..) (advanceCursor_keeps ..)
    all_goals exact setPunchGrant_keeps ..

theorem mismatch_keeps (s : State) (g : PunchGrant) (f : PunchFrame) : KeepsOn on s (mismatch s g f) :=
  .ite (fun _ => punchFault_keeps ..) fun _ =>
    .ite (fun _ => .trans (setPunchGrant_keeps ..) (onPuc_keeps ..)) fun _ => punchFault_keeps ..

theorem sectionAfter_keeps (s : State) (g : PunchGrant) (c : Comb) : KeepsOn on s (sectionAfter s g c) := by
  unfold sectionAfter
  dsimp only
  split
  · exact setPunchGrant_keeps ..
  · split
    · exact .ite (fun _ => frameDone_keeps ..) fun _ => mismatch_keeps ..
    · exact .ite (fun _ => frameDone_keeps ..) fun _ => mismatch_keeps ..
    · exact setPunchGrant_keeps ..
    · exact .ite (fun _ => setPunchGrant_keeps ..) fun _ => punchFault_keeps ..
    · exact .ite (fun _ => setPunchGrant_keeps ..) fun _ => punchFault_keeps ..

theorem completePunchOp_keeps (s : State) (o : PunchOp) (c : Comb) : KeepsOn on s (completePunchOp s o c) := by
  have a : KeepsOn on s (countTape (s.onPuc fun x => { x with op := none }) o) := .trans (onPuc_keeps ..) (countTape_keeps ..)
  unfold completePunchOp
  dsimp only
  split
  · exact a
  · exact a.trans (sectionAfter_keeps ..)

theorem followTapeHold_keeps (now : Bool) (s : State) : KeepsOn on s (followTapeHold now s) :=
  .ite (fun _ => .ite (fun _ => onPuc_keeps ..) fun _ => .trans (onPuc_keeps ..) (latch_keeps ..)) fun _ =>
    .ite (fun _ => onPuc_keeps ..) fun _ => .refl s

theorem followTapeLow_keeps (now : Bool) (s : State) : KeepsOn on s (followTapeLow now s) :=
  .ite (fun _ => .trans (onPuc_keeps ..) (latch_keeps ..)) fun _ => onPuc_keeps ..

end Sys2Proof.Machine
end


section
/-! SUPPORT. The rows of the lines, the supervisors, the exchange and the timebase keep the modes of the receivers, the code
table and the bounded figures (R18 to R30, R39 to R49, R98 to R130). -/

namespace Sys2Proof.Machine

open Sys2Proof

variable {on : LineId → Prop} {s t u : State} {l k : LineId}

/-! ## Line units (R36 to R49) -/

theorem Receiver.tick_mode (r : Receiver) (lv : Level) : (r.tick lv).mode = r.mode := by
  unfold Receiver.tick
  dsimp only
  split
  · rfl
  · split
    · rfl
    · rfl
    · rfl
    · rfl

theorem lineTick_keeps (l : LineId) (lv : Level) (s : State) : KeepsOn on s (lineTick l lv s) :=
  .ite (fun _ => onUnit_keeps s l fun _ => Receiver.tick_mode _ lv) fun _ => onRx_keeps s l fun _ => rfl

theorem blankReceiver_keeps (s : State) (l : LineId) : KeepsOn on s (blankReceiver s l) := by
  refine .ite (fun _ => onRx_keeps s l fun _ => ?_) fun _ => .refl s
  split <;> rfl

theorem handItem_keeps (s : State) (l : LineId) (f : Flight) : KeepsOn on s (handItem s l f) := by
  have a : KeepsOn on s (consumeItem s l f) := consumeItem_keeps ..
  exact .ite (fun _ => a.trans (onSelector_keeps ..)) fun _ => a

theorem spaceSent_keeps (s : State) (l : LineId) (b : Bool) : KeepsOn on s (spaceSent s l b) :=
  .ite (fun _ => setTxShift_keeps ..) fun _ => .refl s

theorem emit_keeps (s : State) (l : LineId) (x : Sending) (space force : Bool) (f : Flight) :
    KeepsOn on s (emit s l x space force f).2 := by
  unfold emit
  split
  · dsimp only
    exact .trans (setTxShift_keeps ..) (onSelector_keeps ..)
  · exact .trans (handItem_keeps s l f) (spaceSent_keeps ..)

theorem emitAnswerback_keeps (s : State) (l : LineId) (a : Answerback) (c : Chr) (x : Sending) :
    KeepsOn on s (emitAnswerback s l a c x).2 := by
  unfold emitAnswerback
  dsimp only
  split
  · dsimp only
    exact .trans (setTxShift_keeps ..) (onSelector_keeps ..)
  · split
    · exact .trans (onSelector_keeps ..) (emit_keeps ..)
    · exact emit_keeps ..

theorem handNext_keeps {c : Comb} {f : Flight} (h : handNext s l = some (c, f, t)) : KeepsOn on s t := by
  unfold handNext at h
  dsimp only at h
  split at h
  · cases h; exact .trans (setSelector_keeps ..) (.trans (handItem_keeps ..) (spaceSent_keeps ..))
  · split at h
    · cases h
    · split at h
      · cases h
      · cases h; exact handItem_keeps ..
      · cases h; exact emit_keeps ..
      · cases h
        split
        · exact emitAnswerback_keeps ..
        · exact emit_keeps ..
        all_goals exact emit_keeps ..

theorem txCharacterStart_keeps (l : LineId) (s : State) : KeepsOn on s (txCharacterStart l s) := by
  unfold txCharacterStart
  dsimp only
  have swept : KeepsOn on s (sendSweep sweepFuel s l) := sendSweep_keeps ..
  split
  · split
    · split
      · exact swept.trans (settle_keeps _)
      · next h =>
        exact .trans (swept.trans (handNext_keeps h)) <| .trans (onTx_keeps ..) <| .trans (onSelector_keeps ..) <|
          .trans (blankReceiver_keeps ..) <| .trans (restartIdle_keeps ..) (settle_keeps _)
    · exact swept.trans (settle_keeps _)
  · exact .refl s

theorem txCharacterEnd_keeps (l : LineId) (s : State) : KeepsOn on s (txCharacterEnd l s) := by
  unfold txCharacterEnd
  split
  · exact .refl s
  · refine .ite (fun _ => ?_) fun _ => .refl s
    refine .trans (.trans (.trans (onTx_keeps ..) (onSelector_keeps ..)) (onRx_keeps _ l fun _ => ?_)) (settleLine_keeps ..)
    unfold Receiver.unblank
    split <;> rfl

theorem rxStartElement_keeps (l : LineId) (s : State) (h : execRxStartElement l s = .next t) : KeepsOn on s t := by
  cases h
  refine onRx_keeps s l fun _ => ?_
  split <;> rfl

theorem startCheck_keeps (l : LineId) (s : State) : KeepsOn on s (startCheck l s) := by
  unfold startCheck
  split
  · exact .refl s
  · refine .ite (fun _ => .ite (fun _ => ?_) fun _ => ?_) fun _ => .refl s
    · exact onRx_keeps s l fun _ => rfl
    · exact .trans (onRx_keeps s l fun _ => rfl) (onStats_keeps ..)

theorem countChar_keeps (s : State) (l : LineId) (peak : Nat) (errored : Bool) : KeepsOn on s (countChar s l peak errored) :=
  .ite (fun _ => .trans (onStats_keeps ..) (latch_keeps ..)) fun _ => onStats_keeps ..

theorem frameTaken_keeps (s : State) (l : LineId) (peak : Nat) (errored : Bool) :
    KeepsOn on s (frameTaken s l peak errored) :=
  .trans (onRx_keeps s l fun _ => rfl) (.trans (countChar_keeps ..) (restartIdle_keeps ..))

theorem stopSample_keeps (l : LineId) (s : State) : Keeps s (stopSample l s) := by
  unfold stopSample
  split
  · exact .refl s
  · refine .ite (fun _ => .ite (fun _ => ?_) fun _ => ?_) fun _ => .refl s
    · exact .trans (.trans (frameTaken_keeps ..) (receiveComb_keeps ..)) (settleLine_keeps ..)
    · exact .trans (.trans (.trans (.trans (endTogether_keeps ..) (onRx_keeps _ l fun _ => rfl)) (onStats_keeps ..))
        (reportSpace_keeps ..)) (settleLine_keeps ..)

theorem spaceHeldEnd_keeps (l : LineId) (s : State) : Keeps s (spaceHeldEnd l s) := by
  unfold spaceHeldEnd
  split
  · exact .ite (fun _ => .trans (onRx_keeps s l fun _ => rfl) (reportMark_keeps ..)) fun _ => .refl s
  all_goals exact .refl s

theorem conditionChange_keeps (l : LineId) (s : State) : Keeps s (conditionChange l s) :=
  .ite (fun _ => .trans (onRx_keeps s l fun _ => rfl) (report_keeps ..)) fun _ => .refl s

theorem watchSpace_keeps (l : LineId) (s : State) : KeepsOn on s (watchSpace l s) :=
  .ite (fun _ => .trans (.trans (onRx_keeps s l fun _ => rfl) (onStats_keeps ..)) (requestWake_keeps ..)) fun _ => .refl s

/-! ## Lines in and out of standby (R27, R30, R49) -/

/-- Only a RUNNING line's mode depends on whether the part runs. -/
theorem SupState.rxMode_of_ne_running {x : SupState} (h : x ≠ .running) (a b : Bool) : x.rxMode a = x.rxMode b := by
  cases x <;> first | rfl | exact absurd rfl h

theorem enterWatch_off (s : State) (l : LineId) : KeepsOff l s (enterWatch s l) :=
  .ite (fun _ => onRx_off ..) fun _ => .refl s

theorem enterWatch_other (h : k ≠ l) :
    (enterWatch s l).unit k = s.unit k ∧ (enterWatch s l).csv k = s.csv k := by
  unfold enterWatch
  split
  · exact ⟨State.onUnit_unit_ne s _ h, rfl⟩
  · exact ⟨rfl, rfl⟩

theorem enterWatch_follows (r : s.running = false) (h : (s.unit l).rx.mode = (s.csv l).state.rxMode true) :
    LineFollows (enterWatch s l) l := by
  unfold enterWatch
  split
  · next e => exact onRx_follows (by rw [e, r]; rfl)
  · next e => rw [LineFollows, h]; exact SupState.rxMode_of_ne_running e ..

theorem leaveWatch_off (s : State) (l : LineId) : KeepsOff l s (leaveWatch s l) := by
  unfold leaveWatch enterFraming
  refine .ite (fun _ => .ite (fun _ => .refl s) fun _ => ?_) fun _ => .refl s
  exact .trans (onRx_off ..) (.ite (fun _ => (reportSpace_keeps ..).off) fun _ => .refl _)

theorem leaveWatch_other (h : k ≠ l) (w : (s.unit l).rx.mode = (s.csv l).state.rxMode false) :
    (leaveWatch s l).unit k = s.unit k ∧ (leaveWatch s l).csv k = s.csv k := by
  unfold leaveWatch enterFraming
  split
  · next m =>
    have e : (s.csv l).state = .running := by
      rw [m] at w
      cases x : (s.csv l).state <;> rw [x] at w <;> first | rfl | cases w
    split
    · exact ⟨rfl, rfl⟩
    · dsimp only
      have a : (s.onRx l Receiver.frame).unit k = s.unit k := State.onUnit_unit_ne s _ h
      split
      · unfold reportSpace
        rw [show ((s.onRx l Receiver.frame).csv l).state = .running from e]
        exact ⟨a, State.onCsv_csv_ne _ _ h⟩
      · exact ⟨a, rfl⟩
  · exact ⟨rfl, rfl⟩

theorem leaveWatch_follows (r : s.running = true) (h : (s.unit l).rx.mode = (s.csv l).state.rxMode false) :
    LineFollows (leaveWatch s l) l := by
  unfold leaveWatch
  split
  · next m =>
    have e : (s.csv l).state = .running := by
      rw [m] at h
      cases x : (s.csv l).state <;> rw [x] at h <;> first | rfl | cases h
    have f : (s.csv l).state.rxMode s.running = .framing := by rw [e, r]; rfl
    exact .of_keeps fun t off => enterFraming_follows off f
  · next m =>
    rw [LineFollows, h, r]
    exact SupState.rxMode_of_ne_running (fun e => m (by rw [h, e]; rfl)) ..

end Sys2Proof.Machine
end


section
/-! SUPPORT. The timed rows of the supervisors, the exchange, the timebase and the motors, and the choice of a record to send,
keep the modes of the receivers, the code table and the bounded figures (R18 to R30, R86 to R130, R176 to R180). -/

namespace Sys2Proof.Machine

open Sys2Proof

variable {on : LineId → Prop} {s t u : State} {l k : LineId}

/-! ## Supervisors (R101 to R119) -/

theorem callRecognizeExpiry_keeps (l : LineId) (s : State) : KeepsOn on s (callRecognizeExpiry l s) := by
  refine .ite (fun h => ?_) fun _ => .refl s
  have c : (s.csv l).state.rxMode s.running = .condition := by rw [h.1]; rfl
  split
  · exact .trans (enterAnswering_keeps c) (settle_keeps _)
  all_goals exact enterRefusing_keeps c _

theorem confirmExpiry_keeps (l : LineId) (s : State) : Keeps s (confirmExpiry l s) :=
  .ite (fun _ => .trans (enterConnected_answering ..) (settleLine_keeps ..)) fun _ => .refl s

theorem prepExpiry_keeps (l : LineId) (k : Mech) (s : State) : KeepsOn on s (prepExpiry l k s) :=
  .ite (fun _ => .trans (.trans (onTimers_keeps ..) (onMotor_keeps ..)) (settle_keeps _)) fun _ => .refl s

theorem clearing_keeps (s : State) (l : LineId) (why : ClearReason) : Keeps s (settleLine (enterClearing s l why) l) :=
  .trans (enterClearing_keeps ..) (settleLine_keeps ..)

theorem clearRecognizeExpiry_keeps (l : LineId) (s : State) : Keeps s (clearRecognizeExpiry l s) := by
  refine .ite (fun _ => ?_) fun _ => .refl s
  split
  · exact enterGuard_keeps ..
  iterate 5 exact clearing_keeps ..
  all_goals exact .refl s

theorem clearConfirmExpiry_keeps (l : LineId) (s : State) : Keeps s (clearConfirmExpiry l s) :=
  .ite (fun _ => .trans (clearConfirmed_keeps ..) (settleLine_keeps ..)) fun _ => .refl s

theorem guardExpiry_keeps (l : LineId) (s : State) : Keeps s (guardExpiry l s) :=
  .ite (fun _ => enterFree_keeps ..) fun _ => .refl s

theorem callConfirmExpiry_keeps (l : LineId) (s : State) : Keeps s (callConfirmExpiry l s) :=
  .ite (fun _ => clearing_keeps ..) fun _ => .refl s

theorem proceedExpiry_keeps (l : LineId) (s : State) : Keeps s (proceedExpiry l s) :=
  .ite (fun _ => clearing_keeps ..) fun _ => .refl s

theorem connectExpiry_keeps (l : LineId) (s : State) : Keeps s (connectExpiry l s) :=
  .ite (fun _ => clearing_keeps ..) fun _ => .refl s

theorem idleTimeoutExpiry_keeps (l : LineId) (s : State) : Keeps s (idleTimeoutExpiry l s) :=
  .ite (fun _ => clearing_keeps ..) fun _ => .refl s

theorem progressQuietExpiry_keeps (l : LineId) (s : State) : KeepsOn on s (progressQuietExpiry l s) :=
  .ite (fun _ => .trans (placeWru_keeps ..) (settleLine_keeps ..)) fun _ => .refl s

theorem captureQuietExpiry_keeps (l : LineId) (s : State) : Keeps s (captureQuietExpiry l s) :=
  .ite (fun _ => .trans (captureEnd_keeps ..) (settleLine_keeps ..)) fun _ => .refl s

theorem outgoingCallEnd_keeps (l : LineId) (s : State) : Keeps s (outgoingCallEnd l s) := by
  refine .ite (fun _ => ?_) fun _ => .refl s
  exact .trans (.trans (onCsv_keeps s l fun _ => rfl) (.ite (fun _ => placeWru_keeps ..) fun _ => enterClearing_keeps ..))
    (settleLine_keeps ..)

theorem privateFaultExpiry_keeps (l : LineId) (s : State) : Keeps s (privateFaultExpiry l s) :=
  .ite (fun _ => .trans (enterFault_keeps ..) (settleLine_keeps ..)) fun _ => .refl s

theorem privateRecoveryExpiry_keeps (l : LineId) (s : State) : Keeps s (privateRecoveryExpiry l s) :=
  .ite (fun _ => .trans (.trans (enterRunning_keeps ..) (latch_keeps ..)) (settleLine_keeps ..)) fun _ => .refl s

/-! ## Exchange (R122 to R130) -/

theorem offerWaitExpiryAnswering_keeps (l : LineId) (s : State) : KeepsOn on s (offerWaitExpiryAnswering l s) :=
  .ite (fun _ => .trans (.trans (placeOffer_keeps ..) (onExch_keeps ..)) (settleLine_keeps ..)) fun _ => .refl s

theorem offerWaitExpiryCalling_keeps (l : LineId) (s : State) : Keeps s (offerWaitExpiryCalling l s) :=
  .ite (fun _ => .trans (exchangePlain_keeps ..) (settleLine_keeps ..)) fun _ => .refl s

theorem pageTimerExpiry_keeps (l : LineId) (s : State) : Keeps s (pageTimerExpiry l s) :=
  .ite (fun _ => .trans (exchangePlain_keeps ..) (settleLine_keeps ..)) fun _ => .refl s

/-! ## The choice of a record to send (R86, R89 to R92) -/

theorem messageGapExpiry_keeps (l : LineId) (s : State) : KeepsOn on s (messageGapExpiry l s) :=
  .ite (fun _ => .trans (framerEnd_step ..).keeps (settleLine_keeps ..)) fun _ => .refl s

theorem grantLive_keeps (s : State) (l : LineId) (i : Nat) (r : Rec) : KeepsOn on s (grantLive s l i r) := by
  have a : KeepsOn on s (startGrant s (sendOf l) i) := (startGrant_step ..).keeps
  unfold grantLive
  refine .trans (.ite (fun _ => a) fun _ => ?_) (onSelector_keeps ..)
  exact a.trans (.trans (onRecord_keeps ..) (chargeOne_keeps ..))

theorem grantStored_keeps (s : State) (l : LineId) (i : Nat) (r : Rec) : KeepsOn on s (grantStored s l i r) := by
  unfold grantStored
  exact .trans (.trans (startGrant_step s (sendOf l) i).keeps (onCsv_keeps _ l fun _ => rfl)) (onSelector_keeps ..)

theorem defer_keeps (s : State) (l : LineId) : KeepsOn on s (defer s l) :=
  .ite (fun _ => .trans (onSelector_keeps ..) (latch_keeps ..)) fun _ => .refl s

theorem sendGrant_keeps (l : LineId) (s : State) : KeepsOn on s (sendGrant l s) := by
  refine .ite (fun _ => ?_) fun _ => .refl s
  split
  · exact .trans (grantLive_keeps ..) (settleLine_keeps ..)
  · refine .ite (fun _ => ?_) fun _ => .refl s
    dsimp only
    split
    · exact .trans (defer_keeps ..) (.trans (grantStored_keeps ..) (settleLine_keeps ..))
    · exact defer_keeps ..

/-! ## Printer, punch, motors -/

theorem printGrant_keeps (s : State) : KeepsOn on s (printGrant s) := by
  refine .ite (fun _ => ?_) fun _ => .refl s
  split
  · exact .refl s
  · split
    · exact .refl s
    · exact .trans (takePrintGrant_keeps ..) (settle_keeps _)

theorem printOperationIssue_keeps (s : State) : KeepsOn on s (printOperationIssue s) := by
  have a : KeepsOn on s (followHeat s) := followHeat_keeps s
  refine .ite (fun _ => ?_) fun _ => a
  split
  · exact a.trans (.trans (issuePrintOp_keeps ..) (settle_keeps _))
  · exact a

theorem prdy_keeps (s : State) : KeepsOn on s (prdy s) := by
  unfold prdy
  split
  · exact .trans (completePrintOp_keeps ..) (settle_keeps _)
  · exact .ite (fun _ => .trans (onPrc_keeps s rfl rfl rfl) (settle_keeps _)) fun _ => .refl s

theorem printOperationTimeout_keeps (s : State) : KeepsOn on s (printOperationTimeout s) := by
  unfold printOperationTimeout
  split
  · exact .trans (stallPrinter_keeps ..) (settle_keeps _)
  all_goals exact .refl s

theorem yieldExpiry_keeps (s : State) : KeepsOn on s (yieldExpiry s) := by
  unfold yieldExpiry
  split
  · exact .ite (fun _ => .trans (onPrc_keeps s rfl rfl rfl) (settle_keeps _)) fun _ => .refl s
  · exact .refl s

theorem heatDecay_keeps (s : State) : KeepsOn on s (heatDecay s) := by
  refine .ite (fun _ => ⟨rfl, rfl, fun h => ⟨?_, h.fifo, h.count, h.last⟩, fun _ _ h => h⟩) fun _ => .refl s
  exact (Nat.sub_le s.prc.heat 1).trans h.heat

theorem printerSensorQualified_keeps (k : PrintSensor) (s : State) : KeepsOn on s (printerSensorQualified k s) := by
  cases k <;> refine .ite (fun _ => ?_) fun _ => .refl s
  · exact .ite (fun _ => .trans (onPrc_keeps s rfl rfl rfl) (latch_keeps ..)) fun _ => onPrc_keeps s rfl rfl rfl
  all_goals exact .trans (.trans (onPrc_keeps s rfl rfl rfl) (followPaperHold_keeps ..)) (settle_keeps _)

theorem printerHoldRelease_keeps (s : State) : KeepsOn on s (printerHoldRelease s) :=
  .ite (fun _ => .trans (onPrc_keeps s rfl rfl rfl) (settle_keeps _)) fun _ => .refl s

theorem printAbandonEnd_keeps (ready : Bool) (s : State) : KeepsOn on s (printAbandonEnd ready s) :=
  .ite (fun _ => .trans (onPrc_keeps s rfl rfl rfl) (settle_keeps _)) fun _ => .refl s

theorem punchGrant_keeps (s : State) : KeepsOn on s (punchGrant s) := by
  refine .ite (fun _ => ?_) fun _ => .refl s
  split
  · exact .refl s
  · split
    · exact .refl s
    · exact .trans (takePunchGrant_keeps ..) (settle_keeps _)

theorem issuePunchOp_keeps (s : State) (op : PunchOp) : KeepsOn on s (issuePunchOp s op) := onPuc_keeps ..

theorem punchOperationIssue_keeps (s : State) : KeepsOn on s (punchOperationIssue s) := by
  refine .ite (fun _ => ?_) fun _ => .refl s
  split
  · exact .refl s
  · split
    · split
      · exact .trans (issuePunchOp_keeps ..) (settle_keeps _)
      · exact .refl s
    · split
      · exact .trans (.trans (beginFrame_keeps ..) (issuePunchOp_keeps ..)) (settle_keeps _)
      · exact .refl s

theorem urdy_keeps (sensed : Comb) (s : State) : KeepsOn on s (urdy sensed s) := by
  unfold urdy
  split
  · exact .trans (completePunchOp_keeps ..) (settle_keeps _)
  · exact .ite (fun _ => .trans (onPuc_keeps ..) (settle_keeps _)) fun _ => .refl s

theorem punchOperationTimeout_keeps (s : State) : KeepsOn on s (punchOperationTimeout s) := by
  unfold punchOperationTimeout
  split
  · exact .trans (punchFault_keeps ..) (settle_keeps _)
  all_goals exact .refl s

theorem punchSensorQualified_keeps (k : PunchSensor) (s : State) : KeepsOn on s (punchSensorQualified k s) := by
  cases k <;> refine .ite (fun _ => ?_) fun _ => .refl s
  · exact .trans (.trans (onPuc_keeps ..) (followTapeLow_keeps ..)) (settle_keeps _)
  all_goals exact .trans (.trans (onPuc_keeps ..) (followTapeHold_keeps ..)) (settle_keeps _)

theorem punchHoldRelease_keeps (s : State) : KeepsOn on s (punchHoldRelease s) :=
  .ite (fun _ => .trans (onPuc_keeps ..) (settle_keeps _)) fun _ => .refl s

theorem punchAbandonEnd_keeps (ready : Bool) (s : State) : KeepsOn on s (punchAbandonEnd ready s) :=
  .ite (fun _ => .trans (onPuc_keeps ..) (settle_keeps _)) fun _ => .refl s

theorem speedQualified_keeps (k : Mech) (s : State) : KeepsOn on s (speedQualified k s) := by
  have a : KeepsOn on s (s.onMotor k fun m => { m with speed := m.speed.flip }) := onMotor_keeps ..
  refine .ite (fun _ => ?_) fun _ => .refl s
  dsimp only
  split
  · exact a.trans (.trans (onMotor_keeps ..) (settle_keeps _))
  · exact a.trans (.trans (.trans (onMotor_keeps ..) (latch_keeps ..)) (settle_keeps _))
  all_goals exact a

theorem startLimitExpiry_keeps (k : Mech) (s : State) : KeepsOn on s (startLimitExpiry k s) :=
  .ite (fun _ => .trans (.trans (onMotor_keeps ..) (latch_keeps ..)) (settle_keeps _)) fun _ => .refl s

theorem idleLowExpiry_keeps (k : Mech) (s : State) : KeepsOn on s (idleLowExpiry k s) :=
  .ite (fun _ => .trans (onMotor_keeps ..) (settle_keeps _)) fun _ => .refl s

theorem idleStopExpiry_keeps (k : Mech) (s : State) : KeepsOn on s (idleStopExpiry k s) :=
  .ite (fun _ => .trans (onMotor_keeps ..) (settle_keeps _)) fun _ => .refl s

/-! ## Timebase (R17 to R30) -/

/-- A change of the timebase that leaves it running, or not running, with a last count in range. -/
theorem onTbu_keeps (s : State) {f : Timebase → Timebase} (r : (f s.tbu).state.isRunning = s.tbu.state.isRunning)
    (c : s.tbu.lastCount ≤ 1048575 → (f s.tbu).lastCount ≤ 1048575 := by exact id) : KeepsOn on s (s.onTbu f) where
  running := r
  table := rfl
  bounds h := ⟨h.heat, h.fifo, h.count, c h.last⟩
  modes l _ h := by
    have e : (s.onTbu f).running = s.running := r
    rw [LineFollows, e]
    exact h

theorem beginQualifying_keeps (h : s.running = true) : KeepsOn on s (beginQualifying s) := onTbu_keeps s h.symm

theorem qualificationEnd_keeps (count : Nat) (s : State) : KeepsOn on s (qualificationEnd count s) := by
  refine .ite (fun _ => .refl s) fun h => ?_
  have q : s.tbu.state = .qualifying := Decidable.not_not.mp h
  have r : (s.onTbu fun t => { t with lastCount := min count 1048575 }).tbu.state.isRunning = true := by
    rw [show (s.onTbu fun t => { t with lastCount := min count 1048575 }).tbu.state = .qualifying from q]; rfl
  have counted : KeepsOn on s (s.onTbu fun t => { t with lastCount := min count 1048575 }) :=
    onTbu_keeps s rfl fun _ => Nat.min_le_right ..
  refine .trans (counted.trans (.ite (fun _ => ?_) fun _ => ?_)) (latch_keeps ..)
  · exact .trans (onTbu_keeps _ (by exact r.symm)) (recomputeBoth_keeps _)
  · exact onTbu_keeps _ (by exact r.symm)

theorem referenceLost_keeps (s : State) : KeepsOn on s (referenceLost s) := by
  refine .ite (fun _ => .refl s) fun h => ?_
  have q : s.tbu.state = .reference := Decidable.not_not.mp h
  exact .trans (.trans (onTbu_keeps s (by rw [q]; rfl)) (recomputeBoth_keeps _)) (latch_keeps ..)

theorem calibrationEnd_keeps (nInt : Nat) (s : State) : Keeps s (if s.tbu.state = .reference ∧ s.tbu.calActive = true then
    s.onTbu fun t =>
      if Config.fIntLow ≤ estimate t.fRef nInt ∧ estimate t.fRef nInt ≤ Config.fIntHigh then
        { t with calActive := false, fIntEst := estimate t.fRef nInt, calKept := bump t.calKept }
      else { t with calActive := false, calDiscarded := bump t.calDiscarded }
    else s) := by
  refine .ite (fun _ => onTbu_keeps s ?_ ?_) fun _ => .refl s
  · split <;> rfl
  · split <;> exact id

theorem millisecondTick_keeps (i : TickPins) (s : State) : KeepsOn on s (millisecondTick i s) := by
  have rx (b : Bool) (r : Receiver) (lv : Level) : (r.msTick b lv).mode = r.mode := by
    unfold Receiver.msTick
    dsimp only
    split
    · rfl
    · split
      · split <;> rfl
      · split <;> rfl
      · rfl
      · rfl
  refine .of_parts fun l _ => ?_
  cases l
  · exact ⟨rx .., rfl⟩
  · exact ⟨rx .., rfl⟩

/-- When line ticks resume, the lines that watched frame. -/
theorem leaveWatch_orderly (r : s.running = true) (h : ∀ l, (s.unit l).rx.mode = (s.csv l).state.rxMode false)
    (table : TableSound s.ctr.table) (bounds : Bounded s) :
    Orderly (leaveWatch (leaveWatch s .A) .B) ∧ (leaveWatch (leaveWatch s .A) .B).running = true := by
  have offA := leaveWatch_off s .A
  have offB := leaveWatch_off (leaveWatch s .A) .B
  have ⟨unitB, csvB⟩ := leaveWatch_other (k := .B) (by decide) (h .A)
  refine ⟨⟨fun l => ?_, offB.table ▸ offA.table ▸ table, offB.bounds (offA.bounds bounds)⟩,
    offB.running.trans (offA.running.trans r)⟩
  cases l with
  | A => exact offB.modes .A (by decide) (leaveWatch_follows r (h .A))
  | B => exact leaveWatch_follows (offA.running.trans r) (by rw [unitB, csvB]; exact h .B)

theorem wakeComplete_orderly (h : Orderly s) : Orderly (wakeComplete s) := by
  unfold wakeComplete
  dsimp only
  split
  case isFalse => exact h
  next w =>
    have stopped : s.running = false := by rw [State.running, w.1]; rfl
    have ⟨o, r⟩ := leaveWatch_orderly (s := ((s.onTbu fun t =>
      { t with state := .internal, tickDivisor := Config.fastDivisor, wakeTimer := none }).recomputeBoth).latch .wake)
      rfl (fun l => stopped ▸ h.modes l) h.table ⟨h.bounds.heat, h.bounds.fifo, h.bounds.count, h.bounds.last⟩
    generalize leaveWatch (leaveWatch _ .A) .B = a at o r ⊢
    have confirmed : Keeps a (confirmCall (confirmCall a .A) .B) := .trans (confirmCall_keeps ..) (confirmCall_keeps ..)
    refine Keeps.orderly (.trans (confirmed.trans (.ite (fun _ => ?_) fun _ => .refl _)) (settle_keeps _)) o
    exact .trans (beginQualifying_keeps (confirmed.running.trans r)) (recomputeBoth_keeps _)

end Sys2Proof.Machine
end


section
/-! SUPPORT. The commands keep the modes of the receivers, the code table and the bounded figures. -/

namespace Sys2Proof.Machine

open Sys2Proof

variable {on : LineId → Prop} {s t u : State} {l k : LineId}

/-- A command's answer: it is refused with nothing changed, or carried out, wholly or until the store is full, to a state
with P. -/
inductive Answered (P : State → Prop) (s : State) : Reply → Prop where
  | refused (st : Status) : Answered P s (.refuse s st)
  | ok {t : State} {p : List Byte} (h : P t) : Answered P s (.ok t p)
  | full {t : State} {p : List Byte} (h : P t) : Answered P s ⟨t, .storeFull, p⟩

namespace Answered

variable {P Q : State → Prop} {r a b : Reply}

theorem ite {c : Prop} [Decidable c] (h : c → Answered P s a) (k : ¬ c → Answered P s b) :
    Answered P s (if c then a else b) := by
  split
  · next x => exact h x
  · next x => exact k x

theorem mono (h : Answered P s r) (k : ∀ t, P t → Q t) : Answered Q s r := by
  cases h with
  | refused st => exact .refused st
  | ok h => exact .ok (k _ h)
  | full h => exact .full (k _ h)

theorem state (h : Answered P s r) (k : P s) : P r.st := by
  cases h with
  | refused st => exact k
  | ok h => exact h
  | full h => exact h

/-- A payload that does not parse is refused; else the answer is the command's own. -/
theorem withArgs {α : Type} {read : List Byte → Option α} {p : List Byte} {f : α → Reply}
    (h : ∀ a, read p = some a → Answered P s (f a)) : Answered P s (withArgs read p s f) := by
  unfold Machine.withArgs
  split
  · exact .refused _
  · next x => exact h _ x

end Answered

/-! ## Commands that only report or configure -/

variable (p : List Byte) (s : State)

theorem cmdIdentify_keeps : Answered (KeepsOn on s) s (cmdIdentify p s) := .withArgs fun _ _ => .ok (.refl s)
theorem cmdReadEvents_keeps : Answered (KeepsOn on s) s (cmdReadEvents p s) :=
  .withArgs fun _ _ => .ok (onCpe_keeps ..)
theorem cmdSetEventMask_keeps : Answered (KeepsOn on s) s (cmdSetEventMask p s) :=
  .withArgs fun _ _ => .ok (onCpe_keeps ..)
theorem cmdTimebaseStatus_keeps : Answered (KeepsOn on s) s (cmdTimebaseStatus p s) :=
  .withArgs fun _ _ => .ok (.refl s)
theorem cmdLineStatus_keeps : Answered (KeepsOn on s) s (cmdLineStatus p s) := .withArgs fun _ _ => .ok (.refl s)
theorem cmdLineStatistics_keeps : Answered (KeepsOn on s) s (cmdLineStatistics p s) :=
  .withArgs fun _ _ => .ok (onStats_keeps ..)
theorem cmdSetIdentity_keeps : Answered (KeepsOn on s) s (cmdSetIdentity p s) := .withArgs fun _ _ => .ok .of_rest
theorem cmdSetSupervision_keeps : Answered (KeepsOn on s) s (cmdSetSupervision p s) :=
  .withArgs fun ⟨l, _⟩ _ => .ok (onCsv_keeps s l fun _ => rfl)
theorem cmdCallStatus_keeps : Answered (KeepsOn on s) s (cmdCallStatus p s) := .withArgs fun _ _ => .ok (.refl s)
theorem cmdSetExchange_keeps : Answered (KeepsOn on s) s (cmdSetExchange p s) := .withArgs fun _ _ => .ok .of_rest
theorem cmdStoreStatus_keeps : Answered (KeepsOn on s) s (cmdStoreStatus p s) := .withArgs fun _ _ => .ok .of_rest
theorem cmdSetStore_keeps : Answered (KeepsOn on s) s (cmdSetStore p s) :=
  .withArgs fun _ _ => .ok (.trans .of_rest (evalLow_step _).keeps)
theorem cmdSetAttendance_keeps : Answered (KeepsOn on s) s (cmdSetAttendance p s) := .withArgs fun _ _ => .ok .of_rest
theorem cmdSetRoute_keeps : Answered (KeepsOn on s) s (cmdSetRoute p s) := .withArgs fun ⟨_, _, _⟩ _ => .ok .of_rest
theorem cmdSetFraming_keeps : Answered (KeepsOn on s) s (cmdSetFraming p s) :=
  .withArgs fun ⟨_, _⟩ _ => .ite (fun _ => .ok .of_rest) fun _ => .refused _
theorem cmdSetKeymap_keeps : Answered (KeepsOn on s) s (cmdSetKeymap p s) :=
  .withArgs fun _ _ => .ok (onKbs_keeps s (followRepeat_fifo _))
theorem cmdSetKeyboard_keeps : Answered (KeepsOn on s) s (cmdSetKeyboard p s) :=
  .withArgs fun _ _ => .ok (onKbs_keeps s rfl)
theorem cmdKeyboardStatus_keeps : Answered (KeepsOn on s) s (cmdKeyboardStatus p s) :=
  .withArgs fun _ _ => .ok (onKbs_keeps s rfl)
theorem cmdPrinterStatus_keeps : Answered (KeepsOn on s) s (cmdPrinterStatus p s) := .withArgs fun _ _ => .ok (.refl s)
theorem cmdPunchStatus_keeps : Answered (KeepsOn on s) s (cmdPunchStatus p s) := .withArgs fun _ _ => .ok (onPuc_keeps ..)
theorem cmdSetMotors_keeps : Answered (KeepsOn on s) s (cmdSetMotors p s) :=
  .withArgs fun ⟨_, _, _, _⟩ _ => .ok (onMotor_keeps ..)
theorem cmdMotorHold_keeps : Answered (KeepsOn on s) s (cmdMotorHold p s) :=
  .withArgs fun ⟨_, _⟩ _ => .ok (.trans (onMotor_keeps ..) (settle_keeps _))
theorem cmdMotorStatus_keeps : Answered (KeepsOn on s) s (cmdMotorStatus p s) := .withArgs fun _ _ => .ok .of_rest
theorem cmdMsgInfo_keeps : Answered (KeepsOn on s) s (cmdMsgInfo p s) := .withArgs fun _ _ => .ok (.refl s)

theorem cmdQueueList_keeps : Answered (KeepsOn on s) s (cmdQueueList p s) := by
  refine .withArgs fun x _ => ?_
  cases x <;> exact .ok (.refl s)

theorem cmdMsgRead_keeps : Answered (KeepsOn on s) s (cmdMsgRead p s) := by
  refine .withArgs fun ⟨i, _, _⟩ _ => ?_
  dsimp only
  split
  · exact .refused _
  · exact .ite (fun _ => .refused _) fun _ => .ok (.refl s)

theorem cmdPrinterSetTop_keeps : Answered (KeepsOn on s) s (cmdPrinterSetTop p s) := by
  refine .withArgs fun x _ => .ite (fun _ => .refused _) fun _ => .ok (onPrc_keeps s ?_ ?_ ?_) <;> split <;> rfl

theorem cmdSetPunch_keeps : Answered (KeepsOn on s) s (cmdSetPunch p s) :=
  .withArgs fun _ _ => .ite (fun _ => .refused _) fun _ => .ok (onPuc_keeps ..)

/-- The printed count is brought within the new line length (R158). -/
theorem cmdSetPrinter_keeps : Answered (KeepsOn on s) s (cmdSetPrinter p s) :=
  .withArgs fun _ _ => .ite (fun _ => .refused _) fun _ =>
    .ok ⟨rfl, rfl, fun h => ⟨h.heat, h.fifo, Nat.min_le_right .., h.last⟩, fun _ _ h => h⟩

theorem clearMechFault_keeps (k : Mech) : KeepsOn on s (clearMechFault s k) := by
  cases k
  · exact .ite (fun _ => .of_rest) fun _ => .refl s
  · exact .of_rest

theorem cmdMechResume_keeps : Answered (KeepsOn on s) s (cmdMechResume p s) :=
  .withArgs fun _ _ => .ite (fun _ => .ok (.trans (.trans (clearMechFault_keeps ..) (onMotor_keeps ..)) (settle_keeps _)))
    fun _ => .refused _

/-! ## The store's commands (R57 to R72, R80) -/

theorem cmdMsgCreate_keeps : Answered (KeepsOn on s) s (cmdMsgCreate p s) := by
  refine .withArgs fun ⟨_, _⟩ _ => .ite (fun _ => .refused _) fun _ => ?_
  split
  · exact .refused _
  · next h => exact .ok (openRecord_step h).keeps

theorem cmdMsgClose_keeps : Answered (KeepsOn on s) s (cmdMsgClose p s) := by
  refine .withArgs fun i _ => ?_
  split
  · exact .refused _
  · exact .ite (fun _ => .ok (.trans (closeRecord_step ..).keeps (settleAll_keeps _))) fun _ => .refused _

theorem cancelRecord_step (s : State) (i : Nat) : StoreStep s (cancelRecord s i) :=
  .trans (.trans (.trans (onRecord_step ..) (unlink_step ..)) (settleSequence_step ..)) (releaseIfDone_step ..)

theorem cmdMsgDelete_keeps : Answered (KeepsOn on s) s (cmdMsgDelete p s) := by
  refine .withArgs fun i _ => ?_
  split
  · exact .refused _
  · exact .ite (fun _ => .ok (.refl s)) fun _ => .ok (.trans (cancelRecord_step ..).keeps (settleAll_keeps _))

theorem foldl_step {α : Type} {f : State → α → State} (h : ∀ s a, StoreStep s (f s a)) (as : List α) (s : State) :
    StoreStep s (as.foldl f s) := by
  induction as generalizing s with
  | nil => exact .refl s
  | cons a as ih => exact (h s a).trans (ih _)

theorem removeDest_step (i : Nat) (gone : DestSet) (s : State) (d : Deliv) : StoreStep s (removeDest i gone s d) := by
  unfold removeDest
  split
  · exact .refl s
  · exact .ite ((setRecord_step ..).trans (dequeue_step ..)) (.refl s)

theorem addDest_step (i : Nat) (more : DestSet) (s : State) (d : Deliv) : StoreStep s (addDest i more s d) := by
  unfold addDest
  split
  · exact .refl s
  · next r _ =>
    have a : StoreStep s (s.setRecord i (some { r with dests := r.dests.on d, cursor := r.cursor.set d 0 })) :=
      setRecord_step ..
    exact .ite (.ite (a.trans (enqueue_step ..)) a) (.refl s)

theorem rerouteRecord_step (s : State) (i : Nat) (more gone : DestSet) : StoreStep s (rerouteRecord s i more gone) := by
  unfold rerouteRecord
  have removed : StoreStep s (Deliv.list.foldl (removeDest i gone) s) := foldl_step (removeDest_step i gone) ..
  generalize Deliv.list.foldl (removeDest i gone) s = t at removed ⊢
  exact removed.trans (.trans (.trans (onRecord_step ..) (foldl_step (addDest_step i more) ..)) (releaseIfDone_step ..))

theorem cmdMsgReroute_keeps : Answered (KeepsOn on s) s (cmdMsgReroute p s) := by
  refine .withArgs fun ⟨i, more, gone⟩ _ => ?_
  dsimp only
  split
  · exact .refused _
  · exact .ite (fun _ => .refused _) fun _ => .ite (fun _ => .refused _) fun _ =>
      .ok (.trans (rerouteRecord_step ..).keeps (settleAll_keeps _))

theorem clearStore_keeps : KeepsOn on s (clearStore s) :=
  .ite (fun _ => .trans .of_rest (unreservedRose_step _).keeps) fun _ => .trans .of_rest (evalLow_step _).keeps

theorem cmdStoreClear_keeps : Answered (KeepsOn on s) s (cmdStoreClear p s) :=
  .withArgs fun _ _ => .ite (fun _ => .refused _) fun _ => .ok (.trans (clearStore_keeps s) (settle_keeps _))

theorem Appending.split_step (a : Appending) : StoreStep a.st a.split.st := by
  unfold Appending.split
  split
  · exact splitRecord_step ..
  · exact .refl _

theorem Appending.continue_step {a b : Appending} (h : a.continue = some b) : StoreStep a.st b.st := by
  unfold Appending.continue at h
  split at h
  · cases h; exact .refl _
  · split at h
    · cases h
    · next k => cases h; exact openRecord_step k

/-- MSG_APPEND's loop is never refused: it ends with OK or with STORE_FULL. -/
theorem appendLoop_keeps (cs : List Chr) {a : Appending} (h : KeepsOn on s a.st) :
    Answered (KeepsOn on s) s (appendLoop a cs) := by
  have full {a : Appending} (h : KeepsOn on s a.st) : Answered (KeepsOn on s) s a.full := .full (h.trans (settleAll_keeps _))
  induction cs generalizing a with
  | nil =>
    unfold appendLoop
    split
    · exact full h
    · next k => exact .ok (.trans (h.trans (Appending.continue_step k).keeps) (settleAll_keeps _))
  | cons c cs ih =>
    have split : KeepsOn on s a.split.st := h.trans a.split_step.keeps
    unfold appendLoop
    refine .ite (fun _ => ih h) fun _ => ?_
    dsimp only
    split
    · exact full split
    · next k =>
      have cont := split.trans (Appending.continue_step k).keeps
      split
      · exact full cont
      · next m => exact ih (.trans (cont.trans (appendRaw_step m).keeps) (Appending.split_step (.mk ..)).keeps)

theorem cmdMsgAppend_keeps : Answered (KeepsOn on s) s (cmdMsgAppend p s) := by
  refine .withArgs fun ⟨i, cs⟩ _ => ?_
  dsimp only
  split
  · exact .refused _
  · exact .ite (fun _ => appendLoop_keeps s cs (.refl s)) fun _ => .refused _

/-! ## The lines' commands (R33, R34, R98, R111, R116) -/

theorem setLineState_keeps (l : LineId) (cfg : LineConfig) : Keeps s (setLineState s l cfg) := by
  unfold setLineState
  split
  · exact .refl s
  iterate 2 exact enterDisabled_keeps ..
  iterate 2 exact enterFree_keeps ..
  · exact .refl s
  iterate 2 exact enterRunning_keeps ..
  all_goals exact .refl s

theorem cmdSetLine_keeps : Answered (Keeps s) s (cmdSetLine p s) :=
  .withArgs fun ⟨l, _⟩ _ => .ite (fun _ => .ok (.trans (.trans (onUnit_keeps s l fun _ => rfl) (recompute_keeps ..))
    (setLineState_keeps ..))) fun _ => .refused _

theorem enterCalling_keeps (a : CallArgs) : Keeps s (enterCalling s a) := by
  have connected : KeepsOff a.line s (connectionStart (s.enterSup a.line .calling) a.line .outgoing a.digits
      (if a.expected = [] then none else some a.expected) a.matchLen) := .trans (enterSup_off ..) (connectionStart_keeps ..)
  have state : ((connectionStart (s.enterSup a.line .calling) a.line .outgoing a.digits
      (if a.expected = [] then none else some a.expected) a.matchLen).csv a.line).state = .calling := by
    rcases a with ⟨_ | _⟩ <;> rfl
  unfold enterCalling
  dsimp only
  generalize connectionStart .. = t at connected state ⊢
  have framed : Keeps s (((t.onCsv a.line fun c => { c with phase := .confirmWait, timers :=
      { c.timers with callConfirm := some (1000 * c.values.callConfirmS) } }).order a.line .mark).onRx a.line
      Receiver.frame) := by
    refine .complete (connected.trans (.trans (.trans (onCsv_keeps t a.line fun _ => rfl) (order_keeps ..)) (onRx_off ..)))
      (onRx_follows ?_)
    have ordered (u : State) : (u.order a.line .mark).csv a.line = u.csv a.line := rfl
    rw [Receiver.frame_mode, ordered, State.onCsv_csv_same, state]
    rfl
  exact .ite (fun _ => framed.trans (callConfirmed_keeps ..)) fun _ => framed

theorem cmdCall_keeps : Answered (Keeps s) s (cmdCall p s) :=
  .withArgs fun _ _ => .ite (fun _ => .ok (enterCalling_keeps ..)) fun _ => .refused _

theorem cmdClearCall_keeps : Answered (Keeps s) s (cmdClearCall p s) :=
  .withArgs fun _ _ => .ite (fun _ => .ok (clearing_keeps ..)) fun _ => .refused _

end Sys2Proof.Machine
end


section
/-! SUPPORT. RESTART, SET_CODE_TABLE, SET_TIMEBASE, STANDBY and POWER_ON leave the modes of the receivers, the code table and
the figures right (R1, R2, R17, R27, R50, R118, R192). -/

namespace Sys2Proof.Machine

open Sys2Proof

variable {on : LineId → Prop} {s t u : State} {l k : LineId}

/-! ## RESTART (R50, R73, R94, R118, R131, R144, R162, R175, R181, R192) -/

theorem joinSends_step (s : State) (i : Nat) : StoreStep s (joinSends s i) := by
  unfold joinSends
  split
  · exact .refl s
  · next r _ =>
    split
    · exact .trans (t := if r.dests.out.sendA then enqueue s .sendA i else s) (.ite (enqueue_step ..) (.refl s))
        (.ite (enqueue_step ..) (.refl _))
    all_goals exact .refl s

theorem restartStore_keeps (s : State) : KeepsOn on s (restartStore s) := by
  have joined : StoreStep s (indices.foldl joinSends (s.onRecords fun _ r => restartRecord r)) :=
    .trans (.onRecords ..) (foldl_step joinSends_step ..)
  have released := joined.trans (foldl_step releaseIfDone_step indices _)
  unfold restartStore
  dsimp only
  generalize indices.foldl releaseIfDone _ = t at released ⊢
  exact .trans released.keeps (.trans .of_rest (evalLow_step _).keeps)

theorem restartFraming_keeps (s : State) : KeepsOn on s (restartFraming s) := .of_rest

theorem restartUnit_off (s : State) (l : LineId) : KeepsOff l s (restartUnit s l) :=
  .trans (abandonTx_keeps ..) (onRx_off ..)

theorem restartUnit_mode (s : State) (l : LineId) : ((restartUnit s l).unit l).rx.mode = .off := by
  rw [restartUnit, State.onRx_unit_same]

theorem restartUnit_other (h : k ≠ l) : ((restartUnit s l).unit k).rx.mode = (s.unit k).rx.mode := by
  rw [restartUnit, State.onRx_unit_ne _ _ h]
  unfold State.abandonTx
  split
  · rfl
  · have a := State.onUnit_unit_ne s (fun u => { u with tx := { u.tx with state := .idle, pin := u.tx.ordered } }) h
    exact congrArg (·.rx.mode) a

/-- A supervisor with its engine, before it enters its new state (R118, R131). -/
def restartBase (s : State) (l : LineId) : State :=
  (abandonExchange s l).onCsv l fun c =>
    { c with timers := .stopped, abActive := false, ending := false, phase := .none, captured := []
             exch := { c.exch with half := false, offerTimer := none, pageTimer := none, together := false } }

theorem restartSupervisor_eq (s : State) (l : LineId) : restartSupervisor s l = restartState (restartBase s l) l := rfl

theorem restartBase_keeps (s : State) (l : LineId) : KeepsOn on s (restartBase s l) :=
  .trans (abandonExchange_keeps ..) (onCsv_keeps _ l fun _ => rfl)

theorem restartState_off (s : State) (l : LineId) : KeepsOff l s (restartState s l) := by
  unfold restartState
  split
  · exact .refl s
  iterate 2 exact (enterRunning_keeps ..).off
  all_goals exact .trans (onCsv_keeps s l fun _ => rfl) (enterGuard_keeps ..).off

/-- The state that a supervisor enters sets its receiver's mode; a DISABLED one stays. -/
theorem restartState_follows (h : (s.csv l).state = .disabled → LineFollows s l) : LineFollows (restartState s l) l := by
  unfold restartState
  split
  · next e => exact h e
  iterate 2 exact .of_keeps fun _ => enterRunning_follows
  all_goals exact .of_keeps fun _ => enterGuard_follows

theorem enterRunning_csv (s : State) (h : k ≠ l) : (enterRunning s l).csv k = s.csv k := by
  unfold enterRunning
  dsimp only
  have a : ((s.enterSup l .running).onCsv l fun c => { c with
      callCount := nextCall c.callCount, direction := .none, remaining := .unlimited, ending := false,
      abActive := false }).csv k = s.csv k := by
    rw [State.onCsv_csv_ne _ _ h, State.enterSup, State.onCsv_csv_ne _ _ h]
  generalize State.onCsv _ l _ = t at a ⊢
  have b : (setReservation t l 0).csv k = s.csv k := ((setReservation_step t l 0).csv k).trans a
  have timed (v : State) (f : SupTimers → SupTimers) : (v.onTimers l f).csv k = v.csv k := State.onCsv_csv_ne _ _ h
  refine (apply_ite (State.csv · k) _ _ _).trans ?_
  rw [timed, ite_self]
  exact b

theorem enterGuard_csv (s : State) (h : k ≠ l) : (enterGuard s l).csv k = s.csv k := by
  have timed (v : State) (f : SupTimers → SupTimers) : (v.onTimers l f).csv k = v.csv k := State.onCsv_csv_ne _ _ h
  have entered : (s.enterSup l .guard).csv k = s.csv k := State.onCsv_csv_ne s _ h
  exact (timed _ fun t => { t with guard := some ((s.enterSup l .guard).csv l).values.guardMs }).trans entered

theorem restartState_csv (s : State) (h : k ≠ l) : (restartState s l).csv k = s.csv k := by
  unfold restartState
  split
  · rfl
  iterate 2 exact enterRunning_csv s h
  all_goals exact (enterGuard_csv _ h).trans (State.onCsv_csv_ne _ _ h)

/-- Both supervisors restart over receivers that are off. -/
theorem restartSupervisors_orderly (a : (s.unit .A).rx.mode = .off) (b : (s.unit .B).rx.mode = .off)
    (table : TableSound s.ctr.table) (bounds : Bounded s) :
    Orderly (restartSupervisor (restartSupervisor s .A) .B) := by
  have offA : KeepsOff .A s (restartSupervisor s .A) := .trans (restartBase_keeps ..) (restartState_off ..)
  have offB : KeepsOff .B (restartSupervisor s .A) (restartSupervisor (restartSupervisor s .A) .B) :=
    .trans (restartBase_keeps ..) (restartState_off ..)
  refine ⟨fun l => ?_, offB.table ▸ offA.table ▸ table, offB.bounds (offA.bounds bounds)⟩
  have off (l : LineId) (h : (s.unit l).rx.mode = .off) (d : (s.csv l).state = .disabled) : LineFollows s l := by
    rw [LineFollows, h, d]; rfl
  have base (t : State) (l : LineId) : ((restartBase t l).csv l).state = (t.csv l).state := by cases l <;> rfl
  cases l with
  | A =>
    refine offB.modes .A (by decide) (restartState_follows fun d => ?_)
    exact (restartBase_keeps s .A).follows (off .A a (by rw [← base]; exact d))
  | B =>
    refine restartState_follows fun d => (restartBase_keeps _ .B).follows (offA.modes .B (by decide) (off .B b ?_))
    have same : (restartSupervisor s .A).csv .B = s.csv .B :=
      (restartState_csv (k := .B) _ (by decide)).trans rfl
    rw [← same, ← base]
    exact d

theorem restartPart_orderly (h : Orderly s) : Orderly (restartPart s) := by
  have kept : KeepsOn (fun _ => False) s (restartUnit (restartUnit (restartFraming (restartStore s)) .A) .B) :=
    .trans (.trans (restartStore_keeps s) (restartFraming_keeps _))
      (.trans ((restartUnit_off _ .A).mono fun _ => False.elim) ((restartUnit_off _ .B).mono fun _ => False.elim))
  have offA : ((restartUnit (restartUnit (restartFraming (restartStore s)) .A) .B).unit .A).rx.mode = .off :=
    (restartUnit_other (by decide)).trans (restartUnit_mode ..)
  have offB : ((restartUnit (restartUnit (restartFraming (restartStore s)) .A) .B).unit .B).rx.mode = .off :=
    restartUnit_mode ..
  unfold restartPart
  dsimp only
  generalize restartUnit (restartUnit _ _) _ = t at kept offA offB ⊢
  have bounds := kept.bounds h.bounds
  refine Keeps.orderly (.trans (settle_keeps _) (onCpe_keeps ..)) (restartSupervisors_orderly offA offB ?_ ?_)
  · exact kept.table ▸ h.table
  · exact ⟨bounds.heat, Nat.zero_le _, bounds.count, bounds.last⟩

theorem cmdRestart_orderly (p : List Byte) (s : State) : Answered (fun t => Orderly s → Orderly t) s (cmdRestart p s) :=
  .withArgs fun _ _ => .ok restartPart_orderly

/-! ## The code table and the timebase (R1, R2, R17, R26, R27) -/

theorem cmdSetCodeTable_orderly (p : List Byte) (s : State) :
    Answered (fun t => Orderly s → Orderly t) s (cmdSetCodeTable p s) := by
  refine .withArgs fun ⟨sub, es⟩ k => .ok fun h => Keeps.orderly (settleAll_keeps _) ⟨h.modes, ?_, ?_⟩
  · obtain ⟨n, rest, -, -, -, -, -, read⟩ := (readCodeTable_iff p sub es).mp k
    exact tableSound_load (readCodeEntries_fits read) h.table
  · exact ⟨h.bounds.heat, h.bounds.fifo, h.bounds.count, h.bounds.last⟩

theorem cmdSetTimebase_keeps (p : List Byte) (s : State) :
    Answered (fun t => s.running = true → KeepsOn on s t) s (cmdSetTimebase p s) := by
  refine .withArgs fun ⟨src, f⟩ _ => .ok fun r => .trans ?_ (recomputeBoth_keeps _)
  have set : KeepsOn on s (s.onTbu fun t => { t with fRef := if f = 0 then t.fRef else f, reason := .none }) :=
    onTbu_keeps s rfl
  cases src with
  | reference => exact set.trans (beginQualifying_keeps r)
  | internal => exact set.trans (onTbu_keeps _ (by exact r.symm))

/-- When line ticks cease, the RUNNING lines watch. -/
theorem enterWatch_orderly (r : s.running = false) (h : ∀ l, (s.unit l).rx.mode = (s.csv l).state.rxMode true)
    (table : TableSound s.ctr.table) (bounds : Bounded s) : Orderly (enterWatch (enterWatch s .A) .B) := by
  have offA := enterWatch_off s .A
  have offB := enterWatch_off (enterWatch s .A) .B
  have ⟨unitB, csvB⟩ := enterWatch_other (s := s) (l := .A) (k := .B) (by decide)
  refine ⟨fun l => ?_, offB.table ▸ offA.table ▸ table, offB.bounds (offA.bounds bounds)⟩
  cases l with
  | A => exact offB.modes .A (by decide) (enterWatch_follows r (h .A))
  | B => exact enterWatch_follows (offA.running.trans r) (by rw [unitB, csvB]; exact h .B)

theorem standbyEntry_orderly (exit : TbSource) (r : s.running = true) (h : Orderly s) : Orderly (standbyEntry exit s) :=
  enterWatch_orderly rfl (fun l => r ▸ h.modes l) h.table ⟨h.bounds.heat, h.bounds.fifo, h.bounds.count, h.bounds.last⟩

theorem cmdStandby_orderly (p : List Byte) (s : State) :
    Answered (fun t => s.running = true → Orderly s → Orderly t) s (cmdStandby p s) :=
  .withArgs fun _ _ => .ite (fun _ => .refused _) fun _ => .ite (fun _ => .ok (standbyEntry_orderly _))
    fun _ => .refused _

end Sys2Proof.Machine
end


section
/-! SUPPORT. Every step keeps the modes of the receivers, the code table and the figures: the commands by name, the port,
power-on and the rows. -/

namespace Sys2Proof.Machine

open Sys2Proof

variable {s t : State}

/-- What each command answers; in a part that runs it keeps the modes, the table and the figures. -/
theorem runCmd_answered (c : Command) (p : List Byte) (s : State) :
    Answered (fun t => s.running = true → Orderly s → Orderly t) s (runCmd c p s) := by
  have keeps {x : Reply} (a : Answered (Keeps s) s x) :
      Answered (fun t => s.running = true → Orderly s → Orderly t) s x := a.mono fun _ k _ h => k.orderly h
  cases c with
  | identify => exact keeps (cmdIdentify_keeps p s)
  | restart => exact (cmdRestart_orderly p s).mono fun _ k _ => k
  | readEvents => exact keeps (cmdReadEvents_keeps p s)
  | setEventMask => exact keeps (cmdSetEventMask_keeps p s)
  | standby => exact cmdStandby_orderly p s
  | setTimebase => exact (cmdSetTimebase_keeps p s).mono fun _ k r h => Keeps.orderly (k r) h
  | timebaseStatus => exact keeps (cmdTimebaseStatus_keeps p s)
  | setCodeTable => exact (cmdSetCodeTable_orderly p s).mono fun _ k _ => k
  | setLine => exact keeps (cmdSetLine_keeps p s)
  | lineStatus => exact keeps (cmdLineStatus_keeps p s)
  | lineStatistics => exact keeps (cmdLineStatistics_keeps p s)
  | setIdentity => exact keeps (cmdSetIdentity_keeps p s)
  | setSupervision => exact keeps (cmdSetSupervision_keeps p s)
  | call => exact keeps (cmdCall_keeps p s)
  | clearCall => exact keeps (cmdClearCall_keeps p s)
  | callStatus => exact keeps (cmdCallStatus_keeps p s)
  | setExchange => exact keeps (cmdSetExchange_keeps p s)
  | msgCreate => exact keeps (cmdMsgCreate_keeps p s)
  | msgAppend => exact keeps (cmdMsgAppend_keeps p s)
  | msgClose => exact keeps (cmdMsgClose_keeps p s)
  | msgRead => exact keeps (cmdMsgRead_keeps p s)
  | msgInfo => exact keeps (cmdMsgInfo_keeps p s)
  | msgDelete => exact keeps (cmdMsgDelete_keeps p s)
  | msgReroute => exact keeps (cmdMsgReroute_keeps p s)
  | queueList => exact keeps (cmdQueueList_keeps p s)
  | storeStatus => exact keeps (cmdStoreStatus_keeps p s)
  | storeClear => exact keeps (cmdStoreClear_keeps p s)
  | setStore => exact keeps (cmdSetStore_keeps p s)
  | setAttendance => exact keeps (cmdSetAttendance_keeps p s)
  | setRoute => exact keeps (cmdSetRoute_keeps p s)
  | setFraming => exact keeps (cmdSetFraming_keeps p s)
  | setKeymap => exact keeps (cmdSetKeymap_keeps p s)
  | setKeyboard => exact keeps (cmdSetKeyboard_keeps p s)
  | keyboardStatus => exact keeps (cmdKeyboardStatus_keeps p s)
  | setPrinter => exact keeps (cmdSetPrinter_keeps p s)
  | printerSetTop => exact keeps (cmdPrinterSetTop_keeps p s)
  | printerStatus => exact keeps (cmdPrinterStatus_keeps p s)
  | mechResume => exact keeps (cmdMechResume_keeps p s)
  | setPunch => exact keeps (cmdSetPunch_keeps p s)
  | punchStatus => exact keeps (cmdPunchStatus_keeps p s)
  | setMotors => exact keeps (cmdSetMotors_keeps p s)
  | motorHold => exact keeps (cmdMotorHold_keeps p s)
  | motorStatus => exact keeps (cmdMotorStatus_keeps p s)

/-! ## The port (R183 to R187, R191, R192) -/

theorem runCmd_ready_orderly (c : Command) (p : List Byte) (r : s.running = true) (h : Orderly s) :
    Orderly (runCmd c p s).ready :=
  Keeps.orderly (onCpe_keeps ..) ((runCmd_answered c p s).state (fun _ h => h) r h)

theorem takeGood_orderly (c : Command) (p : List Byte) (h : Orderly s) : Orderly (takeGood c p (runCmd c p) s) := by
  have w : Orderly (s.requestWake .console) := Keeps.orderly (requestWake_keeps s .console) h
  unfold takeGood
  dsimp only
  split
  · split
    · next r => exact runCmd_ready_orderly c p r w
    · exact Keeps.orderly (onCpe_keeps ..) w
  all_goals exact Keeps.orderly (latch_keeps ..) w

theorem takeBad_keeps (s : State) : Keeps s (takeBad s) := by
  unfold takeBad
  dsimp only
  split
  · exact .trans (requestWake_keeps ..) (onCpe_keeps ..)
  all_goals exact .trans (requestWake_keeps ..) (latch_keeps ..)

theorem consoleRow_orderly (c : Command) (p : List Byte) (h : Orderly s) : Orderly (consoleRow c (runCmd c) p s) := by
  have z (n : Nat) : Orderly (s.zeros n) := Keeps.orderly (onCpe_keeps ..) h
  unfold consoleRow
  dsimp only
  split
  · exact h
  · split
    · exact takeGood_orderly c p (z _)
    · exact (takeBad_keeps _).orderly (z _)

theorem responseTransfer_keeps (n : Nat) (s : State) : Keeps s (responseTransfer n s) :=
  .ite (fun _ => .refl s) fun _ => onCpe_keeps ..

theorem commandTransfer_orderly (mosi : List Byte) (h : Orderly s) : Orderly (commandTransfer mosi s) := by
  have z (n : Nat) : Orderly (s.zeros n) := Keeps.orderly (onCpe_keeps ..) h
  unfold commandTransfer
  split
  · exact h
  · split
    · exact h
    · split
      · split
        · exact takeGood_orderly _ _ (z _)
        · exact (takeBad_keeps _).orderly (z _)
      · split
        · exact (responseTransfer_keeps ..).orderly h
        · exact h

theorem heldCommandExecute_orderly (h : Orderly s) : Orderly (heldCommandExecute s) := by
  unfold heldCommandExecute
  split
  · split
    · next r => exact runCmd_ready_orderly _ _ r h
    · exact h
  all_goals exact h

/-- The power-on table holds the fixed entries, and nothing else (R1). -/
theorem powerOnTable_sound : TableSound powerOnTable := by
  have letters : ∀ k < 32, fixedComb k = false → (tableEntry powerOnTable k .letters).legal = true := by decide
  have figures : ∀ k < 32, fixedComb k = false → (tableEntry powerOnTable k .figures).legal = true := by decide
  refine ⟨rfl, fun k sh hk => ?_⟩
  split
  · rfl
  · next f =>
    cases sh
    · exact letters k hk (by simpa using f)
    · exact figures k hk (by simpa using f)

theorem powerOnState_orderly (straps : BitVec 5) : Orderly (State.powerOn straps) where
  modes l := by cases l <;> rfl
  table := powerOnTable_sound
  bounds := ⟨Nat.zero_le _, Nat.zero_le _, Nat.zero_le _, Nat.zero_le _⟩

theorem powerOn_orderly (straps : BitVec 5) (s : State) : Orderly (powerOn straps s) := by
  have pinned : Keeps (State.powerOn straps) (powerOn straps s) :=
    .of_parts fun l _ => by cases l <;> exact ⟨rfl, rfl⟩
  exact pinned.orderly (powerOnState_orderly straps)

/-! ## Every row -/

theorem exec_orderly {i : Instr} (e : exec i s = .next t) (h : Orderly s) : Orderly t := by
  cases i with
  | powerOn straps => cases e; exact powerOn_orderly straps s
  | commandTransfer mosi => cases e; exact commandTransfer_orderly mosi h
  | responseTransfer clocked => cases e; exact (responseTransfer_keeps ..).orderly h
  | heldCommandExecute => cases e; exact heldCommandExecute_orderly h
  | resetnAsserted => cases e; exact Keeps.orderly (onCpe_keeps ..) h
  | identify p => cases e; exact consoleRow_orderly .identify p h
  | restart p => cases e; exact consoleRow_orderly .restart p h
  | readEvents p => cases e; exact consoleRow_orderly .readEvents p h
  | setEventMask p => cases e; exact consoleRow_orderly .setEventMask p h
  | standby p => cases e; exact consoleRow_orderly .standby p h
  | setTimebase p => cases e; exact consoleRow_orderly .setTimebase p h
  | timebaseStatus p => cases e; exact consoleRow_orderly .timebaseStatus p h
  | setCodeTable p => cases e; exact consoleRow_orderly .setCodeTable p h
  | setLine p => cases e; exact consoleRow_orderly .setLine p h
  | lineStatus p => cases e; exact consoleRow_orderly .lineStatus p h
  | lineStatistics p => cases e; exact consoleRow_orderly .lineStatistics p h
  | setIdentity p => cases e; exact consoleRow_orderly .setIdentity p h
  | setSupervision p => cases e; exact consoleRow_orderly .setSupervision p h
  | call p => cases e; exact consoleRow_orderly .call p h
  | clearCall p => cases e; exact consoleRow_orderly .clearCall p h
  | callStatus p => cases e; exact consoleRow_orderly .callStatus p h
  | setExchange p => cases e; exact consoleRow_orderly .setExchange p h
  | msgCreate p => cases e; exact consoleRow_orderly .msgCreate p h
  | msgAppend p => cases e; exact consoleRow_orderly .msgAppend p h
  | msgClose p => cases e; exact consoleRow_orderly .msgClose p h
  | msgRead p => cases e; exact consoleRow_orderly .msgRead p h
  | msgInfo p => cases e; exact consoleRow_orderly .msgInfo p h
  | msgDelete p => cases e; exact consoleRow_orderly .msgDelete p h
  | msgReroute p => cases e; exact consoleRow_orderly .msgReroute p h
  | queueList p => cases e; exact consoleRow_orderly .queueList p h
  | storeStatus p => cases e; exact consoleRow_orderly .storeStatus p h
  | storeClear p => cases e; exact consoleRow_orderly .storeClear p h
  | setStore p => cases e; exact consoleRow_orderly .setStore p h
  | setAttendance p => cases e; exact consoleRow_orderly .setAttendance p h
  | setRoute p => cases e; exact consoleRow_orderly .setRoute p h
  | setFraming p => cases e; exact consoleRow_orderly .setFraming p h
  | setKeymap p => cases e; exact consoleRow_orderly .setKeymap p h
  | setKeyboard p => cases e; exact consoleRow_orderly .setKeyboard p h
  | keyboardStatus p => cases e; exact consoleRow_orderly .keyboardStatus p h
  | setPrinter p => cases e; exact consoleRow_orderly .setPrinter p h
  | printerSetTop p => cases e; exact consoleRow_orderly .printerSetTop p h
  | printerStatus p => cases e; exact consoleRow_orderly .printerStatus p h
  | mechResume p => cases e; exact consoleRow_orderly .mechResume p h
  | setPunch p => cases e; exact consoleRow_orderly .setPunch p h
  | punchStatus p => cases e; exact consoleRow_orderly .punchStatus p h
  | setMotors p => cases e; exact consoleRow_orderly .setMotors p h
  | motorHold p => cases e; exact consoleRow_orderly .motorHold p h
  | motorStatus p => cases e; exact consoleRow_orderly .motorStatus p h
  | millisecondTick pins => cases e; exact Keeps.orderly (millisecondTick_keeps ..) h
  | lineTick l lv => cases e; exact Keeps.orderly (lineTick_keeps ..) h
  | qualificationEnd count => cases e; exact Keeps.orderly (qualificationEnd_keeps ..) h
  | referenceLost => cases e; exact Keeps.orderly (referenceLost_keeps _) h
  | calibrationStart => cases e; exact Keeps.orderly (.ite (fun _ => onTbu_keeps s rfl) fun _ => .refl s) h
  | calibrationEnd nInt => cases e; exact Keeps.orderly (calibrationEnd_keeps nInt s) h
  | wakeComplete => cases e; exact wakeComplete_orderly h
  | txCharacterStart l => cases e; exact Keeps.orderly (txCharacterStart_keeps ..) h
  | txCharacterEnd l => cases e; exact Keeps.orderly (txCharacterEnd_keeps ..) h
  | rxStartElement l => exact Keeps.orderly (rxStartElement_keeps l s e) h
  | startCheck l => cases e; exact Keeps.orderly (startCheck_keeps ..) h
  | stopSample l => cases e; exact Keeps.orderly (stopSample_keeps ..) h
  | spaceHeldEnd l => cases e; exact Keeps.orderly (spaceHeldEnd_keeps ..) h
  | conditionChange l => cases e; exact Keeps.orderly (conditionChange_keeps ..) h
  | watchSpace l => cases e; exact Keeps.orderly (watchSpace_keeps ..) h
  | turnaroundEnd l => cases e; exact h
  | sendGrant l => cases e; exact Keeps.orderly (sendGrant_keeps ..) h
  | messageGapExpiry l => cases e; exact Keeps.orderly (messageGapExpiry_keeps ..) h
  | callRecognizeExpiry l => cases e; exact Keeps.orderly (callRecognizeExpiry_keeps ..) h
  | confirmExpiry l => cases e; exact Keeps.orderly (confirmExpiry_keeps ..) h
  | prepExpiry l k => cases e; exact Keeps.orderly (prepExpiry_keeps ..) h
  | clearRecognizeExpiry l => cases e; exact Keeps.orderly (clearRecognizeExpiry_keeps ..) h
  | clearConfirmExpiry l => cases e; exact Keeps.orderly (clearConfirmExpiry_keeps ..) h
  | guardExpiry l => cases e; exact Keeps.orderly (guardExpiry_keeps ..) h
  | callConfirmExpiry l => cases e; exact Keeps.orderly (callConfirmExpiry_keeps ..) h
  | proceedExpiry l => cases e; exact Keeps.orderly (proceedExpiry_keeps ..) h
  | connectExpiry l => cases e; exact Keeps.orderly (connectExpiry_keeps ..) h
  | progressQuietExpiry l => cases e; exact Keeps.orderly (progressQuietExpiry_keeps ..) h
  | captureQuietExpiry l => cases e; exact Keeps.orderly (captureQuietExpiry_keeps ..) h
  | idleTimeoutExpiry l => cases e; exact Keeps.orderly (idleTimeoutExpiry_keeps ..) h
  | outgoingCallEnd l => cases e; exact Keeps.orderly (outgoingCallEnd_keeps ..) h
  | privateFaultExpiry l => cases e; exact Keeps.orderly (privateFaultExpiry_keeps ..) h
  | privateRecoveryExpiry l => cases e; exact Keeps.orderly (privateRecoveryExpiry_keeps ..) h
  | offerWaitExpiryAnswering l => cases e; exact Keeps.orderly (offerWaitExpiryAnswering_keeps ..) h
  | offerWaitExpiryCalling l => cases e; exact Keeps.orderly (offerWaitExpiryCalling_keeps ..) h
  | pageTimerExpiry l => cases e; exact Keeps.orderly (pageTimerExpiry_keeps ..) h
  | keyboardScan closed => cases e; exact Keeps.orderly (keyboardScan_keeps ..) h
  | keyFifoDrain => cases e; exact Keeps.orderly (.trans (drainKeys_keeps ..) (settleAll_keeps _)) h
  | repeatExpiry => cases e; exact Keeps.orderly (repeatExpiry_keeps _) h
  | bellPulseEnd => cases e; exact Keeps.orderly (.ite (fun _ => onKbs_keeps s rfl) fun _ => .refl s) h
  | keyboardIdle => cases e; exact h
  | printGrant => cases e; exact Keeps.orderly (printGrant_keeps _) h
  | printOperationIssue => cases e; exact Keeps.orderly (printOperationIssue_keeps _) h
  | prdy => cases e; exact Keeps.orderly (prdy_keeps _) h
  | printOperationTimeout => cases e; exact Keeps.orderly (printOperationTimeout_keeps _) h
  | yieldExpiry => cases e; exact Keeps.orderly (yieldExpiry_keeps _) h
  | heatDecay => cases e; exact Keeps.orderly (heatDecay_keeps _) h
  | printerSensorQualified k => cases e; exact Keeps.orderly (printerSensorQualified_keeps ..) h
  | printerHoldRelease => cases e; exact Keeps.orderly (printerHoldRelease_keeps _) h
  | printAbandonEnd ready => cases e; exact Keeps.orderly (printAbandonEnd_keeps ..) h
  | punchGrant => cases e; exact Keeps.orderly (punchGrant_keeps _) h
  | punchOperationIssue => cases e; exact Keeps.orderly (punchOperationIssue_keeps _) h
  | urdy sensed => cases e; exact Keeps.orderly (urdy_keeps ..) h
  | punchOperationTimeout => cases e; exact Keeps.orderly (punchOperationTimeout_keeps _) h
  | punchSensorQualified k => cases e; exact Keeps.orderly (punchSensorQualified_keeps ..) h
  | punchHoldRelease => cases e; exact Keeps.orderly (punchHoldRelease_keeps _) h
  | punchAbandonEnd ready => cases e; exact Keeps.orderly (punchAbandonEnd_keeps ..) h
  | speedQualified k => cases e; exact Keeps.orderly (speedQualified_keeps ..) h
  | startLimitExpiry k => cases e; exact Keeps.orderly (startLimitExpiry_keeps ..) h
  | idleLowExpiry k => cases e; exact Keeps.orderly (idleLowExpiry_keeps ..) h
  | idleStopExpiry k => cases e; exact Keeps.orderly (idleStopExpiry_keeps ..) h

theorem step_orderly (e : step s = .next t) (h : Orderly s) : Orderly t := by
  unfold step at e
  split at e
  · cases e; exact h
  · exact exec_orderly e (Keeps.orderly .of_rest h)

/-! ## A command's row (R183, R185) -/

theorem Command.exec_row (c : Command) (p : List Byte) (s : State) :
    exec (c.row p) s = .next (consoleRow c (runCmd c) p s) := by
  cases c <;> rfl

/-- A command that is refused leaves everything but the port, and answers no payload. -/
theorem consoleRow_answered (c : Command) (p : List Byte) (h : Ready s) (n : p.length ≤ 248) :
    ∃ st q, (consoleRow c (runCmd c) p s).cpe.port = .response st q ∧
      (st = .badArgument ∨ st = .wrongState ∨ st = .noRecord → q = [] ∧ consoleRow c (runCmd c) p s = refused p.length st s) := by
  have shape := consoleRow_refused c (runCmd c) p s h n
  rw [consoleRow_ready c (runCmd c) p s h n] at shape ⊢
  have a := runCmd_answered c p (s.zeros (3 + p.length))
  generalize runCmd c p (s.zeros (3 + p.length)) = r at a shape
  cases a with
  | refused st => exact ⟨st, [], rfl, fun _ => ⟨rfl, shape st rfl⟩⟩
  | ok _ => exact ⟨.ok, _, rfl, fun x => by simp at x⟩
  | full _ => exact ⟨.storeFull, _, rfl, fun x => by simp at x⟩

end Sys2Proof.Machine
end

section
/-! PROOF. The obligations on the modes, the code table and the bounded figures, and on refused commands. -/

open Sys2Proof Sys2Proof.Machine

/-- Settles O59: `Orderly` is what the statement asks, and every row keeps it. -/
theorem modesTableAndBoundsStay : Obligations.ModesTableAndBoundsStay := by
  intro s t modes table bounds e
  obtain ⟨m, c, b⟩ := step_orderly e ⟨(modesFollow_iff s).mp modes, table, bounds⟩
  exact ⟨(modesFollow_iff t).mpr m, c, b⟩

/-- Settles O12: no command changes anything before it refuses. -/
theorem refusedCommandsChangeNothing : Obligations.RefusedCommandsChangeNothing := by
  intro c p s h n
  obtain ⟨st, q, port, rest⟩ := consoleRow_answered c p h n
  exact ⟨_, st, q, c.exec_row p s, port, rest⟩

end


section
/-! SUPPORT. The state after power-on, block by block. -/

namespace Sys2Proof.Machine

open Sys2Proof

/-! ## The properties that every step keeps, after power-on -/

theorem powerOn_record (straps : BitVec 5) (i : Nat) : (State.powerOn straps).record i = none := by
  have stored : (State.powerOn straps).stm = .powerOn := rfl
  rw [State.record, stored, Store.powerOn, List.getElem?_replicate]
  split <;> rfl

theorem powerOn_free (k : BitVec 5) (s : State) : (powerOn k s).stm.free = List.range 512 := by
  have stored : (powerOn k s).stm = .powerOn := rfl
  rw [stored, Store.powerOn, Config.blocks]

theorem powerOn_recs (k : BitVec 5) (s : State) : (powerOn k s).stm.recs = List.replicate 48 none := by
  have stored : (powerOn k s).stm = .powerOn := rfl
  rw [stored, Store.powerOn, Config.records]

theorem powerOn_entries (straps : BitVec 5) : (State.powerOn straps).entries = [] := rfl

theorem powerOn_conserved (straps : BitVec 5) : BlocksConserved (State.powerOn straps) := by
  have stored : (State.powerOn straps).stm = .powerOn := rfl
  rw [BlocksConserved, chains, powerOn_entries, stored, Store.powerOn, List.flatMap_nil, List.append_nil]

/-! ## POWER_ON (R191, R192) -/

/-- A line after POWER_ON: DISABLED and IDLE, with nothing counted, placed or held. -/
theorem powerOn_line (k : BitVec 5) (s : State) (l : LineId) :
    let t := powerOn k s
    (t.unit l).acc = 0 ∧ (t.unit l).tx.state = .idle ∧ (t.unit l).tx.pin = .space ∧
      (t.unit l).rx.mode = .off ∧ (t.unit l).rx.age = 65535 ∧ (t.unit l).stats = ⟨0, 0, 0, 0, 0, 0, 0, 0, 0, 0, true⟩ ∧
      (t.csv l).state = .disabled ∧ (t.csv l).direction = .none ∧ (t.csv l).callCount = 0 ∧
      (t.csv l).lastClear = .none ∧ (t.csv l).refusal = .none ∧ (t.csv l).abActive = false ∧ (t.csv l).ending = false ∧
      (t.csv l).values = ⟨true, 32, 50, 500, 150, 2000, 1000, 10000, 5, 10, 60, 120, true⟩ ∧
      t.framerOf l = ⟨.idle, [], none⟩ ∧ t.framingOf l = ⟨[], [78, 78, 78, 78], 10, false⟩ ∧
      (t.selector l).grant = none ∧ (t.selector l).cutoff = none ∧ (t.selector l).companion = none ∧
      (t.selector l).deferral = false ∧ NothingPlaced t l ∧
      t.ctr.tx.get l = .unknown ∧ t.ctr.rx.get l = .unknown := by
  cases l <;> exact ⟨rfl, rfl, rfl, rfl, rfl, rfl, rfl, rfl, rfl, rfl, rfl, rfl, rfl, rfl, rfl, rfl, rfl, rfl, rfl, rfl,
    ⟨rfl, rfl⟩, rfl, rfl⟩

end Sys2Proof.Machine
end

section
/-! PROOF. The obligations on the state after power-on. -/

open Sys2Proof Sys2Proof.Machine

/-- Settles O60: the store is empty, and `powerOnState_orderly` has the modes, the table and the figures. -/
theorem invariantsHoldAfterPowerOn : Obligations.InvariantsHoldAfterPowerOn := by
  refine ⟨rfl, fun straps => ?_⟩
  obtain ⟨modes, table, bounds⟩ := powerOnState_orderly straps
  refine ⟨powerOn_conserved straps, fun i r h => ?_, rfl, (modesFollow_iff _).mpr modes, table, bounds⟩
  rw [powerOn_record] at h
  cases h

/-- Settles O3: each block's part of `State.powerOn`. -/
theorem powerOnState : Obligations.PowerOnState := by
  intro k s
  have motor (m : Mech) : ((powerOn k s).motor m).state = .stopped ∧ ((powerOn k s).motor m).request = false ∧
      ((powerOn k s).motor m).lastFault = .none ∧ ((powerOn k s).motor m).faults = 0 ∧
      ((powerOn k s).motor m).startLimitMs = 2000 ∧ ((powerOn k s).motor m).idleLowS = 5 ∧
      ((powerOn k s).motor m).idleStopS = 60 := by
    cases m <;> exact ⟨rfl, rfl, rfl, rfl, rfl, rfl, rfl⟩
  refine ⟨powerOn k s, rfl, ?_⟩
  -- the port and the timebase
  refine ⟨rfl, rfl, rfl, rfl, rfl, rfl, rfl, rfl, rfl, rfl, rfl, rfl, rfl, rfl, rfl, rfl, rfl, rfl, ?_⟩
  -- the lines, the code table
  refine ⟨rfl, rfl, powerOn_line k s, rfl, rfl, powerOnTable_sound, rfl, ?_⟩
  -- the store, the exchange, the routes
  refine ⟨powerOn_free k s, powerOn_recs k s, rfl, rfl, rfl, rfl, rfl, rfl, rfl, rfl, rfl, rfl, rfl, ?_⟩
  -- the keyboard
  refine ⟨rfl, rfl, rfl, rfl, rfl, rfl, rfl, rfl, rfl, rfl, rfl, rfl, rfl, ?_⟩
  -- the printer
  refine ⟨rfl, rfl, rfl, rfl, rfl, rfl, rfl, rfl, rfl, rfl, rfl, rfl, ?_⟩
  -- the punch and the motors
  exact ⟨rfl, rfl, rfl, rfl, rfl, rfl, rfl, rfl, rfl, rfl, motor⟩

end


section
/-! SUPPORT. The two translations of the code table and its loading (R1 to R6). -/

namespace Sys2Proof.Machine

open Sys2Proof

variable {t : List CodeEntry} {want : CodeEntry → Bool} {sh : Shift} {k : Nat}

/-! ## The transmit translation (R4, R5) -/

theorem carries_iff (c : Chr) (e : CodeEntry) : carries c e = true ↔
    c ≠ 0 ∧ (c = 5 → e.kind = .wru) ∧ (c = 7 → e.kind = .bell) ∧ (c ≠ 5 → c ≠ 7 → e.kind = .char ∧ e.chr = c) := by
  unfold carries
  split
  · next h => simp [h]
  · split
    · next h => simp [h]
    · split
      · next h => simp [h]
      · next h0 h5 h7 =>
        rw [Bool.and_eq_true, decide_eq_true_eq, decide_eq_true_eq]
        exact ⟨fun h => ⟨h0, fun x => absurd x h5, fun x => absurd x h7, fun _ _ => h⟩, fun ⟨_, _, _, h⟩ => h h5 h7⟩

theorem findComb_eq_some (hk : k < 32) (h : want (tableEntry t k sh) = true)
    (low : ∀ j < k, want (tableEntry t j sh) = false) : findComb t want sh = some k := by
  rw [findComb, List.find?_range_eq_some]
  exact ⟨h, List.mem_range.mpr hk, fun j hj => by simp [low j hj]⟩

theorem findComb_eq_none (h : ∀ k < 32, want (tableEntry t k sh) = false) : findComb t want sh = none := by
  rw [findComb, List.find?_range_eq_none]
  exact fun k hk => by simp [h k hk]

theorem searchTable_letters {j : Nat} (h : findComb t want .letters = some j) : searchTable t want =
    some ⟨BitVec.ofNat 5 j, if want (tableEntry t j .figures) then none else some .letters⟩ := by
  simp only [searchTable, h]

theorem searchTable_figures {j : Nat} (h : findComb t want .letters = none) (f : findComb t want .figures = some j) :
    searchTable t want = some ⟨BitVec.ofNat 5 j, some .figures⟩ := by
  simp only [searchTable, h, f]

theorem searchTable_none (h : findComb t want .letters = none) (f : findComb t want .figures = none) :
    searchTable t want = none := by
  simp only [searchTable, h, f]

/-! ## SET_CODE_TABLE (R1, R2) -/

/-- An entry by its place and contents, and its four bytes in a payload. -/
abbrev NamedEntry := Nat × Shift × CodeEntry

def NamedEntry.bytes (x : NamedEntry) : List Byte := e1 x.1 ++ e1 x.2.1.code ++ e1 x.2.2.kind.code ++ [x.2.2.chr.setWidth 8]
def NamedEntry.load (x : NamedEntry) : CodeLoad := (x.1 + 32 * x.2.1.code, x.2.2)

/-- R1 lets the entry be loaded where it is named. -/
def NamedEntry.allowed (x : NamedEntry) : Prop := fixedComb x.1 = false ∧ x.2.2.legal = true

theorem readCodeKind_code (k : CodeKind) :
    readCodeKind (BitVec.ofNat 8 k.code) = if k = .ltrs ∨ k = .figs then none else some k := by
  cases k <;> decide

theorem readCodeKind_mem {b : Byte} {k : CodeKind} (h : readCodeKind b = some k) : b.toNat ∈ [0, 1, 4, 5, 6, 7] := by
  unfold readCodeKind at h
  split_ifs at h <;> subst b <;> decide

theorem readCodeEntry_named (x : NamedEntry) (h : x.1 < 32) (y : CodeLoad) :
    readCodeEntry (BitVec.ofNat 8 x.1) (BitVec.ofNat 8 x.2.1.code) (BitVec.ofNat 8 x.2.2.kind.code) (x.2.2.chr.setWidth 8) =
      some y ↔ x.allowed ∧ y = x.load := by
  obtain ⟨k, sh, kind, chr⟩ := x
  have comb : (BitVec.ofNat 8 k).toNat = k := by simp; omega
  have shift : (BitVec.ofNat 8 sh.code).toNat = sh.code := by cases sh <;> rfl
  have width : (chr.setWidth 8).setWidth 7 = chr := by simp
  have le : (chr.setWidth 8).toNat ≤ 127 := by have := chr.isLt; simp; omega
  have ok (n : kind ≠ .ltrs ∧ kind ≠ .figs) := legal_iff_charByteOk n le
  rw [width] at ok
  rw [readCodeEntry_iff]
  simp only [comb, shift, width, readCodeKind_code, NamedEntry.allowed, NamedEntry.load]
  have small : k ≤ 31 := by omega
  have one : sh.code ≤ 1 := by cases sh <;> decide
  by_cases n : kind = .ltrs ∨ kind = .figs
  · have bad : CodeEntry.legal ⟨kind, chr⟩ = false := by rcases n with rfl | rfl <;> rfl
    simp [n, bad]
  · rw [if_neg n]
    rw [not_or] at n
    constructor
    · rintro ⟨q, ⟨⟩, -, -, f, c, rfl⟩
      exact ⟨⟨f, (ok n).mpr c⟩, rfl⟩
    · rintro ⟨⟨f, c⟩, rfl⟩
      exact ⟨kind, rfl, small, one, f, (ok n).mp c, rfl⟩

/-- Entries in a payload read as loads, if each is allowed and no place comes twice; and only then. -/
theorem readCodeEntries_named (es : List NamedEntry) (h : ∀ x ∈ es, x.1 < 32) (ys : List CodeLoad) :
    readCodeEntries (es.flatMap NamedEntry.bytes) = some ys ↔
      (∀ x ∈ es, x.allowed) ∧ (es.map fun x => (x.1, x.2.1)).Nodup ∧ ys = es.map NamedEntry.load := by
  induction es generalizing ys with
  | nil => simp [readCodeEntries, eq_comm]
  | cons x es ih =>
    have hx := h x List.mem_cons_self
    have hs : ∀ y ∈ es, y.1 < 32 := fun y m => h y (List.mem_cons_of_mem _ m)
    have bytes : (x :: es).flatMap NamedEntry.bytes = BitVec.ofNat 8 x.1 :: BitVec.ofNat 8 x.2.1.code ::
        BitVec.ofNat 8 x.2.2.kind.code :: x.2.2.chr.setWidth 8 :: es.flatMap NamedEntry.bytes := rfl
    have again : ((es.map NamedEntry.load).any fun y => y.1 == x.load.1) = true ↔
        (x.1, x.2.1) ∈ es.map fun y => (y.1, y.2.1) := by
      simp only [List.any_map, List.any_eq_true, List.mem_map, Function.comp_apply, beq_iff_eq, NamedEntry.load,
        Prod.mk.injEq]
      exact exists_congr fun y => and_congr_right fun m => place_inj hx (hs y m) ..
    rw [bytes, readCodeEntries]
    simp only [Option.bind_eq_bind, Option.bind_eq_some_iff, readCodeEntry_named x hx, ih hs, List.map_cons,
      List.nodup_cons, List.forall_mem_cons, Option.ite_none_left_eq_some, Option.some.injEq]
    constructor
    · rintro ⟨_, ⟨a, rfl⟩, _, ⟨as, nodup, rfl⟩, new, rfl⟩
      exact ⟨⟨a, as⟩, ⟨fun m => new (again.mpr m), nodup⟩, rfl⟩
    · rintro ⟨⟨a, as⟩, ⟨new, nodup⟩, rfl⟩
      exact ⟨_, ⟨a, rfl⟩, _, ⟨as, nodup, rfl⟩, fun m => new (again.mp m), rfl⟩

theorem readCodeEntries_bytes {p : List Byte} {ys : List CodeLoad} (h : readCodeEntries p = some ys) (i : Nat)
    (hi : 4 * i < p.length) : (p.getD (4 * i) 0).toNat ≤ 31 ∧ (p.getD (4 * i + 1) 0).toNat ≤ 1 ∧
      (p.getD (4 * i + 2) 0).toNat ∈ [0, 1, 4, 5, 6, 7] ∧ (p.getD (4 * i + 3) 0).toNat ≤ 127 := by
  induction p using readCodeEntries.induct generalizing ys i with
  | case1 => simp at hi
  | case2 comb shift kind chr rest ih =>
    rw [readCodeEntries] at h
    simp only [Option.bind_eq_bind, Option.bind_eq_some_iff] at h
    obtain ⟨e, he, es, hs, -⟩ := h
    cases i with
    | zero =>
      obtain ⟨k, hk, hc, hsh, -, ok, -⟩ := (readCodeEntry_iff ..).mp he
      exact ⟨hc, hsh, readCodeKind_mem hk, charByteOk_le ok⟩
    | succ i =>
      have := ih hs i (by simp at hi; omega)
      simpa [Nat.mul_succ, Nat.add_right_comm] using this
  | case3 p a b => rw [readCodeEntries] at h <;> simp_all

/-! ### What loading leaves in the table -/

theorem tableEntry_loadEntries (es : List NamedEntry) (h : ∀ x ∈ es, x.1 < 32)
    (nodup : (es.map fun x => (x.1, x.2.1)).Nodup) {t : List CodeEntry} (len : t.length = 64) {k : Nat} (hk : k < 32)
    (sh : Shift) :
    (loadEntries t (es.map NamedEntry.load)).length = 64 ∧
    tableEntry (loadEntries t (es.map NamedEntry.load)) k sh =
      ((es.find? fun x => decide (x.1 = k) && decide (x.2.1 = sh)).map (·.2.2)).getD (tableEntry t k sh) := by
  induction es generalizing t with
  | nil => exact ⟨len, rfl⟩
  | cons x es ih =>
    have hs : ∀ y ∈ es, y.1 < 32 := fun y m => h y (List.mem_cons_of_mem _ m)
    rw [List.map_cons, List.nodup_cons] at nodup
    have step : loadEntries t ((x :: es).map NamedEntry.load) =
        loadEntries (t.set (x.1 + 32 * x.2.1.code) x.2.2) (es.map NamedEntry.load) := rfl
    obtain ⟨l, e⟩ := ih hs nodup.2 (t := t.set (x.1 + 32 * x.2.1.code) x.2.2) (by rw [List.length_set]; exact len)
    rw [step]
    refine ⟨l, e.trans ?_⟩
    rw [tableEntry_set len hk (h x List.mem_cons_self), List.find?_cons]
    by_cases c : x.1 = k ∧ x.2.1 = sh
    · have absent : (es.find? fun y => decide (y.1 = k) && decide (y.2.1 = sh)) = none := by
        rw [List.find?_eq_none]
        intro y m p
        rw [Bool.and_eq_true, decide_eq_true_eq, decide_eq_true_eq] at p
        exact nodup.1 (List.mem_map.mpr ⟨y, m, by rw [c.1, c.2, p.1, p.2]⟩)
      simp [c, absent]
    · rw [if_neg c]
      have : (decide (x.1 = k) && decide (x.2.1 = sh)) = false := by simpa using c
      simp [this]

/-! ### The command -/

theorem substituteOk_iff (b : Byte) : substituteOk b = true ↔ b.toNat ≤ 127 ∧ b.toNat ∉ [5, 7, 10, 12, 13, 32] := by
  simp [substituteOk]

/-- SET_CODE_TABLE's payload for these entries. -/
def namedPayload (sub : Byte) (es : List NamedEntry) : List Byte :=
  [sub, BitVec.ofNat 8 es.length] ++ es.flatMap NamedEntry.bytes

theorem namedBytes_length (es : List NamedEntry) : (es.flatMap NamedEntry.bytes).length = 4 * es.length := by
  induction es with
  | nil => rfl
  | cons x es ih => rw [List.flatMap_cons, List.length_append, ih, List.length_cons, Nat.mul_succ, Nat.add_comm]; rfl

theorem readCodeTable_named {sub : Byte} {es : List NamedEntry} (least : 1 ≤ es.length) (most : es.length ≤ 52)
    (h : ∀ x ∈ es, x.1 < 32) (b : Byte) (ys : List CodeLoad) :
    readCodeTable (namedPayload sub es) = some (b, ys) ↔ substituteOk sub = true ∧ (∀ x ∈ es, x.allowed) ∧
      (es.map fun x => (x.1, x.2.1)).Nodup ∧ b = sub ∧ ys = es.map NamedEntry.load := by
  have n : (BitVec.ofNat 8 es.length).toNat = es.length := by simp; omega
  rw [readCodeTable_iff]
  constructor
  · rintro ⟨m, rest, eq, ok, -, -, -, read⟩
    obtain ⟨rfl, rfl, rfl⟩ : sub = b ∧ BitVec.ofNat 8 es.length = m ∧ es.flatMap NamedEntry.bytes = rest := by
      simpa [namedPayload] using eq
    obtain ⟨allowed, nodup, rfl⟩ := (readCodeEntries_named es h ys).mp read
    exact ⟨ok, allowed, nodup, rfl, rfl⟩
  · rintro ⟨ok, allowed, nodup, rfl, rfl⟩
    exact ⟨_, es.flatMap NamedEntry.bytes, rfl, ok, by rw [n]; exact least, by rw [n]; exact most,
      by rw [n]; exact namedBytes_length es, (readCodeEntries_named es h _).mpr ⟨allowed, nodup, rfl⟩⟩

theorem setCodeTable_refused {p : List Byte} {s : State} (ready : Ready s) (le : p.length ≤ 248)
    (h : readCodeTable p = none) : exec (.setCodeTable p) s = .next (refused p.length .badArgument s) :=
  congrArg Host.Outcome.next (consoleRow_refused .setCodeTable cmdSetCodeTable p s ready le .badArgument
    (by rw [cmdSetCodeTable, withArgs, h]))

/-- The state after a table load, before it settles. -/
def tableLoaded (sub : Byte) (ys : List CodeLoad) (s : State) : State :=
  { s with ctr := { s.ctr with
    table := loadEntries s.ctr.table ys, substitute := if sub = 0 then s.ctr.substitute else sub.setWidth 7 } }

theorem setCodeTable_taken {p : List Byte} {s : State} {sub : Byte} {ys : List CodeLoad} (ready : Ready s)
    (le : p.length ≤ 248) (h : readCodeTable p = some (sub, ys)) :
    ∃ t, exec (.setCodeTable p) s = .next t ∧ Settled bothLines (answered p.length .ok [] (tableLoaded sub ys s)) t := by
  have run : consoleRow .setCodeTable cmdSetCodeTable p s =
      (settleAll (tableLoaded sub ys (s.zeros (3 + p.length)))).onCpe fun c => { c with port := .response .ok [] } := by
    rw [consoleRow_ready .setCodeTable cmdSetCodeTable p s ready le, cmdSetCodeTable, withArgs, h]
    rfl
  exact ⟨_, congrArg Host.Outcome.next run,
    (settleAll_settled (tableLoaded sub ys (s.zeros (3 + p.length)))).ready (.response .ok [])⟩

/-- A payload with a wrong count, length or byte does not read as a table load (R2). -/
theorem readCodeTable_eq_none {p : List Byte}
    (bad : (p.getD 1 0).toNat < 1 ∨ 52 < (p.getD 1 0).toNat ∨ p.length ≠ 2 + 4 * (p.getD 1 0).toNat ∨
      ∃ i < (p.getD 1 0).toNat, 31 < (p.getD (2 + 4 * i) 0).toNat ∨ 1 < (p.getD (3 + 4 * i) 0).toNat ∨
        (p.getD (4 + 4 * i) 0).toNat ∉ [0, 1, 4, 5, 6, 7] ∨ 127 < (p.getD (5 + 4 * i) 0).toNat) :
    readCodeTable p = none := by
  cases e : readCodeTable p with
  | none => rfl
  | some x =>
    obtain ⟨n, rest, rfl, -, least, most, len, read⟩ := (readCodeTable_iff p x.1 x.2).mp e
    rcases bad with bad | bad | bad | ⟨i, hi, bad⟩
    · exact absurd bad (Nat.not_lt.mpr least)
    · exact absurd bad (Nat.not_lt.mpr most)
    · exact absurd (by simp [len]; omega) bad
    · have hi : i < n.toNat := hi
      obtain ⟨comb, shift, kind, chr⟩ := readCodeEntries_bytes read i (by omega)
      have at' (k : Nat) : (x.1 :: n :: rest).getD (k + 2 + 4 * i) 0 = rest.getD (4 * i + k) 0 := by
        rw [show k + 2 + 4 * i = 4 * i + k + 1 + 1 by omega]; rfl
      rw [at' 0, at' 1, at' 2, at' 3] at bad
      rcases bad with bad | bad | bad | bad
      · exact absurd bad (Nat.not_lt.mpr comb)
      · exact absurd bad (Nat.not_lt.mpr shift)
      · exact absurd kind bad
      · exact absurd bad (Nat.not_lt.mpr chr)

end Sys2Proof.Machine
end

section
/-! PROOF. The obligations on the code table. -/

open Sys2Proof Sys2Proof.Machine

/-- Settles O23: both translations are `searchTable`, which looks for the lowest in LETTERS and then in FIGURES. -/
theorem transmitTranslationTakesTheLowest : Obligations.TransmitTranslationTakesTheLowest := by
  refine ⟨carries_iff, fun t want answer which => ?_⟩
  have found : answer = searchTable t want := by
    rcases which with ⟨c, rfl, rfl⟩ | ⟨rfl, rfl⟩ <;> rfl
  rw [found]
  refine ⟨fun k hk h low => searchTable_letters (findComb_eq_some hk h low), fun none => ⟨fun k hk h low => ?_, fun f => ?_⟩⟩
  · exact searchTable_figures (findComb_eq_none none) (findComb_eq_some hk h low)
  · exact searchTable_none (findComb_eq_none none) (findComb_eq_none f)

/-- Settles O22: a payload is taken exactly when it reads as a table load, and the load sets the entries it names. -/
theorem setCodeTableLoadsItsEntries : Obligations.SetCodeTableLoadsItsEntries := by
  refine ⟨fun sub es s ready len least most places => ?_, fun p s ready le bad =>
    setCodeTable_refused ready le (readCodeTable_eq_none bad)⟩
  have le : (namedPayload sub es).length ≤ 248 := by
    rw [namedPayload, List.length_append, namedBytes_length]; simp; omega
  have reads := readCodeTable_named (sub := sub) least most places
  refine ⟨fun legal allowed nodup => ?_, fun bad => setCodeTable_refused (p := namedPayload sub es) ready le ?_⟩
  · have read := (reads _ _).mpr ⟨(substituteOk_iff sub).mpr legal, allowed, nodup, rfl, rfl⟩
    obtain ⟨t, run, settled⟩ := setCodeTable_taken ready le read
    refine ⟨_, t, run, settled, rfl, (tableEntry_loadEntries es places nodup len (k := 0) (by decide) .letters).1,
      fun k sh hk => ?_⟩
    refine (tableEntry_loadEntries es places nodup len hk sh).2.trans ?_
    cases es.find? fun x => decide (x.1 = k) && decide (x.2.1 = sh) <;> rfl
  · cases e : readCodeTable (namedPayload sub es) with
    | none => rfl
    | some x =>
      obtain ⟨ok, allowed, nodup, -⟩ := (reads x.1 x.2).mp e
      rcases bad with bad | ⟨y, m, bad⟩ | bad
      · exact absurd ((substituteOk_iff sub).mp ok) bad
      · obtain ⟨f, c⟩ := allowed y m
        rw [f, c] at bad
        simp at bad
      · exact absurd nodup bad

end


section
/-! SUPPORT. What the selector's steps and the handing of a combination leave of everything but what they hand (section 3.3,
R12, R36, R88, R92, R104). -/

namespace Sys2Proof.Machine

open Sys2Proof

variable {s t u : State} {l : LineId}

/-! ## What passing from one item to the next leaves -/

/-- From `s` to `t` line l's selector has passed over or handed items: of the line only its selector, its transmit shift
record, its exchange's place and what its supervisor counts have moved, and nothing of the other line. -/
structure Passed (l : LineId) (s t : State) : Prop where
  tbu : t.tbu = s.tbu := by rfl
  identity : t.identity = s.identity := by rfl
  lu : t.lu = s.lu := by rfl
  cells : t.stm.cells = s.stm.cells := by rfl
  framer : t.fqm.framer = s.fqm.framer := by rfl
  ctr : t.ctr = { s.ctr with tx := t.ctr.tx } := by rfl
  selector : ∀ k, k ≠ l → t.selector k = s.selector k := by intros; rfl
  shift : ∀ k, k ≠ l → t.ctr.tx.get k = s.ctr.tx.get k := by intros; rfl
  csv : ∀ k, k ≠ l → t.csv k = s.csv k := by intros; rfl
  state : (t.csv l).state = (s.csv l).state := by rfl
  values : (t.csv l).values = (s.csv l).values := by rfl
  half : (t.csv l).exch.half = (s.csv l).exch.half := by rfl

namespace Passed

theorem refl (s : State) : Passed l s s := {}

theorem trans (a : Passed l s t) (b : Passed l t u) : Passed l s u where
  tbu := b.tbu.trans a.tbu
  identity := b.identity.trans a.identity
  lu := b.lu.trans a.lu
  cells := b.cells.trans a.cells
  framer := b.framer.trans a.framer
  ctr := by rw [b.ctr, a.ctr]
  selector k h := (b.selector k h).trans (a.selector k h)
  shift k h := (b.shift k h).trans (a.shift k h)
  csv k h := (b.csv k h).trans (a.csv k h)
  state := b.state.trans a.state
  values := b.values.trans a.values
  half := b.half.trans a.half

theorem store {P : Nat → Prop} (a : StoreOnly P s t) : Passed l s t where
  tbu := a.tbu
  identity := a.identity
  lu := a.lu
  cells := by rw [a.stm]
  framer := by rw [a.fqm]
  ctr := by rw [a.ctr]
  selector k _ := a.storeStep.selector k
  shift k _ := by rw [a.ctr]
  csv k _ := a.storeStep.csv k
  state := by rw [a.storeStep.csv]
  values := by rw [a.storeStep.csv]
  half := by rw [a.storeStep.csv]

theorem setSelector (s : State) (l : LineId) (x : Selector) : Passed l s (s.setSelector l x) where
  selector _ h := State.setSelector_selector_ne s x h

theorem onSelector (s : State) (l : LineId) (f : Selector → Selector) : Passed l s (s.onSelector l f) := setSelector ..

theorem onSend (s : State) (l : LineId) (f : SendGrant → SendGrant) : Passed l s (s.onSend l f) := setSelector ..

theorem onCsv (s : State) (l : LineId) {f : Supervisor → Supervisor}
    (h : (f (s.csv l)).state = (s.csv l).state ∧ (f (s.csv l)).values = (s.csv l).values ∧
      (f (s.csv l)).exch.half = (s.csv l).exch.half) : Passed l s (s.onCsv l f) where
  csv _ o := State.onCsv_csv_ne s f o
  state := by rw [State.onCsv_csv_same]; exact h.1
  values := by rw [State.onCsv_csv_same]; exact h.2.1
  half := by rw [State.onCsv_csv_same]; exact h.2.2

theorem setTxShift (s : State) (l : LineId) (r : ShiftRecord) : Passed l s (s.setTxShift l r) where
  shift _ h := Pair.get_set_ne _ _ h

theorem ite {c : Prop} [Decidable c] (a : Passed l s t) (b : Passed l s u) : Passed l s (if c then t else u) := by
  split
  · exact a
  · exact b

end Passed

/-! ## Handing an item (R12, R13, R88, R92) -/

theorem advanceSend_passed (s : State) (l : LineId) (g : SendGrant) : Passed l s (advanceSend s l g) := by
  unfold advanceSend
  split
  · exact .refl s
  · have a : Passed l s (advanceCursor s (sendOf l) g.index) := .store (advanceCursor_storeOnly ..)
    exact .ite (a.trans (.onCsv _ l ⟨rfl, rfl, rfl⟩)) a

theorem consumeItem_passed (s : State) (l : LineId) (f : Flight) : Passed l s (consumeItem s l f) := by
  cases f <;> unfold consumeItem
  case recordText =>
    dsimp only
    split
    · exact advanceSend_passed ..
    · exact .refl s
  all_goals exact .setSelector ..

theorem handItem_passed (s : State) (l : LineId) (f : Flight) : Passed l s (handItem s l f) :=
  .ite ((consumeItem_passed s l f).trans (.onSend ..)) (consumeItem_passed s l f)

theorem spaceSent_passed (s : State) (l : LineId) (b : Bool) : Passed l s (spaceSent s l b) := .ite (.setTxShift ..) (.refl s)

theorem emit_shift {x : Sending} {sh : Shift} (space force : Bool) (f : Flight)
    (h : (if force then x.need else shiftBefore (s.ctr.tx.get l) x) = some sh) :
    emit s l x space force f = (sh.comb, (s.setTxShift l (.held sh)).onSelector l fun y =>
      { y with companion := some ⟨x.comb, space, f⟩ }) := by
  unfold emit; rw [h]

theorem emit_plain {x : Sending} (space force : Bool) (f : Flight)
    (h : (if force then x.need else shiftBefore (s.ctr.tx.get l) x) = none) :
    emit s l x space force f = (x.comb, spaceSent (handItem s l f) l space) := by
  unfold emit; rw [h]

theorem emit_passed (s : State) (l : LineId) (x : Sending) (space force : Bool) (f : Flight) :
    Passed l s (emit s l x space force f).2 := by
  cases h : (if force then x.need else shiftBefore (s.ctr.tx.get l) x) with
  | some sh => 
    rw [emit_shift space force f h]
    dsimp only
    exact .trans (.setTxShift ..) (.onSelector ..)
  | none => rw [emit_plain space force f h]; exact .trans (handItem_passed ..) (spaceSent_passed ..)

theorem emitAnswerback_passed (s : State) (l : LineId) (a : Answerback) (c : Chr) (x : Sending) :
    Passed l s (emitAnswerback s l a c x).2 := by
  unfold emitAnswerback
  dsimp only
  split
  · dsimp only
    exact .trans (.setTxShift ..) (.onSelector ..)
  · split
    · exact .trans (.onSelector ..) (emit_passed ..)
    · exact emit_passed ..

theorem handNext_passed {c : Comb} {f : Flight} (h : handNext s l = some (c, f, t)) : Passed l s t := by
  unfold handNext at h
  dsimp only at h
  split at h
  · cases h; exact .trans (.setSelector ..) (.trans (handItem_passed ..) (spaceSent_passed ..))
  · split at h
    · cases h
    · split at h
      · cases h
      · cases h; exact handItem_passed ..
      · cases h; exact emit_passed ..
      · cases h
        split
        · exact emitAnswerback_passed ..
        all_goals exact emit_passed ..

/-! ## The character starts (R36, R37, R43, R88, R106) -/

/-- HUNTING becomes BLANKED (R43). -/
def RxSub.blank : RxSub → RxSub
  | .hunting _ _ => .blanked
  | .character f => .character f
  | .spaceHeld m => .spaceHeld m
  | .blanked => .blanked

/-- The line's receiver when its transmitter starts a character: a half-duplex line's is BLANKED (R43). -/
def Receiver.atStart (half : Bool) (r : Receiver) : Receiver :=
  if half = true ∧ r.mode = .framing then { r with sub := r.sub.blank } else r

/-- Combination `b` goes out on line l, belonging to `fl`, in the state `u` that the selector has left. -/
def started (l : LineId) (b : Comb) (fl : Flight) (u : State) : State :=
  restartIdle (blankReceiver ((u.onTx l fun t => { t with state := .sending b (u.unit l).cfg.stop.ticks 0, pin := .space }).onSelector
    l fun x => { x with flight := some fl }) l) l

theorem txTakes_iff (s : State) (l : LineId) : txTakes s l = true ↔ s.running = true ∧ (s.csv l).state ≠ .disabled ∧
    (s.unit l).tx.state = .idle ∧ (s.unit l).tx.ordered = .mark := by
  simp [txTakes, and_assoc]

theorem Passed.takes (p : Passed l s t) : txTakes t l = txTakes s l := by
  rw [Bool.eq_iff_iff, txTakes_iff, txTakes_iff, State.running, State.running, State.unit, State.unit, p.tbu, p.lu, p.state]

theorem txCharacterStart_idle (h : txTakes s l = false) : txCharacterStart l s = s := by
  rw [txCharacterStart, if_neg (by simp [h])]

theorem txCharacterStart_nothing (h : txTakes s l = true) (p : Passed l s (sendSweep sweepFuel s l))
    (e : handNext (sendSweep sweepFuel s l) l = none) : txCharacterStart l s = settle (sendSweep sweepFuel s l) := by
  simp only [txCharacterStart, h, p.takes, e, if_true]

theorem txCharacterStart_hands {b : Comb} {fl : Flight} (h : txTakes s l = true) (p : Passed l s (sendSweep sweepFuel s l))
    (e : handNext (sendSweep sweepFuel s l) l = some (b, fl, u)) : txCharacterStart l s = settle (started l b fl u) := by
  simp only [txCharacterStart, h, p.takes, e, if_true]
  rfl

/-! ### What the start of a character does -/

theorem blankReceiver_unit (s : State) (l : LineId) :
    (blankReceiver s l).unit l = { s.unit l with rx := (s.unit l).rx.atStart (halfDuplex s l) } := by
  unfold blankReceiver Receiver.atStart
  split
  · next h =>
    rw [State.onRx_unit_same, h]
    split
    · next m => simp only [m, and_self, if_true]; rfl
    · next m => simp only [m, and_false, if_false]
  · next h => rw [if_neg (fun x => h x.1)]

theorem blankReceiver_ne (s : State) {l k : LineId} (h : k ≠ l) : (blankReceiver s l).unit k = s.unit k := by
  unfold blankReceiver
  split
  · exact State.onRx_unit_ne s _ h
  · rfl

theorem blankReceiver_parts (s : State) (l : LineId) : blankReceiver s l = { s with lu := (blankReceiver s l).lu } := by
  unfold blankReceiver
  split <;> rfl

theorem restartIdle_parts (s : State) (l : LineId) : restartIdle s l = { s with sup := (restartIdle s l).sup } := by
  unfold restartIdle
  dsimp only
  split <;> rfl

theorem restartIdle_csv (s : State) (l : LineId) : (restartIdle s l).csv l = { s.csv l with timers := { (s.csv l).timers with
    idle := if (s.csv l).state = .connected then
        if (s.csv l).values.idleTimeoutS = 0 then none else some (1000 * (s.csv l).values.idleTimeoutS)
      else (s.csv l).timers.idle } } := by
  unfold restartIdle
  dsimp only
  split
  · rw [State.onTimers_csv_same]
  · rfl

theorem restartIdle_ne (s : State) {l k : LineId} (h : k ≠ l) : (restartIdle s l).csv k = s.csv k := by
  unfold restartIdle
  dsimp only
  split
  · exact State.onCsv_csv_ne s _ h
  · rfl

/-- Line l's own row TX_CHARACTER_START has put combination `b` on the transmitter, from `s` (R36, R37, R43, R106). -/
structure Sends (l : LineId) (s t : State) (b : Comb) : Prop where
  unit : t.unit l = { s.unit l with
    tx := { (s.unit l).tx with state := .sending b (s.unit l).cfg.stop.ticks 0, pin := .space }
    rx := (s.unit l).rx.atStart (halfDuplex s l) }
  flight : (t.selector l).flight ≠ none
  tbu : t.tbu = s.tbu
  identity : t.identity = s.identity
  cells : t.stm.cells = s.stm.cells
  others : OtherLineKept s t l
  idle : (s.csv l).state = .connected → (t.csv l).timers.idle =
    if (s.csv l).values.idleTimeoutS = 0 then none else some (1000 * (s.csv l).values.idleTimeoutS)

/-- The character that goes out belongs to `fl`, from the state `u` that the selector has left. -/
structure Goes (l : LineId) (u t : State) (fl : Flight) : Prop where
  ctr : t.ctr = u.ctr
  selector : t.selector l = { u.selector l with flight := some fl }
  remaining : (t.csv l).remaining = (u.csv l).remaining
  settles : ∃ w, Settled noLine w t ∧ ∀ i, w.record i = u.record i

variable {b : Comb} {fl : Flight}

/-- Settling leaves the lines, their supervisors and selectors. -/
theorem settle_line (s : State) (l : LineId) :
    (settle s).unit l = s.unit l ∧ (settle s).csv l = s.csv l ∧ (settle s).selector l = s.selector l :=
  (settle_settled s).kept.quiet l rfl

theorem started_stm (l : LineId) (b : Comb) (fl : Flight) (u : State) : (started l b fl u).stm = u.stm := by
  rw [started, restartIdle_parts, blankReceiver_parts]; rfl

theorem started_csv_ne {k : LineId} (h : k ≠ l) : (started l b fl u).csv k = u.csv k := by
  rw [started, restartIdle_ne _ h, blankReceiver_parts]; rfl

theorem started_rest (l : LineId) (b : Comb) (fl : Flight) (u : State) : (started l b fl u).tbu = u.tbu ∧
    (started l b fl u).ctr = u.ctr ∧ (started l b fl u).identity = u.identity ∧
    (started l b fl u).fqm = (u.onSelector l fun x => { x with flight := some fl }).fqm := by
  rw [started, restartIdle_parts, blankReceiver_parts]
  exact ⟨rfl, rfl, rfl, rfl⟩

theorem started_csv (l : LineId) (b : Comb) (fl : Flight) (u : State) : (started l b fl u).csv l =
    { u.csv l with timers := { (u.csv l).timers with
      idle := if (u.csv l).state = .connected then
          if (u.csv l).values.idleTimeoutS = 0 then none else some (1000 * (u.csv l).values.idleTimeoutS)
        else (u.csv l).timers.idle } } := by
  rw [started, restartIdle_csv, blankReceiver_parts]; rfl

theorem onSelector_unit (s : State) (l k : LineId) (f : Selector → Selector) : (s.onSelector l f).unit k = s.unit k := rfl

theorem started_unit (l : LineId) (b : Comb) (fl : Flight) (u : State) : (started l b fl u).unit l = { u.unit l with
    tx := { (u.unit l).tx with state := .sending b (u.unit l).cfg.stop.ticks 0, pin := .space }
    rx := (u.unit l).rx.atStart (halfDuplex u l) } := by
  rw [started, restartIdle_parts]
  refine (blankReceiver_unit ..).trans ?_
  have tx : ((u.onTx l fun t => { t with state := .sending b (u.unit l).cfg.stop.ticks 0, pin := .space }).onSelector l
      fun x => { x with flight := some fl }).unit l = { u.unit l with
        tx := { (u.unit l).tx with state := .sending b (u.unit l).cfg.stop.ticks 0, pin := .space } } :=
    (onSelector_unit ..).trans (State.onTx_unit_same ..)
  rw [halfDuplex, tx]
  rfl

theorem started_unit_ne {k : LineId} (h : k ≠ l) : (started l b fl u).unit k = u.unit k := by
  rw [started, restartIdle_parts]
  exact (blankReceiver_ne _ h).trans ((onSelector_unit ..).trans (State.onTx_unit_ne u _ h))

theorem started_sends (p : Passed l s u) : Sends l s (settle (started l b fl u)) b := by
  obtain ⟨tbu, ctr, identity, fqm⟩ := started_rest l b fl u
  have kept := (settle_settled (started l b fl u)).kept
  have unit (k : LineId) : u.unit k = s.unit k := by rw [State.unit, p.lu]; rfl
  have half : halfDuplex u l = halfDuplex s l := by rw [halfDuplex, unit, p.half]; rfl
  refine ⟨?_, ?_, ?_, ?_, ?_, fun k h => ?_, fun c => ?_⟩
  · rw [(settle_line _ l).1, started_unit, unit, half]
  · rw [(settle_line _ l).2.2, State.selector, fqm]
    exact fun e => nomatch (congrArg Selector.flight (State.onSelector_selector_same u l _)).symm.trans e
  · rw [kept.tbu, tbu, p.tbu]
  · rw [kept.identity, identity, p.identity]
  · rw [kept.stm, started_stm]; exact p.cells
  · obtain ⟨u1, c1, x1⟩ := settle_line (started l b fl u) k
    have framer : (settle (started l b fl u)).fqm.framer = s.fqm.framer := by rw [kept.fqm, fqm]; exact p.framer
    refine ⟨?_, ?_, ?_, ?_, ?_, ?_, ?_⟩
    · rw [u1, started_unit_ne h, unit]
    · rw [c1, started_csv_ne h, p.csv k h]
    · rw [x1, State.selector, fqm]
      exact (State.onSelector_selector_ne u _ h).trans (p.selector k h)
    · rw [State.framerOf, framer]; rfl
    · rw [kept.ctr, ctr, p.shift k h]
    · rw [kept.ctr, ctr, p.ctr]
    · rw [kept.tbu, tbu, p.tbu]
  · rw [(settle_line _ l).2.1, started_csv, p.state, p.values, if_pos c]

theorem started_goes (l : LineId) (b : Comb) (fl : Flight) (u : State) : Goes l u (settle (started l b fl u)) fl := by
  obtain ⟨-, ctr, -, fqm⟩ := started_rest l b fl u
  refine ⟨?_, ?_, ?_, started l b fl u, settle_settled _, fun i => by rw [State.record, started_stm]; rfl⟩
  · rw [(settle_settled _).kept.ctr, ctr]
  · rw [(settle_line _ l).2.2, State.selector, fqm]
    exact State.onSelector_selector_same u l _
  · rw [(settle_line _ l).2.1, started_csv]

end Sys2Proof.Machine
end


section
/-! SUPPORT. Which item the selector hands at TX_CHARACTER_START, and what is left of its source (R12, R13, R87, R88, R92,
R104). -/

namespace Sys2Proof.Machine

open Sys2Proof

variable {s t u : State} {l : LineId} {b : Comb} {fl : Flight}

/-! ## Sweeps that pass nothing, or nothing that the next item is of -/

theorem sendSweep_waits (n : Nat) (h : sendStep s l = none) : sendSweep n s l = s := by
  cases n <;> simp [sendSweep, h]

theorem sendSweep_induct {R : State → Prop} (n : Nat) (h : R s) (step : ∀ t u, R t → sendStep t l = some u → R u) :
    R (sendSweep n s l) := by
  induction n generalizing s with
  | zero => exact h
  | succ n ih =>
    unfold sendSweep
    split
    · exact h
    · next k => exact ih (step _ _ h k)

/-- The grant, if there is one, is not asked to stop (R63). -/
def Unstopped (s : State) (l : LineId) : Prop :=
  ∀ g, (s.selector l).grant = some g → stopAsked s (sendOf l) g.index = false

theorem sendStep_busy (busy : (s.selector l).companion ≠ none) (h : Unstopped s l) : sendStep s l = none := by
  cases k : sendStep s l with
  | none => rfl
  | some t =>
    rcases sendStep_is k with ⟨g, grant, asked, -, -⟩ | ⟨-, c, -⟩
    · rw [h g grant] at asked; cases asked
    · exact absurd c busy

/-- Nothing that the selector has in hand has ended, and what it offers next translates: it passes nothing. -/
theorem sendStep_waits (h : Unstopped s l) (seqs : (s.selector l).seqs = [])
    (answerback : ∀ f, (s.selector l).answerback ≠ some ⟨[], f⟩) (cutoff : (s.selector l).cutoff ≠ some [])
    (grant : ∀ g, (s.selector l).grant = some g → g.lead = [] → g.tail ≠ some [] ∧
      (g.tail = none → ∀ r, s.record g.index = some r → r.cursor.get (sendOf l) < r.length))
    (next : ∀ i f, nextItem s l = some (i, f) → translateItem s.ctr.table i ≠ none) : sendStep s l = none := by
  cases k : sendStep s l with
  | none => rfl
  | some t =>
    rcases sendStep_is k with ⟨g, hg, asked, -, -⟩ | ⟨-, -, idle⟩
    · rw [h g hg] at asked; cases asked
    · cases idle with
      | seqEnd k qs front => rw [seqs] at front; cases front
      | answerEnd f ended => exact absurd ended (answerback f)
      | cutoffEnd ended => exact absurd ended cutoff
      | delivered g hg lead tail => exact absurd tail (grant g hg lead).1
      | openEnd g r hg lead tail record ended =>
        exact absurd ((grant g hg lead).2 tail r record) (Nat.not_lt.mpr ended)
      | textEnd g r hg lead tail record ended =>
        exact absurd ((grant g hg lead).2 tail r record) (Nat.not_lt.mpr ended)
      | skip i f hn un => exact absurd un (next i f hn)

theorem stopSend_passed (s : State) (l : LineId) (g : SendGrant) : Passed l s (stopSend s l g) :=
  .trans (.onSelector ..) (.store (endGrant_storeOnly ..))

theorem stopSend_selector (s : State) (l : LineId) (g : SendGrant) : (stopSend s l g).selector l =
    { s.selector l with grant := none,
                        cutoff := if g.handed && lineReady s l then some (closing s l) else (s.selector l).cutoff } := by
  rw [stopSend, (endGrant_step _ _ _).selector]
  exact State.onSelector_selector_same ..

theorem stopSend_ctr (s : State) (l : LineId) (g : SendGrant) : (stopSend s l g).ctr = s.ctr :=
  (endGrant_storeOnly ..).ctr

/-- With a companion owed the selector can only stop its grant. -/
theorem sendSweep_busy (n : Nat) (busy : (s.selector l).companion ≠ none) :
    Passed l s (sendSweep n s l) ∧ (sendSweep n s l).ctr = s.ctr ∧
      ((sendSweep n s l).selector l).companion = (s.selector l).companion := by
  refine sendSweep_induct (R := fun t => Passed l s t ∧ t.ctr = s.ctr ∧ (t.selector l).companion = (s.selector l).companion) n
    ⟨.refl s, rfl, rfl⟩ fun t u ⟨p, ctr, c⟩ k => ?_
  rcases sendStep_is k with ⟨g, -, -, -, rfl⟩ | ⟨-, none, -⟩
  · exact ⟨p.trans (stopSend_passed ..), (stopSend_ctr ..).trans ctr, by rw [stopSend_selector]; exact c⟩
  · exact absurd (c.symm.trans none) busy

theorem placeOffer_selector (s : State) (l : LineId) : (placeOffer s l).selector l =
    { s.selector l with seqs := (s.selector l).seqs ++ [⟨.offer, [.raw 0, .raw 0, .raw 0]⟩] } := by
  cases l <;> rfl

theorem placeOffer_passed (s : State) (l : LineId) : Passed l s (placeOffer s l) := by
  unfold placeOffer placeSeq State.onExch
  exact .trans (.onCsv s l ⟨rfl, rfl, rfl⟩) (.onSelector ..)

theorem answerbackEnd_passed (s : State) (l : LineId) : Passed l s (answerbackEnd s l) := by
  have a : Passed l s ((s.onSelector l fun x => { x with answerback := none }).onCsv l fun c => { c with abActive := false }) :=
    .trans (.onSelector ..) (.onCsv _ l ⟨rfl, rfl, rfl⟩)
  exact .ite (a.trans (placeOffer_passed ..)) a

theorem answerbackEnd_selector (s : State) (l : LineId) : ∃ more, (answerbackEnd s l).selector l =
    { s.selector l with answerback := none, seqs := (s.selector l).seqs ++ more } := by
  have same (s : State) (l : LineId) : ((s.onSelector l fun x => { x with answerback := none }).onCsv l
      fun c => { c with abActive := false }).selector l = { s.selector l with answerback := none } := by cases l <;> rfl
  unfold answerbackEnd
  dsimp only
  split
  · exact ⟨_, by rw [placeOffer_selector, same]⟩
  · exact ⟨[], by rw [same, List.append_nil]⟩

/-- While the front item of the front sequence waits to be handed, the sequences only grow, by an answerback's end. -/
theorem sendSweep_front (n : Nat) {k : SeqKind} {i : TxItem} {is : List TxItem} {qs : List TxSeq}
    (front : (s.selector l).seqs = ⟨k, i :: is⟩ :: qs) (sends : translateItem s.ctr.table i ≠ none)
    (free : (s.selector l).companion = none) :
    Passed l s (sendSweep n s l) ∧ (sendSweep n s l).ctr = s.ctr ∧ ((sendSweep n s l).selector l).companion = none ∧
      ∃ more, ((sendSweep n s l).selector l).seqs = ⟨k, i :: is⟩ :: qs ++ more ∧
        ((s.selector l).answerback = none → more = [] ∧ ((sendSweep n s l).selector l).answerback = none) := by
  refine sendSweep_induct (R := fun t => Passed l s t ∧ t.ctr = s.ctr ∧ (t.selector l).companion = none ∧
      ∃ more, (t.selector l).seqs = ⟨k, i :: is⟩ :: qs ++ more ∧
        ((s.selector l).answerback = none → more = [] ∧ (t.selector l).answerback = none)) n
    ⟨.refl s, rfl, free, [], by rw [front, List.append_nil], fun h => ⟨rfl, h⟩⟩ fun t u ⟨p, ctr, c, more, seqs, only⟩ step => ?_
  have kept {v : State} (x : (v.selector l).seqs = (t.selector l).seqs ∧ (v.selector l).answerback = (t.selector l).answerback) :
      ∃ more, (v.selector l).seqs = ⟨k, i :: is⟩ :: qs ++ more ∧
        ((s.selector l).answerback = none → more = [] ∧ (v.selector l).answerback = none) :=
    ⟨more, x.1.trans seqs, fun h => ⟨(only h).1, x.2.trans (only h).2⟩⟩
  have set (x : Selector) : (t.setSelector l x).selector l = x := State.setSelector_selector_same ..
  rcases sendStep_is step with ⟨g, -, -, -, rfl⟩ | ⟨-, -, idle⟩
  · exact ⟨p.trans (stopSend_passed ..), (stopSend_ctr ..).trans ctr, by rw [stopSend_selector]; exact c,
      kept (by rw [stopSend_selector]; exact ⟨rfl, rfl⟩)⟩
  · cases idle with
    | seqEnd k' qs' e => rw [seqs] at e; cases e
    | answerEnd f ended =>
      obtain ⟨more', e⟩ := answerbackEnd_selector t l
      refine ⟨p.trans (answerbackEnd_passed ..), ?_, by rw [e]; exact c, more ++ more', ?_, fun h => ?_⟩
      · rw [← ctr]; unfold answerbackEnd; dsimp only; split <;> rfl
      · rw [e]; simp [seqs]
      · rw [(only h).2] at ended; cases ended
    | cutoffEnd ended =>
      exact ⟨p.trans (.setSelector ..), ctr, by rw [set]; exact c, kept (by rw [set]; exact ⟨rfl, rfl⟩)⟩
    | delivered g hg lead tail =>
      have x := (completeDelivery_step (t.setSelector l { t.selector l with grant := none }) (sendOf l) g.index).selector l
      rw [set] at x
      exact ⟨p.trans (.trans (.setSelector ..) (.store (completeDelivery_storeOnly ..))), (completeDelivery_storeOnly ..).ctr.trans ctr,
        by rw [x]; exact c, kept (by rw [x]; exact ⟨rfl, rfl⟩)⟩
    | openEnd g r hg lead tail record ended =>
      have x := (endGrant_step (t.setSelector l { t.selector l with grant := none }) (sendOf l) g.index).selector l
      rw [set] at x
      exact ⟨p.trans (.trans (.setSelector ..) (.store (endGrant_storeOnly ..))), (endGrant_storeOnly ..).ctr.trans ctr,
        by rw [x]; exact c, kept (by rw [x]; exact ⟨rfl, rfl⟩)⟩
    | textEnd g r hg lead tail record ended =>
      have x : (t.onSend l fun g => { g with tail := some (closing t l) }).selector l = { t.selector l with
          grant := (t.selector l).grant.map fun g => { g with tail := some (closing t l) } } :=
        State.onSelector_selector_same ..
      exact ⟨p.trans (.onSend ..), ctr, by rw [x]; exact c, kept (by rw [x]; exact ⟨rfl, rfl⟩)⟩
    | skip i' f next un =>
      rw [nextItem, seqs] at next
      cases next
      rw [ctr] at un
      exact absurd un sends

/-! ## What is handed (R88) -/

theorem handNext_companion {c : Companion} (h : (s.selector l).companion = some c) : handNext s l = some (c.comb, c.flight,
    spaceSent (handItem (s.setSelector l { s.selector l with companion := none }) l c.flight) l c.space) := by
  simp only [handNext, h]

theorem handNext_none (h : (s.selector l).companion = none) (n : nextItem s l = none) : handNext s l = none := by
  simp only [handNext, h, n]

theorem handNext_raw (h : (s.selector l).companion = none) (n : nextItem s l = some (.raw b, fl)) :
    handNext s l = some (b, fl, handItem s l fl) := by
  simp only [handNext, h, n, translateItem]

theorem handNext_selectEnd {y : Sending} (h : (s.selector l).companion = none) (n : nextItem s l = some (.selectEnd, fl))
    (tr : translateSelectEnd s.ctr.table = some y) :
    handNext s l = some ((emit s l y false false fl).1, fl, (emit s l y false false fl).2) := by
  simp only [handNext, h, n, translateItem, tr]

theorem handNext_chr {c : Chr} {y : Sending} (h : (s.selector l).companion = none) (n : nextItem s l = some (.chr c, fl))
    (f : fl ≠ .answerback) (tr : translateChr s.ctr.table c = some y) :
    handNext s l = some ((emit s l y (decide (c = 32)) false fl).1, fl, (emit s l y (decide (c = 32)) false fl).2) := by
  simp only [handNext, h, n, translateItem, tr]
  cases fl <;> first | rfl | exact absurd rfl f

theorem handNext_answerback {c : Chr} {y : Sending} {a : Answerback} (h : (s.selector l).companion = none)
    (n : nextItem s l = some (.chr c, .answerback)) (e : (s.selector l).answerback = some a)
    (tr : translateChr s.ctr.table c = some y) :
    handNext s l = some ((emitAnswerback s l a c y).1, .answerback, (emitAnswerback s l a c y).2) := by
  simp only [handNext, h, n, translateItem, tr, e]

/-! ## What handing an item leaves (R12, R13, R88, R92) -/

theorem handItem_ctr (s : State) (l : LineId) (f : Flight) : (handItem s l f).ctr = s.ctr := by
  have consumed : (consumeItem s l f).ctr = s.ctr :=
    (consumeItem_kept (c := False) (P := fun _ => True) f oneLine_self fun _ _ => trivial).ctr
  unfold handItem
  dsimp only
  split
  · exact consumed
  · exact consumed

theorem handItem_seq (s : State) (l : LineId) {q : TxSeq} {qs : List TxSeq} (h : (s.selector l).seqs = q :: qs) :
    (handItem s l .seq).selector l = { s.selector l with seqs := { q with items := q.items.tail } :: qs } := by
  simp only [handItem, consumeItem, Flight.ofRecord, Bool.false_eq_true, if_false, State.onSelector_selector_same, h]

theorem handItem_answerback (s : State) (l : LineId) {a : Answerback} (h : (s.selector l).answerback = some a) :
    (handItem s l .answerback).selector l = { s.selector l with answerback := some { a with rest := a.rest.tail } } := by
  simp only [handItem, consumeItem, Flight.ofRecord, Bool.false_eq_true, if_false, State.onSelector_selector_same, h,
    Option.map_some]

theorem handItem_cutoff (s : State) (l : LineId) {cs : List Chr} (h : (s.selector l).cutoff = some cs) :
    (handItem s l .cutoff).selector l = { s.selector l with cutoff := some cs.tail } := by
  simp only [handItem, consumeItem, Flight.ofRecord, Bool.false_eq_true, if_false, State.onSelector_selector_same, h,
    Option.map_some]

theorem onSend_selector (s : State) (l : LineId) (f : SendGrant → SendGrant) {g : SendGrant}
    (h : (s.selector l).grant = some g) : (s.onSend l f).selector l = { s.selector l with grant := some (f g) } := by
  simp only [State.onSend, State.onSelector_selector_same, h, Option.map_some]

theorem handItem_lead (s : State) (l : LineId) {g : SendGrant} (h : (s.selector l).grant = some g) :
    (handItem s l .recordLead).selector l =
      { s.selector l with grant := some { g with lead := g.lead.tail, handed := true } } := by
  simp only [handItem, consumeItem, Flight.ofRecord, if_true, State.onSend, State.onSelector_selector_same, h,
    Option.map_some]

theorem handItem_tail (s : State) (l : LineId) {g : SendGrant} (h : (s.selector l).grant = some g) :
    (handItem s l .recordTail).selector l =
      { s.selector l with grant := some { g with tail := g.tail.map List.tail, handed := true } } := by
  simp only [handItem, consumeItem, Flight.ofRecord, if_true, State.onSend, State.onSelector_selector_same, h,
    Option.map_some]

theorem advanceSend_selector (s : State) (l : LineId) (g : SendGrant) : (advanceSend s l g).selector l = s.selector l := by
  have moved : (advanceCursor s (sendOf l) g.index).selector l = s.selector l := (advanceCursor_step ..).selector l
  unfold advanceSend
  split
  · rfl
  · dsimp only
    split
    · exact moved
    · exact moved

theorem handItem_text (s : State) (l : LineId) {g : SendGrant} (h : (s.selector l).grant = some g) :
    (handItem s l .recordText).selector l = { s.selector l with grant := some { g with handed := true } } := by
  have one : (consumeItem s l .recordText).selector l = s.selector l := by
    rw [consumeItem, h]; exact advanceSend_selector ..
  refine (onSend_selector _ l (fun g => { g with handed := true }) ((congrArg Selector.grant one).trans h)).trans ?_
  rw [one]

/-- The transmit record after an item that was, or was not, a space (R13). -/
def spacedShift (s : State) (l : LineId) (space : Bool) : ShiftRecord :=
  if space = true ∧ (s.unit l).cfg.usos = true then .held .letters else s.ctr.tx.get l

theorem spaceSent_tx (s : State) (l : LineId) (space : Bool) : (spaceSent s l space).ctr.tx.get l = spacedShift s l space := by
  unfold spaceSent spacedShift
  by_cases h : space = true ∧ (s.unit l).cfg.usos = true
  · rw [if_pos h, if_pos (by simp [h])]; exact Pair.get_set_same ..
  · rw [if_neg h, if_neg (by simpa using h)]

theorem spaceSent_rest (s : State) (l : LineId) (space : Bool) : (spaceSent s l space).selector l = s.selector l ∧
    (spaceSent s l space).csv l = s.csv l ∧ (spaceSent s l space).stm = s.stm := by
  unfold spaceSent
  split <;> exact ⟨rfl, rfl, rfl⟩

/-- `b` has gone out, with the transmit record and the selector left so. -/
def Sent (l : LineId) (s t : State) (b : Comb) (fl : Flight) (tx : ShiftRecord) (y : Selector) : Prop :=
  Sends l s t b ∧ t.ctr.rx = s.ctr.rx ∧ t.ctr.table = s.ctr.table ∧ t.ctr.tx.get l = tx ∧
    t.selector l = { y with flight := some fl }

theorem sent_of {tx : ShiftRecord} {y : Selector} (p : Passed l s u) (shift : u.ctr.tx.get l = tx) (sel : u.selector l = y) :
    Sent l s (settle (started l b fl u)) b fl tx y := by
  have g := started_goes l b fl u
  refine ⟨started_sends p, ?_, ?_, ?_, ?_⟩
  · rw [g.ctr, p.ctr]
  · rw [g.ctr, p.ctr]
  · rw [g.ctr, shift]
  · rw [g.selector, sel]

/-- An item goes out as itself, its source left as `y`. -/
theorem sent_plain {v : State} {space : Bool} {y : Selector} (p : Passed l s v) (ctr : v.ctr = s.ctr)
    (sel : (handItem v l fl).selector l = y) :
    Sent l s (settle (started l b fl (spaceSent (handItem v l fl) l space))) b fl (spacedShift s l space) y := by
  refine sent_of (p.trans (.trans (handItem_passed ..) (spaceSent_passed ..))) ?_ ((spaceSent_rest ..).1.trans sel)
  have unit : (handItem v l fl).unit l = s.unit l := by
    rw [State.unit, (p.trans (handItem_passed v l fl)).lu]; rfl
  rw [spaceSent_tx, spacedShift, spacedShift, handItem_ctr, ctr, unit]

/-- The shift before an item goes out, the item being owed. -/
theorem sent_shift {v : State} {x : Sending} {sh : Shift} {space : Bool} {y : Selector} (p : Passed l s v)
    (sel : v.selector l = y) :
    Sent l s (settle (started l sh.comb fl ((v.setTxShift l (.held sh)).onSelector l fun z =>
      { z with companion := some ⟨x.comb, space, fl⟩ }))) sh.comb fl (.held sh)
      { y with companion := some ⟨x.comb, space, fl⟩ } :=
  sent_of (p.trans (.trans (.setTxShift ..) (.onSelector ..))) (Pair.get_set_same ..)
    ((State.onSelector_selector_same ..).trans (by rw [← sel]; rfl))

/-! ## A record's text character (R62, R92) -/

/-- The acceptance left after a live record's character, charged past each multiple of 32 (R92). -/
def Charges (l : LineId) (s t : State) (r : Rec) (live handed : Bool) : Prop := (t.csv l).remaining =
  match (s.csv l).remaining with
  | .unlimited => .unlimited
  | .blocks n => .blocks (if live = true ∧ handed = true ∧ 0 < r.cursor.get (sendOf l) ∧ r.cursor.get (sendOf l) % 32 = 0
      then n - 1 else n)

/-- The send cursor has moved past the character, if it was handed. -/
def Moves (l : LineId) (s t : State) (g : SendGrant) (r : Rec) (handed : Bool) : Prop :=
  Charges l s t r g.live handed ∧ ∃ u, Settled noLine u t ∧ (∀ j, j ≠ g.index → u.record j = s.record j) ∧
    u.record g.index =
      some (if handed then { r with cursor := r.cursor.set (sendOf l) (r.cursor.get (sendOf l) + 1) } else r)

theorem handText_records (s : State) (l : LineId) {g : SendGrant} {r : Rec} (h : (s.selector l).grant = some g)
    (record : s.record g.index = some r) : (∀ j, j ≠ g.index → (handItem s l .recordText).record j = s.record j) ∧
      (handItem s l .recordText).record g.index =
        some { r with cursor := r.cursor.set (sendOf l) (r.cursor.get (sendOf l) + 1) } := by
  have moved : (∀ j, j ≠ g.index → (advanceCursor s (sendOf l) g.index).record j = s.record j) ∧
      (advanceCursor s (sendOf l) g.index).record g.index =
        some { r with cursor := r.cursor.set (sendOf l) (r.cursor.get (sendOf l) + 1) } :=
    ⟨fun j n => (advanceCursor_storeOnly s (sendOf l) g.index).records j n, by
      rw [advanceCursor, State.record_onRecord, if_pos rfl, record]; rfl⟩
  have same (j : Nat) : (handItem s l .recordText).record j = (advanceCursor s (sendOf l) g.index).record j := by
    simp only [handItem, consumeItem, Flight.ofRecord, if_true, h, advanceSend, record]
    split <;> rfl
  exact ⟨fun j n => (same j).trans (moved.1 j n), (same _).trans moved.2⟩

theorem handText_charges (s : State) (l : LineId) {g : SendGrant} {r : Rec} (h : (s.selector l).grant = some g)
    (record : s.record g.index = some r) : Charges l s (handItem s l .recordText) r g.live true := by
  have csv : (advanceCursor s (sendOf l) g.index).csv l = s.csv l := (advanceCursor_step ..).csv l
  have sent (v : State) : (v.onSend l fun g => { g with handed := true }).csv l = v.csv l := rfl
  rw [Charges]
  simp only [handItem, consumeItem, Flight.ofRecord, if_true, h, advanceSend, record, sent]
  by_cases c : g.live = true ∧ 0 < r.cursor.get (sendOf l) ∧ r.cursor.get (sendOf l) % 32 = 0
  · simp only [c, and_self, if_true, chargeOne, State.onCsv_csv_same, csv] <;>
      rfl
  · have n : ¬(g.live = true ∧ True ∧ 0 < r.cursor.get (sendOf l) ∧ r.cursor.get (sendOf l) % 32 = 0) := by
      rwa [true_and]
    simp only [c, n, if_false, csv]
    cases (s.csv l).remaining <;> rfl

/-- A text character that is handed moves the cursor of its record. -/
theorem moves_of {g : SendGrant} {r : Rec} {handed : Bool} (charges : Charges l s u r g.live handed)
    (others : ∀ j, j ≠ g.index → u.record j = s.record j)
    (cursor : u.record g.index =
      some (if handed then { r with cursor := r.cursor.set (sendOf l) (r.cursor.get (sendOf l) + 1) } else r)) :
    Moves l s (settle (started l b fl u)) g r handed := by
  obtain ⟨-, -, remaining, w, settled, records⟩ := started_goes l b fl u
  exact ⟨remaining.trans charges, w, settled, fun j n => (records j).trans (others j n), (records _).trans cursor⟩

end Sys2Proof.Machine
end


section
/-! SUPPORT. TX_CHARACTER_START case by case: a companion, a sequence's item, and what comes after the sequences (R12, R88). -/

namespace Sys2Proof.Machine

open Sys2Proof

variable {s t u : State} {l : LineId} {b : Comb} {fl : Flight}

theorem Receiver.atStart_eq (half : Bool) (r : Receiver) : r.atStart half = { r with sub := match r.sub with
    | .hunting resume seen => if half = true ∧ r.mode = .framing then .blanked else .hunting resume seen
    | sub => sub } := by
  obtain ⟨mode, sub, pin, last, known, seen, age⟩ := r
  by_cases h : half = true ∧ mode = .framing
  · simp only [Receiver.atStart, h, and_self, if_true]
    cases sub <;> rfl
  · simp only [Receiver.atStart, h, if_false]
    cases sub <;> rfl

theorem unstopped_of (h : ∀ g, (s.selector l).grant = some g → ∃ r, s.record g.index = some r ∧ r.stops.get (sendOf l) = false) :
    Unstopped s l := fun g e => by
  obtain ⟨r, record, stop⟩ := h g e
  rw [stopAsked, record]
  exact stop

/-! ## The companion owed (R12) -/

theorem handItem_companion (s : State) (l : LineId) (f : Flight) :
    ((handItem s l f).selector l).companion = (s.selector l).companion := by
  have consumed : ((consumeItem s l f).selector l).companion = (s.selector l).companion := by
    cases f <;> unfold consumeItem
    case recordText =>
      dsimp only
      split
      · rw [advanceSend_selector]
      · rfl
    all_goals simp only [State.onSend, State.onSelector_selector_same]
  unfold handItem
  dsimp only
  split
  · simp only [State.onSend, State.onSelector_selector_same]
    exact consumed
  · exact consumed

theorem companion_goes {c : Companion} (takes : txTakes s l = true) (h : (s.selector l).companion = some c) :
    Sends l s (txCharacterStart l s) c.comb ∧ ((txCharacterStart l s).selector l).companion = none ∧
      (txCharacterStart l s).ctr.rx = s.ctr.rx ∧ ((txCharacterStart l s).selector l).flight = some c.flight := by
  have ⟨p, _, owed⟩ := sendSweep_busy (l := l) sweepFuel (s := s) (by simp [h])
  have hands := handNext_companion (owed.trans h)
  have q := p.trans (handNext_passed hands)
  rw [txCharacterStart_hands takes p hands]
  have g := started_goes l c.comb c.flight (spaceSent (handItem ((sendSweep sweepFuel s l).setSelector l
    { (sendSweep sweepFuel s l).selector l with companion := none }) l c.flight) l c.space)
  refine ⟨started_sends q, ?_, by rw [g.ctr, q.ctr], by rw [g.selector]⟩
  rw [g.selector, (spaceSent_rest ..).1]
  refine (handItem_companion ..).trans ?_
  rw [State.setSelector_selector_same]

/-- The state in which the companion owed has left. -/
def uncompanioned (s : State) (l : LineId) : State := s.setSelector l { s.selector l with companion := none }

theorem companion_run {c : Companion} (takes : txTakes s l = true) (h : (s.selector l).companion = some c)
    (going : Unstopped s l) : txCharacterStart l s = settle (started l c.comb c.flight
      (spaceSent (handItem (uncompanioned s l) l c.flight) l c.space)) := by
  have still := sendSweep_waits sweepFuel (sendStep_busy (by simp [h]) going)
  exact txCharacterStart_hands takes (by rw [still]; exact .refl s) (by rw [still]; exact handNext_companion h)

theorem companion_sent {c : Companion} {y : Selector} (takes : txTakes s l = true) (h : (s.selector l).companion = some c)
    (going : Unstopped s l) (sel : (handItem (uncompanioned s l) l c.flight).selector l = y) :
    Sent l s (txCharacterStart l s) c.comb c.flight (spacedShift s l c.space) y := by
  rw [companion_run takes h going]
  exact sent_plain (Passed.setSelector ..) rfl sel

theorem uncompanioned_selector (s : State) (l : LineId) :
    (uncompanioned s l).selector l = { s.selector l with companion := none } := State.setSelector_selector_same ..

theorem companion_moves {c : Companion} {g : SendGrant} {r : Rec} (takes : txTakes s l = true)
    (h : (s.selector l).companion = some c) (going : Unstopped s l) (grant : (s.selector l).grant = some g)
    (f : c.flight = .recordText) (record : s.record g.index = some r) : Moves l s (txCharacterStart l s) g r true := by
  rw [companion_run takes h going, f]
  have grant' : ((uncompanioned s l).selector l).grant = some g := by rw [uncompanioned_selector]; exact grant
  have ⟨others, own⟩ := handText_records (uncompanioned s l) l grant' record
  have charges := handText_charges (uncompanioned s l) l grant' record
  obtain ⟨-, csv, stm⟩ := spaceSent_rest (handItem (uncompanioned s l) l .recordText) l c.space
  have same (j : Nat) : (spaceSent (handItem (uncompanioned s l) l .recordText) l c.space).record j =
      (handItem (uncompanioned s l) l .recordText).record j := by rw [State.record, stm]; rfl
  refine moves_of ?_ (fun j n => (same j).trans (others j n)) ((same _).trans own)
  rw [Charges, csv]
  exact charges

/-! ## An item of the front sequence (R5, R88) -/

section front

variable {k : SeqKind} {i : TxItem} {is : List TxItem} {qs : List TxSeq}

/-- The front sequence after its first item has been handed, others having joined behind. -/
def Fronted (s t : State) (l : LineId) (qs : List TxSeq) : Prop :=
  ∃ more, (t.selector l).seqs = qs ++ more ∧ ((s.selector l).answerback = none → more = [])

theorem nextItem_front (front : (s.selector l).seqs = ⟨k, i :: is⟩ :: qs) : nextItem s l = some (i, .seq) := by
  rw [nextItem, front]; rfl

theorem front_raw (takes : txTakes s l = true) (free : (s.selector l).companion = none)
    (front : (s.selector l).seqs = ⟨k, .raw b :: is⟩ :: qs) :
    Sends l s (txCharacterStart l s) b ∧ (txCharacterStart l s).ctr = s.ctr ∧
      Fronted s (txCharacterStart l s) l (⟨k, is⟩ :: qs) := by
  have ⟨p, ctr, free', more, seqs, only⟩ := sendSweep_front (l := l) sweepFuel front (by simp [translateItem]) free
  have hands := handNext_raw free' (nextItem_front seqs)
  rw [txCharacterStart_hands takes p hands]
  have g := started_goes l b .seq (handItem (sendSweep sweepFuel s l) l .seq)
  refine ⟨started_sends (p.trans (handItem_passed ..)), by rw [g.ctr, handItem_ctr, ctr], more, ?_, fun h => (only h).1⟩
  rw [g.selector, handItem_seq _ l seqs]
  rfl

/-- A sequence's item that is not raw goes out with its shift before it. -/
theorem front_item {y : Sending} (takes : txTakes s l = true) (free : (s.selector l).companion = none)
    (front : (s.selector l).seqs = ⟨k, i :: is⟩ :: qs) (raw : ∀ b, i ≠ .raw b)
    (tr : translateItem s.ctr.table i = some y) :
    (∀ sh, shiftBefore (s.ctr.tx.get l) y = some sh → Sends l s (txCharacterStart l s) sh.comb ∧
      (txCharacterStart l s).ctr.tx.get l = .held sh ∧
      ((txCharacterStart l s).selector l).companion = some ⟨y.comb, decide (i = .chr 32), .seq⟩ ∧
      Fronted s (txCharacterStart l s) l (⟨k, i :: is⟩ :: qs)) ∧
    (shiftBefore (s.ctr.tx.get l) y = none → Sends l s (txCharacterStart l s) y.comb ∧
      ((txCharacterStart l s).selector l).companion = none ∧
      (((s.unit l).cfg.usos = false ∨ i ≠ .chr 32) → (txCharacterStart l s).ctr = s.ctr) ∧
      Fronted s (txCharacterStart l s) l (⟨k, is⟩ :: qs)) := by
  have ⟨p, ctr, free', more, seqs, only⟩ := sendSweep_front (l := l) sweepFuel front (by simp [tr]) free
  set v := sendSweep sweepFuel s l
  have hands : handNext v l =
      some ((emit v l y (decide (i = .chr 32)) false .seq).1, .seq, (emit v l y (decide (i = .chr 32)) false .seq).2) := by
    cases i with
    | raw b => exact absurd rfl (raw b)
    | chr c =>
      have e : decide (TxItem.chr c = .chr 32) = decide (c = 32) := by simp
      rw [e]
      exact handNext_chr free' (nextItem_front seqs) (by decide) (by rw [ctr]; exact tr)
    | selectEnd => exact handNext_selectEnd free' (nextItem_front seqs) (by rw [ctr]; exact tr)
  rw [txCharacterStart_hands takes p hands, ← ctr]
  refine ⟨fun sh h => ?_, fun h => ?_⟩
  · rw [emit_shift _ _ _ (by exact h)]
    obtain ⟨sends, -, -, tx, sel⟩ := sent_shift (fl := .seq) (x := y) (sh := sh) (space := decide (i = .chr 32)) p rfl
    refine ⟨sends, tx, by rw [sel], more, by rw [sel]; exact seqs, fun h => (only h).1⟩
  · rw [emit_plain _ _ _ (by exact h)]
    obtain ⟨sends, rx, table, tx, sel⟩ := sent_plain (fl := .seq) (space := decide (i = .chr 32)) p ctr (handItem_seq _ l seqs)
    refine ⟨sends, by rw [sel]; exact free', fun n => ?_, more, by rw [sel]; rfl, fun h => (only h).1⟩
    have g := started_goes l y.comb .seq (spaceSent (handItem v l .seq) l (decide (i = .chr 32)))
    rw [g.ctr, spaceSent, if_neg, handItem_ctr]
    have unit : (handItem v l .seq).unit l = s.unit l := by
      rw [State.unit, (p.trans (handItem_passed v l .seq)).lu]; rfl
    rw [unit]
    rcases n with n | n
    · simp [n]
    · rw [decide_eq_false n]; simp

end front

/-! ## An answerback, a cut-off sequence, a record (R87, R88, R92, R104) -/

section later

variable {c : Chr} {cs : List Chr} {y : Sending} {g : SendGrant} {r : Rec} {after : Selector}

/-- The grant, if there is one, is not stopped and its record not at an end. -/
def GoesOn (s : State) (l : LineId) : Prop :=
  ∀ g, (s.selector l).grant = some g → ∃ r, s.record g.index = some r ∧ r.stops.get (sendOf l) = false ∧
    (g.lead ≠ [] ∨ (∃ c cs, g.tail = some (c :: cs)) ∨ (g.tail = none ∧ r.cursor.get (sendOf l) < r.length))

theorem GoesOn.waits (h : GoesOn s l) (seqs : (s.selector l).seqs = [])
    (answerback : ∀ f, (s.selector l).answerback ≠ some ⟨[], f⟩) (cutoff : (s.selector l).cutoff ≠ some [])
    (next : ∀ i f, nextItem s l = some (i, f) → translateItem s.ctr.table i ≠ none) : sendStep s l = none := by
  refine sendStep_waits (unstopped_of fun g e => ?_) seqs answerback cutoff (fun g e lead => ?_) next
  · obtain ⟨r, record, stop, -⟩ := h g e
    exact ⟨r, record, stop⟩
  · obtain ⟨r, record, -, more | ⟨c, cs, more⟩ | more⟩ := h g e
    · exact absurd lead more
    · exact ⟨by simp [more], fun none => by rw [more] at none; cases none⟩
    · refine ⟨by simp [more.1], fun _ r' record' => ?_⟩
      rw [record] at record'
      cases record'
      exact more.2

/-- An item goes out, its shift before it. -/
def Emits (l : LineId) (s t : State) (y : Sending) (space : Bool) (fl : Flight) (after : Selector) : Prop :=
  (∀ sh, shiftBefore (s.ctr.tx.get l) y = some sh →
    Sent l s t sh.comb fl (.held sh) { s.selector l with companion := some ⟨y.comb, space, fl⟩ }) ∧
  (shiftBefore (s.ctr.tx.get l) y = none → Sent l s t y.comb fl (spacedShift s l space) after)

/-- With nothing to pass, the row hands what comes next. -/
theorem still_run (takes : txTakes s l = true) (still : sendStep s l = none) (hands : handNext s l = some (b, fl, u)) :
    txCharacterStart l s = settle (started l b fl u) := by
  have none := sendSweep_waits sweepFuel still
  exact txCharacterStart_hands takes (by rw [none]; exact .refl s) (by rw [none]; exact hands)

theorem emits_of {space : Bool} (takes : txTakes s l = true) (still : sendStep s l = none)
    (hands : handNext s l = some ((emit s l y space false fl).1, fl, (emit s l y space false fl).2))
    (sel : (handItem s l fl).selector l = after) : Emits l s (txCharacterStart l s) y space fl after := by
  rw [still_run takes still hands]
  refine ⟨fun sh h => ?_, fun h => ?_⟩
  · rw [emit_shift space false fl h]
    exact sent_shift (.refl s) rfl
  · rw [emit_plain space false fl h]
    exact sent_plain (.refl s) rfl sel

theorem chr_emits (takes : txTakes s l = true) (still : sendStep s l = none) (free : (s.selector l).companion = none)
    (next : nextItem s l = some (.chr c, fl)) (f : fl ≠ .answerback) (tr : translateChr s.ctr.table c = some y)
    (sel : (handItem s l fl).selector l = after) : Emits l s (txCharacterStart l s) y (decide (c = 32)) fl after :=
  emits_of takes still (handNext_chr free next f tr) sel

/-! ### An answerback (R12, R104) -/

theorem nextItem_answerback {forced : Bool} (seqs : (s.selector l).seqs = [])
    (h : (s.selector l).answerback = some ⟨c :: cs, forced⟩) : nextItem s l = some (.chr c, .answerback) := by
  simp [nextItem, seqs, h]

theorem answerback_waits {forced : Bool} (goes : GoesOn s l) (seqs : (s.selector l).seqs = [])
    (h : (s.selector l).answerback = some ⟨c :: cs, forced⟩) (cutoff : (s.selector l).cutoff ≠ some [])
    (tr : translateChr s.ctr.table c = some y) : sendStep s l = none := by
  refine goes.waits seqs (by simp [h]) cutoff fun i f next => ?_
  rw [nextItem_answerback seqs h] at next
  cases next
  simp [translateItem, tr]

theorem answerback_plain (takes : txTakes s l = true) (free : (s.selector l).companion = none) (goes : GoesOn s l)
    (seqs : (s.selector l).seqs = []) (h : (s.selector l).answerback = some ⟨c :: cs, false⟩)
    (cutoff : (s.selector l).cutoff ≠ some []) (tr : translateChr s.ctr.table c = some y) :
    Emits l s (txCharacterStart l s) y (decide (c = 32)) .answerback { s.selector l with answerback := some ⟨cs, false⟩ } :=
  emits_of takes (answerback_waits goes seqs h cutoff tr)
    (handNext_answerback free (nextItem_answerback seqs h) h tr) (handItem_answerback s l h)

theorem needsShift_iff (t : List CodeEntry) (cs : List Chr) :
    needsShift t cs = true ↔ ∃ b ∈ cs, ∃ z, translateChr t b = some z ∧ z.need ≠ none := by
  simp only [needsShift, List.any_eq_true]
  refine exists_congr fun b => and_congr_right fun _ => ?_
  cases translateChr t b <;> simp [Option.isSome_iff_ne_none]

/-- The answerback with its first shift done. -/
def shiftDone (s : State) (l : LineId) : State :=
  s.onSelector l fun y => { y with answerback := y.answerback.map fun a => { a with forced := false } }

theorem shiftDone_selector (h : (s.selector l).answerback = some ⟨c :: cs, true⟩) :
    (shiftDone s l).selector l = { s.selector l with answerback := some ⟨c :: cs, false⟩ } :=
  (State.onSelector_selector_same ..).trans (by rw [h]; rfl)

theorem answerback_letters (takes : txTakes s l = true) (free : (s.selector l).companion = none) (goes : GoesOn s l)
    (seqs : (s.selector l).seqs = []) (h : (s.selector l).answerback = some ⟨c :: cs, true⟩)
    (cutoff : (s.selector l).cutoff ≠ some []) (tr : translateChr s.ctr.table c = some y)
    (none : needsShift s.ctr.table (c :: cs) = false) :
    Sent l s (txCharacterStart l s) 31 .answerback (.held .letters) { s.selector l with answerback := some ⟨c :: cs, false⟩ } := by
  have hands : emitAnswerback s l ⟨c :: cs, true⟩ c y =
      (Shift.letters.comb, shiftDone (s.setTxShift l (.held .letters)) l) := by
    simp only [emitAnswerback, none, Bool.not_false, Bool.and_self, if_true]; rfl
  rw [still_run takes (answerback_waits goes seqs h cutoff tr)
    (handNext_answerback free (nextItem_answerback seqs h) h tr), hands]
  have p : Passed l s (shiftDone (s.setTxShift l (.held .letters)) l) := .trans (.setTxShift ..) (.onSelector ..)
  exact sent_of p (Pair.get_set_same ..) (shiftDone_selector (s := s.setTxShift l (.held .letters)) h)

theorem answerback_forced {sh : Shift} (takes : txTakes s l = true) (free : (s.selector l).companion = none)
    (goes : GoesOn s l) (seqs : (s.selector l).seqs = []) (h : (s.selector l).answerback = some ⟨c :: cs, true⟩)
    (cutoff : (s.selector l).cutoff ≠ some []) (tr : translateChr s.ctr.table c = some y) (need : y.need = some sh) :
    Sent l s (txCharacterStart l s) sh.comb .answerback (.held sh) { s.selector l with
      answerback := some ⟨c :: cs, false⟩, companion := some ⟨y.comb, decide (c = 32), .answerback⟩ } := by
  have needs : needsShift s.ctr.table (c :: cs) = true :=
    (needsShift_iff ..).mpr ⟨c, List.mem_cons_self, y, tr, by simp [need]⟩
  have hands : emitAnswerback s l ⟨c :: cs, true⟩ c y =
      (sh.comb, ((shiftDone s l).setTxShift l (.held sh)).onSelector l fun z =>
        { z with companion := some ⟨y.comb, decide (c = 32), .answerback⟩ }) := by
    simp only [emitAnswerback, needs, need, Bool.not_true, Bool.and_false, Bool.false_eq_true, if_false,
      Option.isSome_some, Bool.and_self, if_true]
    exact emit_shift _ true _ (by simp [need])
  rw [still_run takes (answerback_waits goes seqs h cutoff tr)
    (handNext_answerback free (nextItem_answerback seqs h) h tr), hands]
  exact sent_shift (Passed.onSelector ..) (shiftDone_selector h)

theorem answerback_unneeded (takes : txTakes s l = true) (free : (s.selector l).companion = none) (goes : GoesOn s l)
    (seqs : (s.selector l).seqs = []) (h : (s.selector l).answerback = some ⟨c :: cs, true⟩)
    (cutoff : (s.selector l).cutoff ≠ some []) (tr : translateChr s.ctr.table c = some y) (need : y.need = none)
    (needs : needsShift s.ctr.table (c :: cs) = true) :
    Sent l s (txCharacterStart l s) y.comb .answerback (spacedShift s l (decide (c = 32)))
      { s.selector l with answerback := some ⟨cs, true⟩ } := by
  have hands : emitAnswerback s l ⟨c :: cs, true⟩ c y = emit s l y (decide (c = 32)) false .answerback := by
    simp only [emitAnswerback, needs, need, Bool.not_true, Bool.and_false, Bool.false_eq_true, if_false,
      Option.isSome_none]
  have e := emits_of takes (answerback_waits goes seqs h cutoff tr)
    (hands ▸ handNext_answerback free (nextItem_answerback seqs h) h tr) (handItem_answerback s l h)
  exact e.2 (by simp [shiftBefore, need])

/-! ### A cut-off sequence, and a record (R87, R88, R92) -/

theorem cutoff_emits (takes : txTakes s l = true) (free : (s.selector l).companion = none) (goes : GoesOn s l)
    (seqs : (s.selector l).seqs = []) (h : (s.selector l).answerback = none)
    (cutoff : (s.selector l).cutoff = some (c :: cs)) (tr : translateChr s.ctr.table c = some y) :
    Emits l s (txCharacterStart l s) y (decide (c = 32)) .cutoff { s.selector l with cutoff := some cs } := by
  have next : nextItem s l = some (.chr c, .cutoff) := by simp [nextItem, seqs, h, cutoff]
  refine chr_emits takes (goes.waits seqs (by simp [h]) (by simp [cutoff]) fun i f n => ?_) free next (by decide) tr
    (handItem_cutoff s l cutoff)
  rw [next] at n
  cases n
  simp [translateItem, tr]

theorem mayHandRecord_iff (s : State) (l : LineId) : mayHandRecord s l = true ↔
    ((s.csv l).state = .running ∨ ((s.csv l).state = .connected ∧ ((s.csv l).exch.sub = .done ∨ (s.csv l).exch.sub = .plain))) ∧
      ¬ (halfDuplex s l = true ∧ receiveBusy s l = true) := by
  have ready : lineReady s l = true ↔ (s.csv l).state = .running ∨
      ((s.csv l).state = .connected ∧ ((s.csv l).exch.sub = .done ∨ (s.csv l).exch.sub = .plain)) := by
    unfold lineReady
    cases (s.csv l).state <;> simp
    cases (s.csv l).exch.sub <;> simp [ExchSub.isOver]
  rw [mayHandRecord, Bool.and_eq_true, ready, Bool.not_eq_true', Bool.eq_false_iff, Ne, Bool.and_eq_true]

theorem nextItem_grant (seqs : (s.selector l).seqs = []) (h : (s.selector l).answerback = none)
    (cutoff : (s.selector l).cutoff = none) (grant : (s.selector l).grant = some g) : nextItem s l =
      if mayHandRecord s l then (grantChar s l g).map fun c => (.chr c.1, c.2) else none := by
  simp [nextItem, seqs, h, cutoff, grant]

/-- Nothing is handed: what the line has stays as it was. -/
theorem nothing_goes (takes : txTakes s l = true) (still : sendStep s l = none) (free : (s.selector l).companion = none)
    (next : nextItem s l = none) :
    (txCharacterStart l s).unit l = s.unit l ∧ (txCharacterStart l s).selector l = s.selector l := by
  have none := sendSweep_waits sweepFuel still
  rw [txCharacterStart_nothing takes (by rw [none]; exact .refl s) (by rw [none]; exact handNext_none free next), none]
  exact ⟨(settle_line s l).1, (settle_line s l).2.2⟩

/-- A character of the granted record goes out. -/
theorem grant_emits (takes : txTakes s l = true) (free : (s.selector l).companion = none) (goes : GoesOn s l)
    (seqs : (s.selector l).seqs = []) (h : (s.selector l).answerback = none) (cutoff : (s.selector l).cutoff = none)
    (grant : (s.selector l).grant = some g) (ready : mayHandRecord s l = true) (item : grantChar s l g = some (c, fl))
    (f : fl ≠ .answerback) (tr : translateChr s.ctr.table c = some y) (sel : (handItem s l fl).selector l = after) :
    Emits l s (txCharacterStart l s) y (decide (c = 32)) fl after := by
  have next : nextItem s l = some (.chr c, fl) := by
    rw [nextItem_grant seqs h cutoff grant, if_pos ready, item]; rfl
  refine chr_emits takes (goes.waits seqs (by simp [h]) (by simp [cutoff]) fun i f n => ?_) free next f tr sel
  rw [next] at n
  cases n
  simp [translateItem, tr]

theorem grant_waits (takes : txTakes s l = true) (free : (s.selector l).companion = none) (goes : GoesOn s l)
    (seqs : (s.selector l).seqs = []) (h : (s.selector l).answerback = none) (cutoff : (s.selector l).cutoff = none)
    (grant : (s.selector l).grant = some g) (held : mayHandRecord s l = false) :
    (txCharacterStart l s).unit l = s.unit l ∧ (txCharacterStart l s).selector l = s.selector l := by
  have next : nextItem s l = none := by rw [nextItem_grant seqs h cutoff grant, held]; rfl
  exact nothing_goes takes (goes.waits seqs (by simp [h]) (by simp [cutoff]) (by simp [next])) free next

theorem text_moves (takes : txTakes s l = true) (free : (s.selector l).companion = none) (goes : GoesOn s l)
    (seqs : (s.selector l).seqs = []) (h : (s.selector l).answerback = none) (cutoff : (s.selector l).cutoff = none)
    (grant : (s.selector l).grant = some g) (ready : mayHandRecord s l = true)
    (item : grantChar s l g = some (c, .recordText)) (record : s.record g.index = some r)
    (tr : translateChr s.ctr.table c = some y) :
    Moves l s (txCharacterStart l s) g r (decide (shiftBefore (s.ctr.tx.get l) y = none)) := by
  have next : nextItem s l = some (.chr c, .recordText) := by
    rw [nextItem_grant seqs h cutoff grant, if_pos ready, item]; rfl
  have still : sendStep s l = none := by
    refine goes.waits seqs (by simp [h]) (by simp [cutoff]) fun i f n => ?_
    rw [next] at n
    cases n
    simp [translateItem, tr]
  rw [still_run takes still (handNext_chr free next (by decide) tr)]
  cases e : shiftBefore (s.ctr.tx.get l) y with
  | some sh =>
    rw [emit_shift _ false _ e]
    refine moves_of (?_ : (s.csv l).remaining = _) (fun j n => rfl) record
    cases (s.csv l).remaining <;> simp
  | none =>
    rw [emit_plain _ false _ e]
    obtain ⟨others, own⟩ := handText_records s l grant record
    obtain ⟨-, csv, stm⟩ := spaceSent_rest (handItem s l .recordText) l (decide (c = 32))
    have same (j : Nat) : (spaceSent (handItem s l .recordText) l (decide (c = 32))).record j =
        (handItem s l .recordText).record j := by rw [State.record, stm]; rfl
    refine moves_of ?_ (fun j n => (same j).trans (others j n)) ((same _).trans own)
    rw [Charges, csv]
    exact handText_charges s l grant record

end later

end Sys2Proof.Machine
end


section
/-! PROOF. The obligation on the start of a character. -/

open Sys2Proof Sys2Proof.Machine

/-- Settles O27: the sweep before the row passes nothing that the next item is of, and `Sends`, `Sent`, `Emits` and `Moves`
say what handing it leaves. -/
theorem txCharacterStartHandsTheNext : Obligations.TxCharacterStartHandsTheNext := by
  intro l s takes x d sends unstopped goesOn spaced sent charges moves emits
  have toSends {t : State} {b : Comb} (h : Sends l s t b) : sends t b := by
    refine ⟨?_, h.flight, h.tbu, h.identity, h.cells, h.others, h.idle⟩
    have half : halfDuplex s l = true ↔ (s.unit l).cfg.duplex = .half ∨ (s.csv l).exch.half = true := by
      simp [halfDuplex]
    have e := h.unit
    rw [Receiver.atStart_eq] at e
    simp only [half] at e
    refine e.trans ?_
    cases (s.unit l).rx.sub <;> rfl
  have toSent {t : State} {b : Comb} {fl : Flight} {tx : ShiftRecord} {y : Selector} (h : Sent l s t b fl tx y) :
      sent t b fl tx y := ⟨toSends h.1, h.2⟩
  have toEmits {t : State} {y : Sending} {c : Chr} {fl : Flight} {after : Selector}
      (h : Emits l s t y (decide (c = 32)) fl after) : emits t y c fl after :=
    ⟨fun sh e => toSent (h.1 sh e), fun e => toSent (h.2 e)⟩
  have toMoves {t : State} {g : SendGrant} {r : Rec} {handed : Bool} (h : Moves l s t g r handed) : moves t g r handed := h
  refine ⟨fun n => ?_, fun h => ⟨txCharacterStart l s, rfl, fun c owed => ?_, fun free flight => ⟨?_, ?_, ?_⟩, ?_⟩⟩
  · exact congrArg Host.Outcome.next (txCharacterStart_idle (Bool.eq_false_iff.mpr fun h => n ((txTakes_iff s l).mp h)))
  all_goals have h : txTakes s l = true := (txTakes_iff s l).mpr h
  · obtain ⟨out, none, rx, flight⟩ := companion_goes h owed
    refine ⟨toSends out, none, rx, flight, fun going => ?_⟩
    have going : Unstopped s l := unstopped_of going
    have gone := uncompanioned_selector s l
    refine ⟨fun k is qs f e => ?_, fun a f e => ?_, fun cs f e => ?_, fun g e => ⟨fun f => ?_, fun f => ?_, fun r f record => ?_⟩⟩
    · exact toSent (companion_sent h owed going (by rw [f, handItem_seq _ l (by rw [gone]; exact e), gone]))
    · exact toSent (companion_sent h owed going (by rw [f, handItem_answerback _ l (by rw [gone]; exact e), gone]))
    · exact toSent (companion_sent h owed going (by rw [f, handItem_cutoff _ l (by rw [gone]; exact e), gone]))
    · exact toSent (companion_sent h owed going (by rw [f, handItem_lead _ l (by rw [gone]; exact e), gone]))
    · exact toSent (companion_sent h owed going (by rw [f, handItem_tail _ l (by rw [gone]; exact e), gone]))
    · exact ⟨toSent (companion_sent h owed going (by rw [f, handItem_text _ l (by rw [gone]; exact e), gone])),
        toMoves (companion_moves h owed going e f record)⟩
  · intro k b is qs front
    obtain ⟨out, rest⟩ := front_raw h free front
    exact ⟨toSends out, rest⟩
  · intro k i is qs y front raw tr
    obtain ⟨shifted, plain⟩ := front_item h free front raw tr
    refine ⟨fun sh e => ?_, fun e => ?_⟩
    · obtain ⟨out, rest⟩ := shifted sh e
      exact ⟨toSends out, rest⟩
    · obtain ⟨out, rest⟩ := plain e
      exact ⟨toSends out, rest⟩
  · intro seqs goes
    refine ⟨fun c cs forced y answerback cutoff tr => ⟨?_, ?_⟩, fun c cs y answerback cutoff tr => ?_,
      fun g r answerback cutoff grant record => ?_⟩
    · rintro rfl
      exact toEmits (answerback_plain h free goes seqs answerback cutoff tr)
    · rintro rfl
      refine ⟨fun none => ?_, fun sh need => ?_, fun need some => ?_⟩
      · refine toSent (answerback_letters h free goes seqs answerback cutoff tr (Bool.eq_false_iff.mpr fun needs => ?_))
        obtain ⟨b, m, z, e, need⟩ := (needsShift_iff ..).mp needs
        exact need (none b m z e)
      · exact toSent (answerback_forced h free goes seqs answerback cutoff tr need)
      · obtain ⟨b, m, rest⟩ := some
        exact toSent (answerback_unneeded h free goes seqs answerback cutoff tr need
          ((needsShift_iff ..).mpr ⟨b, List.mem_cons_of_mem _ m, rest⟩))
    · exact toEmits (cutoff_emits h free goes seqs answerback cutoff tr)
    · intro ready
      have may : mayHandRecord s l = true ↔ ready := mayHandRecord_iff s l
      refine ⟨fun n => ?_, fun c cs y go lead tr => ?_, fun c cs y go lead tail tr => ?_, fun y go lead tail tr => ?_⟩
      · exact grant_waits h free goes seqs answerback cutoff grant (Bool.eq_false_iff.mpr fun m => n (may.mp m))
      · refine toEmits (grant_emits h free goes seqs answerback cutoff grant (may.mpr go)
          (by rw [grantChar, lead]) (by decide) tr ?_)
        rw [handItem_lead s l grant, lead]; rfl
      · refine toEmits (grant_emits h free goes seqs answerback cutoff grant (may.mpr go)
          (by rw [grantChar, lead, tail]) (by decide) tr ?_)
        rw [handItem_tail s l grant, tail]; rfl
      · have item : grantChar s l g = some (readChar s r (r.cursor.get d), .recordText) := by
          obtain ⟨r', record', -, more | ⟨c, cs, more⟩ | more⟩ := goes g grant
          · exact absurd lead more
          · rw [tail] at more; cases more
          · rw [record] at record'
            cases record'
            simp only [grantChar, lead, tail, record]
            exact if_pos more.2
        exact ⟨toEmits (grant_emits h free goes seqs answerback cutoff grant (may.mpr go) item (by decide) tr
          (handItem_text s l grant)), toMoves (text_moves h free goes seqs answerback cutoff grant (may.mpr go) item record tr)⟩
  · rintro free ⟨seqs, answerback⟩ (cutoff : (s.selector l).cutoff = none) (grant : (s.selector l).grant = none)
    have next : nextItem s l = none := by simp [nextItem, seqs, answerback, cutoff, grant]
    have goes : GoesOn s l := fun g e => by rw [grant] at e; cases e
    exact nothing_goes h (goes.waits seqs (by simp [answerback]) (by simp [cutoff]) (by simp [next])) free next

end


section
/-! SUPPORT. The end of a connection, the entry into GUARD and the entry into CLEARING (R86, R93, R99, R109, R110, R131):
what they make of their line, and that they leave the other line and the common parts alone. -/

namespace Sys2Proof.Machine

open Sys2Proof

variable {s t u : State} {l : LineId} {why : ClearReason}

/-! ## What touches one line -/

/-- `t` comes from `s` by what touches the store, the event latches and line l only: nothing of the other line, and nothing
of the timebase, the translator, the identity, the exchange configuration and the event mask. -/
structure LineOnly (l : LineId) (s t : State) : Prop where
  tbu : t.tbu = s.tbu := by rfl
  ctr : t.ctr = s.ctr := by rfl
  identity : t.identity = s.identity := by rfl
  xcfg : t.xcfg = s.xcfg := by rfl
  mask : t.cpe.mask = s.cpe.mask := by rfl
  unit : ∀ k, k ≠ l → t.unit k = s.unit k := by exact fun _ _ => rfl
  csv : ∀ k, k ≠ l → t.csv k = s.csv k := by exact fun _ _ => rfl
  selector : ∀ k, k ≠ l → t.selector k = s.selector k := by exact fun _ _ => rfl
  framer : ∀ k, k ≠ l → t.framerOf k = s.framerOf k := by exact fun _ _ => rfl
  latched : ∀ k, s.cpe.latches.getLsbD k = true → t.cpe.latches.getLsbD k = true := by exact fun _ h => h

namespace LineOnly

theorem refl (l : LineId) (s : State) : LineOnly l s s := {}

theorem trans (a : LineOnly l s t) (b : LineOnly l t u) : LineOnly l s u where
  tbu := b.tbu.trans a.tbu
  ctr := b.ctr.trans a.ctr
  identity := b.identity.trans a.identity
  xcfg := b.xcfg.trans a.xcfg
  mask := b.mask.trans a.mask
  unit := fun k n => (b.unit k n).trans (a.unit k n)
  csv := fun k n => (b.csv k n).trans (a.csv k n)
  selector := fun k n => (b.selector k n).trans (a.selector k n)
  framer := fun k n => (b.framer k n).trans (a.framer k n)
  latched := fun k h => b.latched k (a.latched k h)

theorem ite {c : Prop} [Decidable c] (a : LineOnly l s t) (b : LineOnly l s u) : LineOnly l s (if c then t else u) := by
  split
  · exact a
  · exact b

theorem store (a : StoreStep s t false) : LineOnly l s t where
  tbu := a.tbu
  ctr := a.ctr
  identity := a.identity
  xcfg := a.xcfg
  mask := by rw [a.cpe]
  unit := fun k _ => by rw [State.unit, a.lu]; rfl
  csv := fun k _ => by rw [State.csv, a.sup]; rfl
  selector := fun k _ => by rw [State.selector, a.fqm]; rfl
  framer := fun k _ => congrArg (Pair.get · k) (a.framers rfl)
  latched := a.latched

theorem latch (s : State) (e : Event) : LineOnly l s (s.latch e) := .store (.latch s e)
theorem onUnit (s : State) (f : LineUnit → LineUnit) : LineOnly l s (s.onUnit l f) where
  unit := fun _ n => State.onUnit_unit_ne s f n
theorem onCsv (s : State) (f : Supervisor → Supervisor) : LineOnly l s (s.onCsv l f) where
  csv := fun _ n => State.onCsv_csv_ne s f n
theorem setCsv (s : State) (v : Supervisor) : LineOnly l s (s.setCsv l v) := onCsv s fun _ => v
theorem onRx (s : State) (f : Receiver → Receiver) : LineOnly l s (s.onRx l f) := onUnit ..
theorem onTx (s : State) (f : Transmitter → Transmitter) : LineOnly l s (s.onTx l f) := onUnit ..
theorem onExch (s : State) (f : Exchange → Exchange) : LineOnly l s (s.onExch l f) := onCsv ..
theorem onSelector (s : State) (f : Selector → Selector) : LineOnly l s (s.onSelector l f) where
  selector := fun _ n => State.onSelector_selector_ne s f n
theorem setFramer (s : State) (x : Framer) : LineOnly l s (s.setFramer l x) where
  framer := fun _ n => State.setFramer_framerOf_ne s x n

theorem settled (a : Settled (oneLine l) s t) : LineOnly l s t where
  tbu := a.kept.tbu
  ctr := a.kept.ctr
  identity := a.kept.identity
  xcfg := a.kept.xcfg
  mask := by rw [a.kept.cpe]
  unit := fun k n => (a.kept.quiet k (decide_eq_false n)).1
  csv := fun k n => (a.kept.quiet k (decide_eq_false n)).2.1
  selector := fun k n => (a.kept.quiet k (decide_eq_false n)).2.2
  framer := fun k _ => by rw [State.framerOf, a.kept.fqm]; rfl
  latched := a.kept.latched

theorem otherLineKept (a : LineOnly l s t) : OtherLineKept s t l := fun k n =>
  ⟨a.unit k n, a.csv k n, a.selector k n, a.framer k n, by rw [a.ctr], by rw [a.ctr], by rw [a.tbu]⟩

end LineOnly

theorem OtherLineKept.trans (a : OtherLineKept s t l) (b : OtherLineKept t u l) : OtherLineKept s u l := fun k n => by
  obtain ⟨unit, csv, selector, framer, tx, rx, inc⟩ := a k n
  obtain ⟨unit', csv', selector', framer', tx', rx', inc'⟩ := b k n
  exact ⟨unit'.trans unit, csv'.trans csv, selector'.trans selector, framer'.trans framer, tx'.trans tx, rx'.trans rx,
    inc'.trans inc⟩

theorem latch_latched (s : State) (e : Event) : Latched (s.latch e) e := by
  have h : e.bit < 17 := by cases e <;> decide
  simp [Latched, State.latch, h]

/-! ## The end of a connection (R99) -/

theorem framerEnd_only (s : State) (l : LineId) : LineOnly l s (framerEnd s l) := by
  unfold framerEnd
  dsimp only
  split
  · exact .refl l s
  all_goals exact .trans (.store (.trans (storeLineChars_step ..) (closeLineMessage_step ..))) (.setFramer ..)

theorem framerEnd_idle (s : State) (l : LineId) : ((framerEnd s l).framerOf l).phase = .idle := by
  unfold framerEnd
  dsimp only
  split
  · assumption
  all_goals rw [State.setFramer_framerOf_same]; rfl

theorem endSendOnConnection_only (s : State) (l : LineId) : LineOnly l s (endSendOnConnection s l) := by
  unfold endSendOnConnection
  dsimp only
  have a (v : State) (f : Nat → Rec → Rec) (g : Selector → Selector) : LineOnly l v ((v.onRecords f).onSelector l g) :=
    .trans (.store (.onRecords ..)) (.onSelector ..)
  split
  · exact .trans (a ..) (.store (endGrant_step ..))
  · exact a ..

/-- A store operation leaves a line's unit, supervisor, selector, framer and reservation. -/
theorem StoreOnly.line {P : Nat → Prop} (a : StoreOnly P s t) (l : LineId) :
    t.unit l = s.unit l ∧ t.csv l = s.csv l ∧ t.selector l = s.selector l ∧ t.framerOf l = s.framerOf l ∧
      t.stm.reservation = s.stm.reservation :=
  ⟨a.storeStep.unit l, a.storeStep.csv l, a.storeStep.selector l, congrArg (Pair.get · l) (a.storeStep.framers rfl),
    by rw [a.stm]⟩

theorem endSendOnConnection_line (s : State) (l : LineId) : (endSendOnConnection s l).unit l = s.unit l ∧
    (endSendOnConnection s l).csv l = s.csv l ∧ (endSendOnConnection s l).selector l =
      { s.selector l with grant := none, cutoff := none, companion := none, deferral := false } ∧
    (endSendOnConnection s l).framerOf l = s.framerOf l ∧
    (endSendOnConnection s l).stm.reservation = s.stm.reservation := by
  unfold endSendOnConnection
  dsimp only
  split
  · next i _ =>
    obtain ⟨unit, csv, sel, framer, reservation⟩ := (endGrant_storeOnly _ (sendOf l) i).line l
    exact ⟨unit, csv, sel.trans (State.onSelector_selector_same ..), framer, reservation⟩
  · exact ⟨rfl, rfl, State.onSelector_selector_same .., rfl, rfl⟩

theorem setReservation_reservation (s : State) (l : LineId) (n : Nat) :
    (setReservation s l n).stm.reservation = s.stm.reservation.set l n := by
  unfold setReservation
  dsimp only
  split
  · exact congrArg Store.reservation (unreservedRose_storeOnly (fun _ => False) _).stm
  · exact congrArg Store.reservation (evalLow_storeOnly (fun _ => False) _).stm

/-- What the end of a connection does once the selector has ended its grant: what is placed goes, and an open exchange is
abandoned (R99, R131). -/
def connectionOver (s : State) (l : LineId) : State :=
  (abandonExchange (dropPlaced s l) l).onCsv l fun c =>
    { c with exch := { c.exch with half := false }, ending := false, abActive := false }

theorem connectionEnd_eq (s : State) (l : LineId) :
    connectionEnd s l = connectionOver (endSendOnConnection (setReservation (framerEnd s l) l 0) l) l := rfl

theorem dropPlaced_only (s : State) (l : LineId) : LineOnly l s (dropPlaced s l) := .onSelector ..
theorem abandonExchange_only (s : State) (l : LineId) : LineOnly l s (abandonExchange s l) := .onExch ..
theorem order_only (s : State) (l : LineId) (v : Level) : LineOnly l s (s.order l v) := .onTx ..

theorem connectionOver_only (s : State) (l : LineId) : LineOnly l s (connectionOver s l) := by
  unfold connectionOver
  exact .trans (.trans (dropPlaced_only ..) (abandonExchange_only ..)) (.onCsv ..)

theorem abandonExchange_csv (s : State) (l : LineId) :
    ∃ e, (abandonExchange s l).csv l = { s.csv l with exch := e } := ⟨_, State.onExch_csv_same ..⟩

theorem connectionOver_line (s : State) (l : LineId) : (connectionOver s l).unit l = s.unit l ∧
    (∃ e, (connectionOver s l).csv l = { s.csv l with exch := e, ending := false, abActive := false }) ∧
    (connectionOver s l).selector l = { s.selector l with seqs := [], answerback := none } ∧
    (connectionOver s l).framerOf l = s.framerOf l ∧ (connectionOver s l).stm = s.stm := by
  obtain ⟨e, csv⟩ := abandonExchange_csv (dropPlaced s l) l
  refine ⟨rfl, ⟨{ e with half := false }, ?_⟩, ?_, rfl, rfl⟩
  · rw [connectionOver, State.onCsv_csv_same, csv]
    rfl
  · exact State.onSelector_selector_same s l fun x => { x with seqs := [], answerback := none }

theorem connectionEnd_only (s : State) (l : LineId) : LineOnly l s (connectionEnd s l) := by
  have a : LineOnly l s (endSendOnConnection (setReservation (framerEnd s l) l 0) l) :=
    .trans (.trans (framerEnd_only ..) (.store (setReservation_step ..))) (endSendOnConnection_only ..)
  exact a.trans (connectionOver_only ..)

/-- Line l after its connection's end (R86, R93, R99, R131). -/
theorem connectionEnd_line (s : State) (l : LineId) : (connectionEnd s l).unit l = s.unit l ∧
    (∃ e, (connectionEnd s l).csv l = { s.csv l with exch := e, ending := false, abActive := false }) ∧
    NothingPlaced (connectionEnd s l) l ∧ ((connectionEnd s l).selector l).grant = none ∧
    ((connectionEnd s l).selector l).cutoff = none ∧
    ((connectionEnd s l).framerOf l).phase = .idle ∧ (connectionEnd s l).stm.reservation.get l = 0 := by
  have stored : StoreStep s (setReservation (framerEnd s l) l 0) := (framerEnd_step ..).trans (setReservation_step ..)
  have framed : ((setReservation (framerEnd s l) l 0).framerOf l).phase = .idle := by
    rw [State.framerOf, (setReservation_step (framing := false) (framerEnd s l) l 0).framers rfl]
    exact framerEnd_idle s l
  have reserved : (setReservation (framerEnd s l) l 0).stm.reservation.get l = 0 := by
    rw [setReservation_reservation, Pair.get_set_same]
  obtain ⟨unit, csv, sel, framer, reservation⟩ := endSendOnConnection_line (setReservation (framerEnd s l) l 0) l
  rw [connectionEnd_eq]
  obtain ⟨unit', ⟨e, csv'⟩, sel', framer', stm'⟩ :=
    connectionOver_line (endSendOnConnection (setReservation (framerEnd s l) l 0) l) l
  rw [NothingPlaced, csv', sel', framer', stm', unit', unit, csv, sel, framer, reservation, stored.unit, stored.csv]
  exact ⟨rfl, ⟨e, rfl⟩, ⟨rfl, rfl⟩, rfl, rfl, framed, reserved⟩

/-! ## The entry into GUARD (R110) -/

theorem enterGuard_only (s : State) (l : LineId) : LineOnly l s (enterGuard s l) :=
  .trans (.trans (.trans (.trans (.onCsv ..) (.onCsv ..)) (.onUnit ..)) (.onUnit ..)) (.latch ..)

theorem order_ordered (s : State) (l : LineId) (v : Level) : ((s.order l v).unit l).tx.ordered = v := by
  rw [State.order, State.onTx_unit_same]
  dsimp only
  split <;> rfl

theorem order_rx (s : State) (l : LineId) (v : Level) : ((s.order l v).unit l).rx = (s.unit l).rx := by
  rw [State.order, State.onTx_unit_same]

theorem enterCondition_mode (s : State) (l : LineId) : ((enterCondition s l).unit l).rx.mode = .condition := by
  rw [enterCondition, State.onRx_unit_same]
  dsimp only
  split
  · assumption
  · rfl

theorem enterGuard_line (s : State) (l : LineId) : (enterGuard s l).selector l = s.selector l ∧
    (enterGuard s l).framerOf l = s.framerOf l ∧ (enterGuard s l).stm = s.stm ∧
    (enterGuard s l).csv l = { s.csv l with
      state := .guard, phase := .none, captured := []
      timers := { (s.csv l).timers.onlyPrestarts with guard := some (s.csv l).values.guardMs } } ∧
    ((enterGuard s l).unit l).rx.mode = .condition ∧ ((enterGuard s l).unit l).tx.ordered = .space ∧
    Latched (enterGuard s l) (stateEvent l) := by
  refine ⟨rfl, rfl, rfl, ?_, ?_, order_ordered .., latch_latched ..⟩
  · cases l <;> rfl
  · exact (congrArg Receiver.mode (order_rx ..)).trans (enterCondition_mode ..)

/-! ## The entry into CLEARING (R109) -/

/-- The line as it enters CLEARING, before a receiver already in the space condition confirms the clear (R109). -/
def clearingBegun (s : State) (l : LineId) (why : ClearReason) : State :=
  let t := (s.enterSup l .clearing).onCsv l fun c =>
    { c with lastClear := why, abActive := false
             timers := { c.timers with clearConfirm := some c.values.clearConfirmMs } }
  ((abandonExchange (dropPlaced t l) l).order l .space).onRx l Receiver.frame

theorem enterClearing_eq (s : State) (l : LineId) (why : ClearReason) : enterClearing s l why =
    if ((clearingBegun s l why).unit l).rx.inSpace then clearConfirmed (clearingBegun s l why) l
    else clearingBegun s l why := rfl

theorem clearingBegun_only (s : State) (l : LineId) (why : ClearReason) : LineOnly l s (clearingBegun s l why) := by
  have a : LineOnly l s ((s.enterSup l .clearing).onCsv l fun c =>
    { c with lastClear := why, abActive := false
             timers := { c.timers with clearConfirm := some c.values.clearConfirmMs } }) := .trans (.onCsv ..) (.onCsv ..)
  exact a.trans (.trans (.trans (.trans (dropPlaced_only ..) (abandonExchange_only ..)) (order_only ..)) (.onRx ..))

theorem Receiver.frame_inSpace (r : Receiver) : r.frame.inSpace = r.meetsSpace := by
  unfold Receiver.frame Receiver.meetsSpace
  split
  · rfl
  · cases e : r.pin <;> simp [Receiver.inSpace]

theorem clearingBegun_line (s : State) (l : LineId) (why : ClearReason) : (clearingBegun s l why).stm = s.stm ∧
    (∃ e, (clearingBegun s l why).csv l = { s.csv l with
      state := .clearing, phase := .none, captured := [], lastClear := why, abActive := false, exch := e
      timers := { (s.csv l).timers.onlyPrestarts with clearConfirm := some (s.csv l).values.clearConfirmMs } }) ∧
    NothingPlaced (clearingBegun s l why) l ∧ ((clearingBegun s l why).unit l).tx.ordered = .space ∧
    ((clearingBegun s l why).unit l).rx = (s.unit l).rx.frame := by
  obtain ⟨e, csv⟩ := abandonExchange_csv (dropPlaced ((s.enterSup l .clearing).onCsv l fun c =>
    { c with lastClear := why, abActive := false
             timers := { c.timers with clearConfirm := some c.values.clearConfirmMs } }) l) l
  refine ⟨rfl, ⟨e, csv.trans ?_⟩, ?_, ?_, ?_⟩
  · cases l <;> rfl
  · constructor <;> cases l <;> rfl
  · rw [clearingBegun, State.onRx_unit_same]
    exact order_ordered ..
  · rw [clearingBegun, State.onRx_unit_same]
    exact congrArg Receiver.frame (order_rx ..)

theorem enterClearing_only (s : State) (l : LineId) (why : ClearReason) : LineOnly l s (enterClearing s l why) := by
  rw [enterClearing_eq]
  exact .ite ((clearingBegun_only ..).trans ((connectionEnd_only ..).trans (enterGuard_only ..))) (clearingBegun_only ..)

/-- The supervisor keeps its digits, its remote answerback and its values over a clear; the connection record stays (R97). -/
theorem enterClearing_entered (s : State) (l : LineId) (why : ClearReason) :
    EnteredClearing s (enterClearing s l why) l why ∧
      ((enterClearing s l why).csv l).remote = (s.csv l).remote ∧
      (((enterClearing s l why).selector l).grant = none → (s.unit l).rx.meetsSpace = true →
        ((enterClearing s l why).selector l).cutoff = none) := by
  obtain ⟨stm, ⟨e, csv⟩, placed, ordered, rx⟩ := clearingBegun_line s l why
  have only := enterClearing_only s l why
  have space : ((clearingBegun s l why).unit l).rx.inSpace = (s.unit l).rx.meetsSpace := by rw [rx, Receiver.frame_inSpace]
  cases m : (s.unit l).rx.meetsSpace
  · have still : enterClearing s l why = clearingBegun s l why := by rw [enterClearing_eq, space, m]; rfl
    rw [still] at only ⊢
    refine ⟨?_, by rw [csv], nofun⟩
    exact {
      reason := by rw [csv], ordered, placed, others := only.otherLineKept
      ends := by rw [csv]
      clearing := fun _ => ⟨by rw [csv], by rw [csv], by rw [rx, Receiver.frame_mode], by rw [stm], by rw [stm]⟩
      guard := by rw [m]; nofun
      kept := ⟨only.tbu, only.ctr, only.identity, only.xcfg, only.mask, by rw [csv], by rw [csv]⟩ }
  · have confirmed : enterClearing s l why = enterGuard (connectionEnd (clearingBegun s l why) l) l := by
      rw [enterClearing_eq, space, m]; rfl
    obtain ⟨-, ⟨x, ended⟩, placed', grant, cutoff, framer, reserved⟩ := connectionEnd_line (clearingBegun s l why) l
    obtain ⟨sel, framer', stm', csv', mode, ordered', latched⟩ := enterGuard_line (connectionEnd (clearingBegun s l why) l) l
    rw [ended, csv] at csv'
    rw [confirmed] at only ⊢
    refine ⟨?_, by rw [csv'], fun _ _ => by rw [sel, cutoff]⟩
    exact {
      reason := by rw [csv'], others := only.otherLineKept
      ordered := ordered'
      placed := by rw [NothingPlaced, sel]; exact placed'
      ends := by rw [csv']
      clearing := by rw [m]; nofun
      guard := fun _ => ⟨by rw [csv'], by rw [csv'], latched, mode, by rw [framer']; exact framer,
        by rw [stm']; exact reserved, by rw [sel]; exact grant, by rw [csv']⟩
      kept := ⟨only.tbu, only.ctr, only.identity, only.xcfg, only.mask, by rw [csv'], by rw [csv']⟩ }

/-- What leaves the receiver, the supervision values, the call count, the cells and the reservations of a line alone may come
before its entry into CLEARING. -/
theorem EnteredClearing.after (a : EnteredClearing t u l why) (o : LineOnly l s t) (rx : (t.unit l).rx = (s.unit l).rx)
    (values : (t.csv l).values = (s.csv l).values) (count : (t.csv l).callCount = (s.csv l).callCount)
    (cells : t.stm.cells = s.stm.cells) (reservation : t.stm.reservation = s.stm.reservation) :
    EnteredClearing s u l why := by
  obtain ⟨tbu, ctr, identity, xcfg, mask, count', values'⟩ := a.kept
  exact { a with
    clearing := by rw [← rx, ← values, ← cells, ← reservation]; exact a.clearing
    guard := by rw [← rx, ← values]; exact a.guard
    others := o.otherLineKept.trans a.others
    kept := ⟨tbu.trans o.tbu, ctr.trans o.ctr, identity.trans o.identity, xcfg.trans o.xcfg, mask.trans o.mask,
      count'.trans count, values'.trans values⟩ }

/-! ## What settling leaves of it -/

/-- With nothing placed, no grant and no cut-off sequence the selector stands still. -/
theorem sendStep_nothing (placed : NothingPlaced s l) (grant : (s.selector l).grant = none)
    (cutoff : (s.selector l).cutoff = none) : sendStep s l = none := by
  obtain ⟨seqs, answerback⟩ := placed
  have next : nextItem s l = none := by simp [nextItem, seqs, answerback, cutoff, grant]
  refine sendStep_waits ?_ seqs ?_ ?_ ?_ ?_
  · simp [Unstopped, grant]
  · simp [answerback]
  · simp [cutoff]
  · simp [grant]
  · simp [next]

theorem EnteredClearing.settled (a : EnteredClearing s u l why)
    (still : (u.selector l).grant = none → (s.unit l).rx.meetsSpace = true → (u.selector l).cutoff = none) :
    EnteredClearing s (settleLine u l) l why ∧ ((settleLine u l).csv l).remote = (u.csv l).remote ∧
      ∀ e, Latched u e → Latched (settleLine u l) e := by
  have settled := settleLine_settled u l
  have only := LineOnly.settled settled
  obtain ⟨placed, csv⟩ := settled.kept.csv l a.placed
  have unit := settled.kept.unit l
  have stm := settled.kept.stm
  obtain ⟨tbu, ctr, identity, xcfg, mask, count, values⟩ := a.kept
  refine ⟨?_, by rw [csv], fun e h => settled.kept.latched _ h⟩
  exact {
    reason := by rw [csv]; exact a.reason
    ordered := by rw [unit]; exact a.ordered
    placed := placed
    ends := by rw [csv]; exact a.ends
    clearing := fun h => by
      rw [csv, unit, stm]
      exact a.clearing h
    guard := fun h => by
      obtain ⟨state, timer, latched, mode, framer, reservation, grant, ending⟩ := a.guard h
      have sweep : sendSweep sweepFuel u l = u := sendSweep_waits _ (sendStep_nothing a.placed grant (still grant h))
      have sel : (settleLine u l).selector l = u.selector l := by
        rw [settleLine, sweep]
        exact (settle_line u l).2.2
      rw [sel, csv, unit, stm, State.framerOf, settled.kept.fqm]
      exact ⟨state, timer, settled.kept.latched _ latched, mode, framer, reservation, grant, ending⟩
    others := a.others.trans only.otherLineKept
    kept := ⟨only.tbu.trans tbu, only.ctr.trans ctr, only.identity.trans identity, only.xcfg.trans xcfg,
      only.mask.trans mask, by rw [csv]; exact count, by rw [csv]; exact values⟩ }

/-- A row that takes a line to CLEARING has taken it there when the step is over. -/
theorem settleLine_clearing (s : State) (l : LineId) (why : ClearReason) :
    EnteredClearing s (settleLine (enterClearing s l why) l) l why ∧
      ((settleLine (enterClearing s l why) l).csv l).remote = (s.csv l).remote ∧
      ∀ e, Latched s e → Latched (settleLine (enterClearing s l why) l) e := by
  obtain ⟨entered, remote, still⟩ := enterClearing_entered s l why
  obtain ⟨settled, remote', latched⟩ := entered.settled still
  exact ⟨settled, remote'.trans remote, fun e h => latched e ((enterClearing_only s l why).latched _ h)⟩

end Sys2Proof.Machine
end


section
/-! SUPPORT. The rows of an outgoing call: who-are-you placed, the end of a capture, and the conditions of the call's end
(R91, R108, R114, R115). -/

namespace Sys2Proof.Machine

open Sys2Proof

variable {s t u : State} {l : LineId}

theorem isDue_iff (x : Option Nat) : isDue x = true ↔ x = some 0 := by
  unfold isDue
  split <;> simp_all

/-! ## Who-are-you placed (R108, R114) -/

theorem placeWru_csv (s : State) (l : LineId) : (placeWru s l).csv l =
    { s.csv l with phase := .asking, timers := { (s.csv l).timers with quiet := none } } := by cases l <;> rfl

theorem placeWru_selector (s : State) (l : LineId) : (placeWru s l).selector l =
    { s.selector l with seqs := (s.selector l).seqs ++ [⟨.wru, [.chr 5]⟩] } := by cases l <;> rfl

theorem placeSeq_only (s : State) (l : LineId) (q : TxSeq) : LineOnly l s (placeSeq s l q) := .onSelector ..

theorem placeWru_only (s : State) (l : LineId) : LineOnly l s (placeWru s l) := .trans (.onCsv ..) (placeSeq_only ..)

/-- A front item that can be sent holds the supervisor as it is while the selector steps. -/
theorem sendSweep_holds (n : Nat) {k : SeqKind} {i : TxItem} {is : List TxItem} {qs : List TxSeq}
    (front : (s.selector l).seqs = ⟨k, i :: is⟩ :: qs) (none : (s.selector l).answerback = none)
    (sends : translateItem s.ctr.table i ≠ .none) :
    (sendSweep n s l).csv l = s.csv l ∧ ((sendSweep n s l).selector l).seqs = (s.selector l).seqs := by
  have main : (sendSweep n s l).ctr = s.ctr ∧ (sendSweep n s l).csv l = s.csv l ∧
      ((sendSweep n s l).selector l).seqs = (s.selector l).seqs ∧ ((sendSweep n s l).selector l).answerback = .none := by
    refine sendSweep_induct (R := fun t => t.ctr = s.ctr ∧ t.csv l = s.csv l ∧
      (t.selector l).seqs = (s.selector l).seqs ∧ (t.selector l).answerback = .none) n ⟨rfl, rfl, rfl, none⟩ ?_
    rintro t u ⟨ctr, csv, seqs, answerback⟩ step
    have store {v : State} {P : Nat → Prop} (a : StoreOnly P v u) (c : v.ctr = t.ctr) (d : v.csv l = t.csv l)
        (e : (v.selector l).seqs = (t.selector l).seqs) (f : (v.selector l).answerback = (t.selector l).answerback) :
        u.ctr = s.ctr ∧ u.csv l = s.csv l ∧ (u.selector l).seqs = (s.selector l).seqs ∧
          (u.selector l).answerback = .none := by
      obtain ⟨-, csv', sel, -⟩ := a.line l
      rw [a.ctr, csv', sel]
      exact ⟨c.trans ctr, d.trans csv, e.trans seqs, f.trans answerback⟩
    have cleared (g : Option SendGrant) (c : Option (List Chr)) :
        ((t.setSelector l { t.selector l with grant := g, cutoff := c }).selector l) =
          { t.selector l with grant := g, cutoff := c } := State.setSelector_selector_same ..
    rcases sendStep_is step with ⟨g, -, -, -, rfl⟩ | ⟨-, -, idle⟩
    · exact store (endGrant_storeOnly _ (sendOf l) g.index) rfl rfl (by rw [State.onSelector_selector_same])
        (by rw [State.onSelector_selector_same])
    · cases idle with
      | seqEnd k qs h => rw [seqs, front] at h; cases h
      | answerEnd f h => rw [answerback] at h; cases h
      | cutoffEnd => exact ⟨ctr, csv, by rw [cleared]; exact seqs, by rw [cleared]; exact answerback⟩
      | delivered g => exact store (completeDelivery_storeOnly _ (sendOf l) g.index) rfl rfl (by rw [cleared]) (by rw [cleared])
      | openEnd g => exact store (endGrant_storeOnly _ (sendOf l) g.index) rfl rfl (by rw [cleared]) (by rw [cleared])
      | textEnd =>
        refine ⟨ctr, csv, ?_, ?_⟩
        all_goals rw [State.onSend, State.onSelector_selector_same]; assumption
      | skip j f next un =>
        simp only [nextItem, seqs, front, List.head?_cons, Option.map_some, Option.some.injEq, Prod.mk.injEq] at next
        rw [← next.1, ctr] at un
        exact absurd un sends
  exact ⟨main.2.1, main.2.2.1⟩

/-- The supervisor asks: who-are-you stands alone with the selector, and the other line is as before (R108, R114). -/
structure Asks (l : LineId) (s t : State) : Prop where
  csv : t.csv l = { s.csv l with phase := .asking, timers := { (s.csv l).timers with quiet := none } }
  seqs : (t.selector l).seqs = [⟨.wru, [.chr 5]⟩]
  others : OtherLineKept s t l
  ctr : t.ctr = s.ctr
  cells : t.stm.cells = s.stm.cells
  tx : (t.unit l).tx = (s.unit l).tx
  rx : (t.unit l).rx = (s.unit l).rx

theorem settleLine_asks (placed : NothingPlaced s l) (wru : (translateChr s.ctr.table 5).isSome = true) :
    Asks l s (settleLine (placeWru s l) l) := by
  obtain ⟨seqs, answerback⟩ := placed
  have settled := settleLine_settled (placeWru s l) l
  have sel := placeWru_selector s l
  rw [seqs, List.nil_append] at sel
  have sends : translateItem (placeWru s l).ctr.table (.chr 5) ≠ none := Option.isSome_iff_ne_none.mp wru
  obtain ⟨csv, kept⟩ := sendSweep_holds sweepFuel (congrArg Selector.seqs sel)
    ((congrArg Selector.answerback sel).trans answerback) sends
  obtain ⟨-, csv', sel'⟩ := settle_line (sendSweep sweepFuel (placeWru s l) l) l
  exact {
    csv := csv'.trans (csv.trans (placeWru_csv s l))
    seqs := (congrArg Selector.seqs sel').trans (kept.trans (congrArg Selector.seqs sel))
    others := ((placeWru_only s l).trans (.settled settled)).otherLineKept
    ctr := settled.kept.ctr
    cells := by rw [settled.kept.stm]; rfl
    tx := by rw [settled.kept.unit]; rfl
    rx := by rw [settled.kept.unit]; rfl }

/-! ## The rows where they are not taken -/

theorem progressQuietExpiry_not (h : ¬ ((s.csv l).state = .awaitConnect ∧ (s.csv l).phase = .progress true ∧
    (s.csv l).timers.quiet = some 0)) : progressQuietExpiry l s = s := by
  simp only [progressQuietExpiry, isDue_iff]
  exact if_neg h

theorem progressQuietExpiry_asks (state : (s.csv l).state = .awaitConnect) (phase : (s.csv l).phase = .progress true)
    (due : (s.csv l).timers.quiet = some 0) : progressQuietExpiry l s = settleLine (placeWru s l) l := by
  simp only [progressQuietExpiry, isDue_iff]
  exact if_pos ⟨state, phase, due⟩

theorem captureQuietExpiry_not (h : ¬ ((s.csv l).phase = .capturing ∧ (s.csv l).timers.capture = some 0)) :
    captureQuietExpiry l s = s := by
  simp only [captureQuietExpiry, isDue_iff]
  exact if_neg h

theorem captureQuietExpiry_ends (phase : (s.csv l).phase = .capturing) (due : (s.csv l).timers.capture = some 0) :
    captureQuietExpiry l s = settleLine (captureEnd s l) l := by
  simp only [captureQuietExpiry, isDue_iff]
  exact if_pos ⟨phase, due⟩

/-- The supervisor with its call ending (R108). -/
def endingCall (s : State) (l : LineId) : State := s.onCsv l fun c => { c with ending := true }

theorem endingCall_csv (s : State) (l : LineId) : (endingCall s l).csv l = { s.csv l with ending := true } :=
  State.onCsv_csv_same ..

theorem outgoingCallEnd_asks (done : callDone s l = true) (wru : (s.csv l).values.endWru = true) :
    outgoingCallEnd l s = settleLine (placeWru (endingCall s l) l) l := by
  have h : ((endingCall s l).csv l).values.endWru = true := by rw [endingCall_csv]; exact wru
  simp only [outgoingCallEnd, done, if_true]
  exact congrArg (settleLine · l) (if_pos h)

theorem outgoingCallEnd_clears (done : callDone s l = true) (wru : (s.csv l).values.endWru = false) :
    outgoingCallEnd l s = settleLine (enterClearing (endingCall s l) l .done) l := by
  have h : ¬((endingCall s l).csv l).values.endWru = true := by rw [endingCall_csv]; exact Bool.eq_false_iff.mp wru
  simp only [outgoingCallEnd, done, if_true]
  exact congrArg (settleLine · l) (if_neg h)

/-! ## The end of a capture (R115) -/

theorem captureMatches_iff (c : Supervisor) : captureMatches c = true ↔ ∀ e, c.expected = some e →
    c.matchLen ≤ c.captured.length ∧ c.captured.take c.matchLen = (e.take c.matchLen).map (⟨·, false⟩) := by
  cases h : c.expected <;> simp [captureMatches, h]

theorem captureTaken_csv (s : State) (l : LineId) : (captureTaken s l).csv l = { s.csv l with
    remote := if (s.csv l).captured = [] then none else some ((s.csv l).captured.map (·.chr))
    phase := .none, captured := [], timers := { (s.csv l).timers with capture := none } } := by
  unfold captureTaken
  split <;> cases l <;> rfl

theorem captureTaken_only (s : State) (l : LineId) : LineOnly l s (captureTaken s l) :=
  .ite (.onCsv ..) (.trans (.onCsv ..) (.latch ..))

theorem captureTaken_latched (h : ¬ captureMatches (s.csv l) = true) : Latched (captureTaken s l) .wrongStation := by
  rw [captureTaken, if_neg h]
  exact latch_latched ..

theorem captureTaken_rest (s : State) (l : LineId) : (captureTaken s l).unit l = s.unit l ∧
    (captureTaken s l).stm = s.stm ∧ (captureTaken s l).selector l = s.selector l := by
  unfold captureTaken
  split <;> exact ⟨rfl, rfl, rfl⟩

/-- The supervisor of a calling line as it enters CONNECTED (R103, R114, R106, R123): its idle timer starts, and an engine that
waits for the offer starts its wait. -/
def connectedCaller (v : Supervisor) (wait : Nat) : Supervisor :=
  { v with
    state := .connected, phase := .none, captured := []
    exch := { v.exch with offerTimer := if v.exch.sub = .offerWait then some wait else v.exch.offerTimer }
    timers := { v.timers.onlyPrestarts with
      clearRecognize := v.timers.clearRecognize
      idle := if v.values.idleTimeoutS = 0 then none else some (1000 * v.values.idleTimeoutS) } }

theorem enterConnected_caller (s : State) (l : LineId) : enterConnected s l false =
    (s.setCsv l (connectedCaller (s.csv l) s.xcfg.offerWaitMs)).latch (stateEvent l) := by
  have idle : restartIdle (s.enterSup l .connected) l = s.setCsv l { s.csv l with
      state := .connected, phase := .none, captured := []
      timers := { (s.csv l).timers.onlyPrestarts with
        idle := if (s.csv l).values.idleTimeoutS = 0 then none else some (1000 * (s.csv l).values.idleTimeoutS) } } := by
    refine (if_pos (enterSup_state ..)).trans ?_
    cases l <;> rfl
  have sub : (((restartIdle (s.enterSup l .connected) l).onTimers l fun t =>
      { t with clearRecognize := (s.csv l).timers.clearRecognize }).csv l).exch = (s.csv l).exch := by
    rw [State.onTimers_csv_same, idle, State.setCsv_csv_same]
  unfold enterConnected
  dsimp only
  rw [if_neg Bool.false_ne_true, sub]
  by_cases h : (s.csv l).exch.sub = .offerWait
  · rw [if_pos h, idle, connectedCaller, if_pos h]
    cases l <;> rfl
  · rw [if_neg h, idle, connectedCaller, if_neg h]
    cases l <;> rfl

/-- A capture that matches connects the line, which settling leaves so (R115). -/
theorem settleLine_connected (placed : NothingPlaced s l) :
    let t := settleLine (enterConnected (captureTaken s l) l false) l
    (t.csv l).state = .connected ∧ (t.csv l).remote = ((captureTaken s l).csv l).remote ∧
      (t.csv l).direction = (s.csv l).direction ∧ Latched t (stateEvent l) ∧ OtherLineKept s t l ∧
      (t.csv l).exch.sub = (s.csv l).exch.sub := by
  intro t
  have c := captureTaken_csv s l
  have sel : (enterConnected (captureTaken s l) l false).selector l = s.selector l := by
    rw [enterConnected_caller]
    exact (captureTaken_rest s l).2.2
  have own : (enterConnected (captureTaken s l) l false).csv l =
      connectedCaller ((captureTaken s l).csv l) (captureTaken s l).xcfg.offerWaitMs := by
    rw [enterConnected_caller]
    exact State.setCsv_csv_same ..
  have settled := settleLine_settled (enterConnected (captureTaken s l) l false) l
  obtain ⟨-, csv⟩ := settled.kept.csv l (by rwa [NothingPlaced, sel])
  have only : LineOnly l s t := by
    refine .trans (captureTaken_only s l) (.trans ?_ (.settled settled))
    rw [enterConnected_caller]
    exact .trans (.setCsv ..) (.latch ..)
  have latched : Latched (enterConnected (captureTaken s l) l false) (stateEvent l) := by
    rw [enterConnected_caller]
    exact latch_latched ..
  refine ⟨?_, ?_, ?_, settled.kept.latched _ latched, only.otherLineKept, ?_⟩
  all_goals rw [csv, own, connectedCaller]
  · rw [c]
  · rw [c]

/-! ## The end of the call (R91, R108) -/

theorem mem_entriesFrom (i : Nat) (r : Rec) (xs : List (Option Rec)) (n : Nat) :
    (i, r) ∈ entriesFrom n xs ↔ n ≤ i ∧ xs[i - n]? = some (some r) := by
  induction xs generalizing n with
  | nil => simp [entriesFrom]
  | cons x xs ih =>
    have later (h : n + 1 ≤ i) : (x :: xs)[i - n]? = xs[i - (n + 1)]? := by
      rw [show i - n = i - (n + 1) + 1 by omega, List.getElem?_cons_succ]
    cases x with
    | none =>
      rw [entriesFrom, ih]
      constructor
      · exact fun ⟨h, k⟩ => ⟨by omega, by rw [later h, k]⟩
      · rintro ⟨h, k⟩
        rcases Nat.eq_or_lt_of_le h with e | e
        · subst e; simp at k
        · exact ⟨e, by rwa [later e] at k⟩
    | some q =>
      rw [entriesFrom, List.mem_cons, ih]
      constructor
      · rintro (h | ⟨h, k⟩)
        · cases h; simp
        · exact ⟨by omega, by rw [later h, k]⟩
      · rintro ⟨h, k⟩
        rcases Nat.eq_or_lt_of_le h with e | e
        · subst e; simp at k; simp [k]
        · exact .inr ⟨e, by rwa [later e] at k⟩

theorem mem_entries (s : State) (i : Nat) (r : Rec) : (i, r) ∈ s.entries ↔ s.record i = some r := by
  rw [State.entries, mem_entriesFrom, State.record]
  cases s.stm.recs[i]? <;> simp_all

theorem mem_insertInOrder (d : Deliv) (a b : Nat × Rec) (xs : List (Nat × Rec)) :
    b ∈ insertInOrder d a xs ↔ b = a ∨ b ∈ xs := by
  induction xs with
  | nil => simp [insertInOrder]
  | cons x xs ih =>
    rw [insertInOrder]
    split
    · simp
    · rw [List.mem_cons, ih, List.mem_cons]
      tauto

theorem mem_queueOf (s : State) (d : Deliv) (i : Nat) (r : Rec) :
    (i, r) ∈ queueOf s d ↔ s.record i = some r ∧ r.queued d = true := by
  have folded (xs : List (Nat × Rec)) : (i, r) ∈ xs.foldr (insertInOrder d) [] ↔ (i, r) ∈ xs := by
    induction xs with
    | nil => simp
    | cons x xs ih => rw [List.foldr_cons, mem_insertInOrder, ih, List.mem_cons]
  rw [queueOf, folded, List.mem_filter, mem_entries]

/-- A record does not fit exactly when it needs more blocks than an acceptance that is limited leaves (R91). -/
theorem not_fits_iff (a : Acceptance) (r : Rec) :
    ¬ fits a r = true ↔ ∃ n, a = .blocks n ∧ n < max 1 ((r.length + 31) / 32) := by
  cases a with
  | unlimited => simp [fits]
  | blocks n =>
    rw [fits, decide_eq_true_eq, not_le]
    simp only [Acceptance.blocks.injEq, exists_eq_left', blocksFor]

theorem callDone_iff (s : State) (l : LineId) : callDone s l = true ↔
    (s.csv l).state = .connected ∧ (s.csv l).direction = .outgoing ∧
    ((s.csv l).exch.sub = .done ∨ (s.csv l).exch.sub = .plain) ∧ (s.csv l).ending = false ∧
    (s.framerOf l).phase = .idle ∧ (s.selector l).grant = none ∧ (s.selector l).cutoff = none ∧
    (∀ i r, s.record i = some r → r.state = .opened → r.live l = false) ∧
    ∀ i r, s.record i = some r → (r.stamp.get (sendOf l)).isSome = true → r.state = .closed →
      r.live l = false ∧ ∃ n, (s.csv l).remaining = .blocks n ∧ n < max 1 ((r.length + 31) / 32) := by
  have finished : (s.csv l).exch.sub.isOver = true ↔ (s.csv l).exch.sub = .done ∨ (s.csv l).exch.sub = .plain := by
    cases (s.csv l).exch.sub <;> simp [ExchSub.isOver]
  have opened : (s.entries.any fun e => decide (e.2.state = .opened) && e.2.live l) = false ↔
      ∀ i r, s.record i = some r → r.state = .opened → r.live l = false := by
    simp only [List.any_eq_false, Prod.forall, mem_entries, Bool.and_eq_true, decide_eq_true_eq, not_and,
      Bool.not_eq_true]
  have live : firstLive s l = none ↔ ∀ i r, s.record i = some r → r.queued (sendOf l) = true → ¬ liveWork l r = true := by
    simp only [firstLive, List.find?_eq_none, Prod.forall, mem_queueOf, and_imp]
  have stored : firstFit s l = none ↔ ∀ i r, s.record i = some r → r.queued (sendOf l) = true → r.state = .closed →
      r.live l = false → ¬ fits (s.csv l).remaining r = true := by
    simp only [firstFit, storedQueue, List.find?_eq_none, List.mem_filter, Prod.forall, mem_queueOf, and_imp,
      Bool.and_eq_true, decide_eq_true_eq, Bool.not_eq_true', Bool.not_eq_true]
  have sendable (connected : (s.csv l).state = .connected) (outgoing : (s.csv l).direction = .outgoing)
      (o : (s.csv l).exch.sub.isOver = true) : nothingSendable s l = true ↔
      (s.selector l).grant = none ∧ (s.selector l).cutoff = none ∧ firstLive s l = none ∧ firstFit s l = none := by
    simp [nothingSendable, storedAllowed, lineReady, connected, outgoing, o, and_assoc]
  simp only [callDone, Bool.and_eq_true, decide_eq_true_eq, Bool.not_eq_true', opened]
  constructor
  · rintro ⟨⟨⟨⟨⟨⟨connected, outgoing⟩, o⟩, nothing⟩, idle⟩, lives⟩, ending⟩
    obtain ⟨grant, cutoff, noLive, noFit⟩ := (sendable connected outgoing o).mp nothing
    refine ⟨connected, outgoing, finished.mp o, ending, idle, grant, cutoff, lives, fun i r record queued closed => ?_⟩
    have notLive : r.live l = false := by
      have := live.mp noLive i r record queued
      simpa [liveWork, closed] using this
    exact ⟨notLive, (not_fits_iff ..).mp (stored.mp noFit i r record queued closed notLive)⟩
  · rintro ⟨connected, outgoing, o, ending, idle, grant, cutoff, lives, queue⟩
    refine ⟨⟨⟨⟨⟨⟨connected, outgoing⟩, finished.mpr o⟩, ?_⟩, idle⟩, lives⟩, ending⟩
    refine (sendable connected outgoing (finished.mpr o)).mpr ⟨grant, cutoff, live.mpr ?_, stored.mpr ?_⟩
    · intro i r record queued
      cases state : r.state with
      | opened => simp [liveWork, lives i r record state]
      | closed => simp [liveWork, (queue i r record queued state).1]
      | cancelled => simp [liveWork, state]
    · exact fun i r record queued closed _ => (not_fits_iff ..).mpr (queue i r record queued closed).2

end Sys2Proof.Machine
end


section
/-! SUPPORT. A character at its stop sample (R7 to R10, R112, R114, R115): how it leaves the receiver, and what the supervisor
that sets up a call, captures or clears makes of it. -/

namespace Sys2Proof.Machine

open Sys2Proof

variable {s t u : State} {l : LineId} {f : Frame} {c : Comb} {good : Bool} {x : RxChar}

/-! ## The character leaves the receiver -/

theorem countChar_line (s : State) (l : LineId) (peak : Nat) (errored : Bool) :
    (countChar s l peak errored).csv l = s.csv l ∧ (countChar s l peak errored).ctr = s.ctr ∧
      (countChar s l peak errored).xcfg = s.xcfg ∧ ((countChar s l peak errored).unit l).cfg = (s.unit l).cfg ∧
      ((countChar s l peak errored).unit l).rx = (s.unit l).rx := by
  unfold countChar
  dsimp only
  split <;> exact ⟨rfl, rfl, rfl, by cases l <;> rfl, by cases l <;> rfl⟩

/-- The idle timer of a supervisor after a character (R106). -/
def Supervisor.idleRestarted (v : Supervisor) : Supervisor :=
  { v with timers := { v.timers with
      idle := if v.state = .connected then
          if v.values.idleTimeoutS = 0 then none else some (1000 * v.values.idleTimeoutS)
        else v.timers.idle } }

theorem frameTaken_line (s : State) (l : LineId) (peak : Nat) (errored : Bool) :
    (frameTaken s l peak errored).csv l = (s.csv l).idleRestarted ∧ (frameTaken s l peak errored).ctr = s.ctr ∧
      (frameTaken s l peak errored).xcfg = s.xcfg ∧ ((frameTaken s l peak errored).unit l).cfg = (s.unit l).cfg ∧
      ((frameTaken s l peak errored).unit l).rx = { (s.unit l).rx with sub := huntOrBlank s l true, age := 0 } := by
  obtain ⟨csv, ctr, xcfg, cfg, rx⟩ :=
    countChar_line (s.onRx l fun r => { r with sub := huntOrBlank s l true, age := 0 }) l peak errored
  rw [frameTaken, restartIdle_csv, restartIdle_parts]
  refine ⟨by rw [csv]; rfl, ctr, xcfg, cfg.trans ?_, rx.trans ?_⟩
  · rw [State.onRx_unit_same]
  · rw [State.onRx_unit_same]

theorem frameInHand_iff (r : Receiver) (f : Frame) :
    r.frameInHand = some f ↔ r.mode = .framing ∧ r.sub = .character f := by
  unfold Receiver.frameInHand
  split <;> simp_all

/-- An engine that is not paging has the combination translated, and what that makes settles (R7, R42). -/
theorem stopSample_received (h : CharacterIn s l f c good) (idle : (s.csv l).exch.sub.isPaging = false) :
    exec (.stopSample l) s = .next (settleLine (translateReceived (received s l f good) l c !good) l) := by
  have hand := (frameInHand_iff ..).mpr ⟨h.mode, h.sub⟩
  have stop : decide ((s.unit l).rx.last = .mark) = good := by
    rw [Bool.eq_iff_iff, decide_eq_true_eq]
    exact h.stop.symm
  have kept : (good || decide (c ≠ 0)) = true := by simpa using h.held
  have plain : ((received s l f good).csv l).exch.sub.isPaging = false := by
    rw [received, State.onExch_csv_same, (frameTaken_line ..).1]
    exact idle
  have taken : receiveComb (frameTaken s l f.peak !good) l c (!good) =
      translateReceived (received s l f good) l c (!good) := if_neg (Bool.eq_false_iff.mp plain)
  change Host.Outcome.next (stopSample l s) = _
  simp only [stopSample, hand, h.due, h.started, and_self, if_true, stop, ← h.comb, kept, taken]

theorem does_of (h : CharacterIn s l f c good) (idle : (s.csv l).exch.sub.isPaging = false)
    (e : translateReceived (received s l f good) l c (!good) = u) : Does (.stopSample l) (oneLine l) s u :=
  ⟨_, (stopSample_received h idle).trans (by rw [e]), settleLine_settled u l⟩

/-- A delivered character has left the supervisor with its idle timer restarted and its run of BLANKs over. -/
theorem delivered_line (s : State) (l : LineId) (f : Frame) (c : Comb) (good : Bool) :
    (delivered s l f c good).csv l = { (s.csv l).idleRestarted with
      exch := { (s.csv l).exch with together := false, blankRun := 0 } } ∧
    (delivered s l f c good).xcfg = s.xcfg ∧
    ((delivered s l f c good).unit l).rx = { (s.unit l).rx with sub := huntOrBlank s l true, age := 0 } := by
  obtain ⟨csv, -, xcfg, -, rx⟩ := frameTaken_line s l f.peak !good
  have ended : (endBlankRun (received s l f good) l).csv l = { (s.csv l).idleRestarted with
      exch := { (s.csv l).exch with together := false, blankRun := 0 } } := by
    rw [endBlankRun, State.onExch_csv_same, received, State.onExch_csv_same, csv]
    rfl
  unfold delivered
  dsimp only
  split <;> exact ⟨ended, xcfg, rx⟩

/-- The receiver that has a character is not in the space condition. -/
theorem delivered_mark (h : CharacterIn s l f c good) : ((delivered s l f c good).unit l).rx.meetsSpace = false := by
  rw [(delivered_line s l f c good).2.2, Receiver.meetsSpace]
  dsimp only
  rw [if_pos h.mode, huntOrBlank]
  split <;> simp [Receiver.inSpace]

/-! ## What a consumer makes of it does not hang on the shift record -/

/-- The line's consumer handles the character alike whatever the receive shift record holds, and leaves the line's
configuration alone. -/
structure Unshifted (s : State) (l : LineId) (x : RxChar) : Prop where
  commutes : ∀ r, deliver (s.setRxShift l r) l x = (deliver s l x).setRxShift l r
  cfg : ((deliver s l x).unit l).cfg = (s.unit l).cfg

/-- A delivered character is the consumer's, the shift record having been set first (R7 to R9, R13). -/
theorem translateReceived_delivers (del : Delivers s l c good x) (un : Unshifted (endBlankRun (received s l f good) l) l x) :
    translateReceived (received s l f good) l c (!good) = deliver (delivered s l f c good) l x := by
  obtain ⟨-, ctr, -, cfg, -⟩ := frameTaken_line s l f.peak !good
  have same : (received s l f good).ctr = s.ctr := ctr
  have usos : ((deliver (endBlankRun (received s l f good) l) l x).unit l).cfg = (s.unit l).cfg := un.cfg.trans cfg
  unfold translateReceived delivered
  simp only [same]
  rcases del with ⟨rfl, rfl⟩ | ⟨rfl, ⟨kind, rfl⟩ | ⟨kind, rfl⟩⟩
  · simp
  · simp only [Bool.not_true, Bool.false_eq_true, if_false, kind, true_and, usos]
    split
    · exact (un.commutes _).symm
    · rfl
  · simp [kind]

/-! ## Characters dropped, and characters of the progress phase (R112, R113, R114) -/

/-- No one takes a character while the call is dialled and selected, while the remote is asked, and in the clear after a full
capture (R112 to R115). -/
def DropsChars (v : Supervisor) : Prop :=
  v.state = .calling ∨ v.state = .selecting ∨ (v.state = .awaitConnect ∧ v.phase = .asking) ∨
    (v.state = .clearing ∧ v.phase = .captureFull)

theorem deliver_drops (h : DropsChars (s.csv l)) : deliver s l x = s := by
  unfold deliver
  rcases h with h | h | ⟨h, k⟩ | ⟨h, k⟩
  · simp only [h]
  · simp only [h]
  · simp only [h, k]
  · simp only [h, k, if_true]

theorem unshifted_drops (h : DropsChars (s.csv l)) : Unshifted s l x where
  commutes r := by rw [deliver_drops h, deliver_drops (s := s.setRxShift l r) h]
  cfg := by rw [deliver_drops h]

theorem deliver_progress {any : Bool} (state : (s.csv l).state = .awaitConnect) (phase : (s.csv l).phase = .progress any) :
    deliver s l x = progressChar s l x := by
  simp only [deliver, state, phase]

theorem unshifted_progress {any : Bool} (state : (s.csv l).state = .awaitConnect)
    (phase : (s.csv l).phase = .progress any) : Unshifted s l x where
  commutes r := by
    rw [deliver_progress state phase, deliver_progress (s := s.setRxShift l r) state phase]
    rfl
  cfg := by rw [deliver_progress state phase]; rfl

/-! ## Characters of a capture (R115) -/

theorem deliver_capture (state : (s.csv l).state = .awaitConnect ∨ (s.csv l).state = .connected)
    (phase : (s.csv l).phase = .capturing) : deliver s l x = captureChar s l x := by
  rcases state with h | h <;> simp [deliver, h, phase]

/-- The capture with one character more. -/
def caught (s : State) (l : LineId) (x : RxChar) : State := s.onCsv l fun v =>
  { v with captured := v.captured ++ [x], timers := { v.timers with capture := some 500 } }

theorem caught_csv (s : State) (l : LineId) (x : RxChar) : (caught s l x).csv l = { s.csv l with
    captured := (s.csv l).captured ++ [x], timers := { (s.csv l).timers with capture := some 500 } } :=
  State.onCsv_csv_same ..

theorem captureChar_goes (h : ((s.csv l).captured ++ [x]).length < 20) : captureChar s l x = caught s l x := by
  refine if_neg (Nat.not_le.mpr ?_)
  change ((caught s l x).csv l).captured.length < 20
  rw [caught_csv]
  exact h

theorem captureChar_ends (h : 20 ≤ ((s.csv l).captured ++ [x]).length) :
    captureChar s l x = captureFull (captureEnd (caught s l x) l) l := by
  refine if_pos ?_
  change 20 ≤ ((caught s l x).csv l).captured.length
  rw [caught_csv]
  exact h

/-- The supervisor with its capture taken (R115). -/
def Supervisor.taken (v : Supervisor) : Supervisor :=
  { v with remote := if v.captured = [] then none else some (v.captured.map (·.chr))
           phase := .none, captured := [], timers := { v.timers with capture := none } }

theorem captureEnd_connects (state : (s.csv l).state = .awaitConnect) (ok : captureMatches (s.csv l) = true) :
    captureEnd s l = (s.setCsv l (connectedCaller (s.csv l).taken s.xcfg.offerWaitMs)).latch (stateEvent l) := by
  rw [captureEnd_matched state ok, enterConnected_caller, captureTaken_csv]
  simp only [captureTaken, ok, if_true]
  cases l <;> rfl

/-- A capture that ends the call, with the receiver at mark, has the line enter CLEARING. -/
theorem captureEnd_clears {why : ClearReason} (mark : (s.unit l).rx.meetsSpace = false)
    (e : captureEnd s l = enterClearing (captureTaken s l) l why) :
    captureEnd s l = clearingBegun (captureTaken s l) l why := by
  have space : ((clearingBegun (captureTaken s l) l why).unit l).rx.inSpace = false := by
    rw [(clearingBegun_line ..).2.2.2.2, Receiver.frame_inSpace, (captureTaken_rest s l).1, mark]
  rw [e, enterClearing_eq, space]
  rfl

theorem captureTaken_setRxShift (s : State) (l : LineId) (r : ShiftRecord) :
    captureTaken (s.setRxShift l r) l = (captureTaken s l).setRxShift l r := by
  have same : captureMatches ((s.setRxShift l r).csv l) = captureMatches (s.csv l) := rfl
  unfold captureTaken
  rw [same]
  dsimp only
  split <;> rfl

theorem clearingBegun_setRxShift (s : State) (l : LineId) (why : ClearReason) (r : ShiftRecord) :
    clearingBegun (s.setRxShift l r) l why = (clearingBegun s l why).setRxShift l r := rfl

theorem captureEnd_setRxShift (mark : (s.unit l).rx.meetsSpace = false)
    (state : (s.csv l).state = .awaitConnect ∨ (s.csv l).state = .connected) (r : ShiftRecord) :
    captureEnd (s.setRxShift l r) l = (captureEnd s l).setRxShift l r := by
  have clears {why : ClearReason} (a : captureEnd s l = enterClearing (captureTaken s l) l why)
      (b : captureEnd (s.setRxShift l r) l = enterClearing (captureTaken (s.setRxShift l r) l) l why) :
      captureEnd (s.setRxShift l r) l = (captureEnd s l).setRxShift l r := by
    rw [captureEnd_clears mark a, captureEnd_clears (s := s.setRxShift l r) mark b, captureTaken_setRxShift,
      clearingBegun_setRxShift]
  rcases state with h | h
  · cases ok : captureMatches (s.csv l)
    · exact clears (captureEnd_mismatched h ok) (captureEnd_mismatched (s := s.setRxShift l r) h ok)
    · rw [captureEnd_connects h ok, captureEnd_connects (s := s.setRxShift l r) h ok]
      rfl
  · exact clears (captureEnd_connected h) (captureEnd_connected (s := s.setRxShift l r) h)

theorem clearingBegun_cfg (s : State) (l : LineId) (why : ClearReason) :
    ((clearingBegun s l why).unit l).cfg = (s.unit l).cfg := by cases l <;> rfl

theorem captureEnd_cfg (mark : (s.unit l).rx.meetsSpace = false)
    (state : (s.csv l).state = .awaitConnect ∨ (s.csv l).state = .connected) :
    ((captureEnd s l).unit l).cfg = (s.unit l).cfg := by
  have clears {why : ClearReason} (a : captureEnd s l = enterClearing (captureTaken s l) l why) :
      ((captureEnd s l).unit l).cfg = (s.unit l).cfg := by
    rw [captureEnd_clears mark a, clearingBegun_cfg, (captureTaken_rest s l).1]
  rcases state with h | h
  · cases ok : captureMatches (s.csv l)
    · exact clears (captureEnd_mismatched h ok)
    · rw [captureEnd_connects h ok]
      rfl
  · exact clears (captureEnd_connected h)

theorem unshifted_capture (mark : (s.unit l).rx.meetsSpace = false)
    (state : (s.csv l).state = .awaitConnect ∨ (s.csv l).state = .connected) (phase : (s.csv l).phase = .capturing) :
    Unshifted s l x := by
  have state' : ((caught s l x).csv l).state = .awaitConnect ∨ ((caught s l x).csv l).state = .connected := by
    rw [caught_csv]
    exact state
  by_cases h : ((s.csv l).captured ++ [x]).length < 20
  · constructor
    · intro r
      rw [deliver_capture state phase, deliver_capture (s := s.setRxShift l r) state phase, captureChar_goes h,
        captureChar_goes (s := s.setRxShift l r) h]
      rfl
    · rw [deliver_capture state phase, captureChar_goes h]
      rfl
  · have full := Nat.not_lt.mp h
    constructor
    · intro r
      rw [deliver_capture state phase, deliver_capture (s := s.setRxShift l r) state phase, captureChar_ends full,
        captureChar_ends (s := s.setRxShift l r) full]
      exact congrArg (captureFull · l) (captureEnd_setRxShift (s := caught s l x) mark state' r)
    · rw [deliver_capture state phase, captureChar_ends full]
      exact captureEnd_cfg (s := caught s l x) mark state'

/-! ## The end of a full capture in CLEARING (R115, log entry 54) -/

theorem captureFull_csv (s : State) (l : LineId) : (captureFull s l).csv l =
    { s.csv l with phase := if (s.csv l).state = .clearing then .captureFull else (s.csv l).phase } :=
  State.onCsv_csv_same ..

theorem captureFull_only (s : State) (l : LineId) : LineOnly l s (captureFull s l) := .onCsv ..

theorem captureFull_connected {v : Supervisor} (e : Event) (state : v.state = .connected) :
    captureFull ((s.setCsv l v).latch e) l = (s.setCsv l v).latch e := by
  have same : ({ v with phase := if v.state = .clearing then .captureFull else v.phase } : Supervisor) = v := by
    rw [if_neg (by rw [state]; nofun)]
  have at_ : ((s.setCsv l v).latch e).csv l = v := State.setCsv_csv_same ..
  rw [captureFull, State.onCsv, at_, same]
  cases l <;> rfl

theorem EnteredClearing.captureFull {why : ClearReason} (a : EnteredClearing s u l why) :
    EnteredClearing s (captureFull u l) l why := by
  have csv := captureFull_csv u l
  obtain ⟨tbu, ctr, identity, xcfg, mask, count, values⟩ := a.kept
  exact {
    reason := by rw [csv]; exact a.reason
    ordered := a.ordered
    placed := a.placed
    ends := by rw [csv]; exact a.ends
    clearing := by rw [csv]; exact a.clearing
    guard := by rw [csv]; exact a.guard
    others := a.others.trans (captureFull_only u l).otherLineKept
    kept := ⟨tbu, ctr, identity, xcfg, mask, by rw [csv]; exact count, by rw [csv]; exact values⟩ }

/-- The 20th character of a capture that ends the call: the line is in CLEARING, where no one takes its characters, and a
mismatch has latched WRONG_STATION (R115). -/
theorem captureChar_clears {why : ClearReason} (mark : (s.unit l).rx.meetsSpace = false)
    (full : 20 ≤ ((s.csv l).captured ++ [x]).length)
    (e : captureEnd (caught s l x) l = enterClearing (captureTaken (caught s l x) l) l why) :
    EnteredClearing s (captureChar s l x) l why ∧
      ((captureChar s l x).csv l).remote = some (((s.csv l).captured ++ [x]).map (·.chr)) ∧
      ((captureChar s l x).csv l).phase = .captureFull ∧
      (¬ captureMatches ((caught s l x).csv l) = true → Latched (captureChar s l x) .wrongStation) := by
  obtain ⟨unit, stm, -⟩ := captureTaken_rest (caught s l x) l
  have csv := captureTaken_csv (caught s l x) l
  have got := caught_csv s l x
  have taken : ((captureTaken (caught s l x) l).csv l).remote = some (((s.csv l).captured ++ [x]).map (·.chr)) := by
    rw [csv, got]
    exact if_neg (by simp)
  obtain ⟨entered, remote, -⟩ := enterClearing_entered (captureTaken (caught s l x) l) l why
  have cleared := entered.clearing (by rw [unit]; exact mark)
  rw [captureChar_ends full, e]
  refine ⟨?_, ?_, ?_, fun h => ?_⟩
  · exact (entered.after ((LineOnly.onCsv ..).trans (captureTaken_only ..)) (congrArg LineUnit.rx unit)
      (by rw [csv, got]) (by rw [csv, got]) (by rw [stm]; rfl) (by rw [stm]; rfl)).captureFull
  · rw [captureFull_csv]
    exact remote.trans taken
  · rw [captureFull_csv]
    exact if_pos cleared.1
  · exact (captureFull_only ..).latched _ ((enterClearing_only ..).latched _ (captureTaken_latched h))

/-! ## Indications (R10, R112) -/

theorem delivered_indication (h : (readComb s.ctr.table (s.ctr.rx.get l) c).kind ≠ .char) :
    delivered s l f c good = endBlankRun (received s l f good) l := by
  simp [delivered, h]

theorem delivered_csv (s : State) (l : LineId) (f : Frame) (c : Comb) (good : Bool) :
    (endBlankRun (received s l f good) l).csv l = (delivered s l f c good).csv l := by
  unfold delivered
  dsimp only
  split <;> rfl

theorem delivered_rx (s : State) (l : LineId) (f : Frame) (c : Comb) (good : Bool) :
    ((endBlankRun (received s l f good) l).unit l).rx = ((delivered s l f c good).unit l).rx := by
  unfold delivered
  dsimp only
  split <;> rfl

/-- PROCEED and SELECT_END, well framed (R10): indications while a call is set up, and undefined else. -/
theorem translateReceived_indicates (kind : (readComb s.ctr.table (s.ctr.rx.get l) c).kind = .proceed ∨
    (readComb s.ctr.table (s.ctr.rx.get l) c).kind = .selectEnd) :
    translateReceived (received s l f true) l c false =
      if ((delivered s l f c true).csv l).state.settingUp then
        if (readComb s.ctr.table (s.ctr.rx.get l) c).kind = .proceed then proceedIndication (delivered s l f c true) l
        else delivered s l f c true
      else countUndefined (delivered s l f c true) l := by
  obtain ⟨-, ctr, -⟩ := frameTaken_line s l f.peak false
  have same : (received s l f true).ctr = s.ctr := ctr
  rcases kind with kind | kind
  all_goals
    rw [delivered_indication (by rw [kind]; nofun)]
    simp [translateReceived, same, kind]

theorem enterSelecting_eq (s : State) (l : LineId) : enterSelecting s l =
    (s.setCsv l { s.csv l with
      state := .selecting, phase := .none, captured := []
      timers := { (s.csv l).timers.onlyPrestarts with clearRecognize := (s.csv l).timers.clearRecognize } }).onSelector l
        fun y => { y with seqs := y.seqs ++ [⟨.selection, (s.csv l).digits.map .chr ++ [.selectEnd]⟩] } := by
  cases l <;> rfl

end Sys2Proof.Machine
end


section
/-! SUPPORT. What the supervisor makes of a received character, row by row (R10, R112, R114, R115), and what asks, captures,
decides and ends an outgoing call. -/

namespace Sys2Proof.Machine

open Sys2Proof

variable {s : State} {l : LineId} {f : Frame} {c : Comb} {good : Bool} {x : RxChar}

/-! ## The rows -/

theorem quietRows_asks (placed : NothingPlaced s l) (wru : (translateChr s.ctr.table 5).isSome = true) :
    ((s.csv l).state = .awaitConnect → (s.csv l).phase = .progress true → (s.csv l).timers.quiet = some 0 →
      Asks l s (progressQuietExpiry l s)) ∧
    (callDone s l = true → (s.csv l).values.endWru = true →
      Asks l (endingCall s l) (outgoingCallEnd l s)) := by
  constructor
  · intro state phase due
    rw [progressQuietExpiry_asks state phase due]
    exact settleLine_asks placed wru
  · intro done on
    rw [outgoingCallEnd_asks done on]
    exact settleLine_asks (s := endingCall s l) placed wru

theorem endingCall_only (s : State) (l : LineId) : LineOnly l s (endingCall s l) := .onCsv ..

theorem outgoingCallEnd_entered (done : callDone s l = true) (off : (s.csv l).values.endWru = false) :
    EnteredClearing s (outgoingCallEnd l s) l .done := by
  rw [outgoingCallEnd_clears done off]
  have csv := endingCall_csv s l
  exact (settleLine_clearing (endingCall s l) l .done).1.after (endingCall_only s l) rfl (by rw [csv]) (by rw [csv]) rfl rfl

/-- A capture that is over without having filled (R115). -/
theorem captureQuietExpiry_entered {why : ClearReason} (phase : (s.csv l).phase = .capturing)
    (due : (s.csv l).timers.capture = some 0) (e : captureEnd s l = enterClearing (captureTaken s l) l why) :
    EnteredClearing s (captureQuietExpiry l s) l why ∧
      ((captureQuietExpiry l s).csv l).remote =
        (if (s.csv l).captured = [] then none else some ((s.csv l).captured.map (·.chr))) ∧
      (¬ captureMatches (s.csv l) = true → Latched (captureQuietExpiry l s) .wrongStation) := by
  have csv := captureTaken_csv s l
  obtain ⟨unit, stm, -⟩ := captureTaken_rest s l
  obtain ⟨entered, remote, latched⟩ := settleLine_clearing (captureTaken s l) l why
  rw [captureQuietExpiry_ends phase due, e]
  exact ⟨entered.after (captureTaken_only s l) (by rw [unit]) (by rw [csv]) (by rw [csv]) (by rw [stm]) (by rw [stm]),
    remote.trans (by rw [csv]), fun h => latched _ (captureTaken_latched h)⟩

/-! ## Received characters -/

/-- The supervisor's state, phase and the values that a consumer reads stand when the character has left the receiver. -/
theorem does_delivers (h : CharacterIn s l f c good) (idle : (s.csv l).exch.sub.isPaging = false)
    (del : Delivers s l c good x) (un : Unshifted (endBlankRun (received s l f good) l) l x) :
    Does (.stopSample l) (oneLine l) s (deliver (delivered s l f c good) l x) :=
  does_of h idle (translateReceived_delivers del un)

theorem ended_mark (h : CharacterIn s l f c good) :
    ((endBlankRun (received s l f good) l).unit l).rx.meetsSpace = false := by
  rw [delivered_rx s l f c good]
  exact delivered_mark h

/-- The state in which the character has left the receiver, for the consumer, has the supervisor of the step's beginning, with
the idle timer restarted and the run of BLANKs over. -/
theorem delivered_fields (s : State) (l : LineId) (f : Frame) (c : Comb) (good : Bool) :
    ((delivered s l f c good).csv l).state = (s.csv l).state ∧ ((delivered s l f c good).csv l).phase = (s.csv l).phase ∧
    ((delivered s l f c good).csv l).progress = (s.csv l).progress ∧
    ((delivered s l f c good).csv l).captured = (s.csv l).captured ∧
    ((delivered s l f c good).csv l).expected = (s.csv l).expected ∧
    ((delivered s l f c good).csv l).matchLen = (s.csv l).matchLen ∧
    ((delivered s l f c good).csv l).digits = (s.csv l).digits := by
  rw [(delivered_line s l f c good).1]
  exact ⟨rfl, rfl, rfl, rfl, rfl, rfl, rfl⟩

/-- The timers that a supervisor keeps into SELECTING and, calling, into CONNECTED. -/
theorem delivered_timers (s : State) (l : LineId) (f : Frame) (c : Comb) (good : Bool) :
    ({ ((delivered s l f c good).csv l).timers.onlyPrestarts with
      clearRecognize := ((delivered s l f c good).csv l).timers.clearRecognize } : SupTimers) =
    { SupTimers.stopped with
      prepPrint := (s.csv l).timers.prepPrint, prepPunch := (s.csv l).timers.prepPunch
      clearRecognize := (s.csv l).timers.clearRecognize } := by
  rw [(delivered_line s l f c good).1]
  rfl

theorem stopSample_proceeds (h : CharacterIn s l f c true) (idle : (s.csv l).exch.sub.isPaging = false)
    (kind : (readComb s.ctr.table (s.ctr.rx.get l) c).kind = .proceed) (state : (s.csv l).state = .calling)
    (phase : (s.csv l).phase = .proceedWait) :
    Does (.stopSample l) (oneLine l) s (enterSelecting (delivered s l f c true) l) := by
  obtain ⟨state', phase', -⟩ := delivered_fields s l f c true
  refine does_of h idle ((translateReceived_indicates (.inl kind)).trans ?_)
  rw [if_pos (by rw [state', state]; rfl), if_pos kind]
  exact if_pos ⟨state'.trans state, phase'.trans phase⟩

theorem stopSample_ignores (h : CharacterIn s l f c true) (idle : (s.csv l).exch.sub.isPaging = false)
    (kind : (readComb s.ctr.table (s.ctr.rx.get l) c).kind = .proceed ∨
      (readComb s.ctr.table (s.ctr.rx.get l) c).kind = .selectEnd)
    (state : (s.csv l).state = .calling ∨ (s.csv l).state = .selecting ∨ (s.csv l).state = .awaitConnect)
    (other : ¬ ((readComb s.ctr.table (s.ctr.rx.get l) c).kind = .proceed ∧ (s.csv l).state = .calling ∧
      (s.csv l).phase = .proceedWait)) :
    Does (.stopSample l) (oneLine l) s (delivered s l f c true) := by
  obtain ⟨state', phase', -⟩ := delivered_fields s l f c true
  refine does_of h idle ((translateReceived_indicates kind).trans ?_)
  rw [if_pos (by rw [state']; rcases state with e | e | e <;> rw [e] <;> rfl)]
  split
  · next k => exact if_neg fun ⟨a, b⟩ => other ⟨k, state' ▸ a, phase' ▸ b⟩
  · rfl

theorem stopSample_undefined (h : CharacterIn s l f c true) (idle : (s.csv l).exch.sub.isPaging = false)
    (kind : (readComb s.ctr.table (s.ctr.rx.get l) c).kind = .proceed ∨
      (readComb s.ctr.table (s.ctr.rx.get l) c).kind = .selectEnd)
    (state : ¬ ((s.csv l).state = .calling ∨ (s.csv l).state = .selecting ∨ (s.csv l).state = .awaitConnect)) :
    Does (.stopSample l) (oneLine l) s (countUndefined (delivered s l f c true) l) := by
  obtain ⟨state', -⟩ := delivered_fields s l f c true
  refine does_of h idle ((translateReceived_indicates kind).trans (if_neg ?_))
  rw [state']
  cases e : (s.csv l).state <;> simp_all [SupState.settingUp]

/-- A consumer that reads its character alike under either shift record has it from the state `delivered`. -/
theorem stopSample_progress {any : Bool} (h : CharacterIn s l f c good) (idle : (s.csv l).exch.sub.isPaging = false)
    (del : Delivers s l c good x) (state : (s.csv l).state = .awaitConnect) (phase : (s.csv l).phase = .progress any) :
    Does (.stopSample l) (oneLine l) s (progressChar (delivered s l f c good) l x) := by
  obtain ⟨state', phase', -⟩ := delivered_fields s l f c good
  have csv := delivered_csv s l f c good
  rw [← deliver_progress (state'.trans state) (phase'.trans phase)]
  exact does_delivers h idle del (unshifted_progress (by rw [csv, state', state]) (by rw [csv, phase', phase]))

theorem stopSample_captures (h : CharacterIn s l f c good) (idle : (s.csv l).exch.sub.isPaging = false)
    (del : Delivers s l c good x) (state : (s.csv l).state = .awaitConnect ∨ (s.csv l).state = .connected)
    (phase : (s.csv l).phase = .capturing) :
    Does (.stopSample l) (oneLine l) s (captureChar (delivered s l f c good) l x) := by
  obtain ⟨state', phase', -⟩ := delivered_fields s l f c good
  have csv := delivered_csv s l f c good
  rw [← deliver_capture (by rwa [state']) (phase'.trans phase)]
  exact does_delivers h idle del (unshifted_capture (ended_mark h) (by rwa [csv, state']) (by rw [csv, phase', phase]))

theorem stopSample_drops (h : CharacterIn s l f c good) (idle : (s.csv l).exch.sub.isPaging = false)
    (del : Delivers s l c good x) (dropped : DropsChars (s.csv l)) :
    Does (.stopSample l) (oneLine l) s (delivered s l f c good) := by
  obtain ⟨state', phase', -⟩ := delivered_fields s l f c good
  have csv := delivered_csv s l f c good
  have same : DropsChars ((delivered s l f c good).csv l) := by rwa [DropsChars, state', phase']
  have done := does_delivers h idle del (unshifted_drops (by rwa [csv]))
  rwa [deliver_drops same] at done

theorem caught_state : ((caught s l x).csv l).state = (s.csv l).state := by rw [caught_csv]

theorem progressChar_eq (s : State) (l : LineId) (x : RxChar) : progressChar s l x = s.setCsv l { s.csv l with
    progress := if (s.csv l).progress.length < 32 then (s.csv l).progress ++ [x.chr] else (s.csv l).progress
    phase := .progress true, timers := { (s.csv l).timers with quiet := some 1000 } } := rfl

/-- The 20th character of a matching capture connects the call (R114, R115). -/
theorem captureChar_connects (state : (s.csv l).state = .awaitConnect) (full : 20 ≤ ((s.csv l).captured ++ [x]).length)
    (ok : captureMatches ((caught s l x).csv l) = true) : captureChar s l x =
      (s.setCsv l (connectedCaller ((caught s l x).csv l).taken s.xcfg.offerWaitMs)).latch (stateEvent l) := by
  have state' : ((caught s l x).csv l).state = .awaitConnect := by rw [caught_csv]; exact state
  rw [captureChar_ends full, captureEnd_connects state' ok, captureFull_connected _ rfl]
  cases l <;> rfl

theorem delivered_connected (s : State) (l : LineId) (f : Frame) (c : Comb) (good : Bool) (x : RxChar) :
    connectedCaller ((caught (delivered s l f c good) l x).csv l).taken (delivered s l f c good).xcfg.offerWaitMs =
      { (delivered s l f c good).csv l with
        state := .connected, phase := .none, captured := []
        remote := some (((s.csv l).captured ++ [x]).map (·.chr))
        exch := { ((delivered s l f c good).csv l).exch with
          offerTimer := if (s.csv l).exch.sub = .offerWait then some s.xcfg.offerWaitMs
            else (s.csv l).exch.offerTimer }
        timers := { SupTimers.stopped with
          prepPrint := (s.csv l).timers.prepPrint, prepPunch := (s.csv l).timers.prepPunch
          clearRecognize := (s.csv l).timers.clearRecognize
          idle := if (s.csv l).values.idleTimeoutS = 0 then none else some (1000 * (s.csv l).values.idleTimeoutS) } } := by
  obtain ⟨csv, xcfg, -⟩ := delivered_line s l f c good
  have kept : (s.csv l).captured ++ [x] ≠ [] := by simp
  rw [caught_csv, csv, xcfg]
  simp only [Supervisor.taken, Supervisor.idleRestarted, kept, if_false]
  rfl

end Sys2Proof.Machine
end

section
/-! PROOF. O39: how an outgoing call asks, captures, decides and ends itself. -/

open Sys2Proof Sys2Proof.Machine

/-- Settles O39: the rows by what they hand to the selector or enter, and the characters by the consumer that each state and
phase gives them. -/
theorem outgoingCallAsksCapturesAndEnds : Obligations.OutgoingCallAsksCapturesAndEnds := by
  unfold Obligations.OutgoingCallAsksCapturesAndEnds
  refine ⟨fun l s => ?_, fun l s placed wru => ?_, fun l s done off => ?_, fun l s phase due => ?_, fun l s => ?_,
    fun l f c good s h idle => ?_⟩
  · exact ⟨fun h => congrArg _ (progressQuietExpiry_not h), fun h => congrArg _ (captureQuietExpiry_not h),
      fun h => congrArg _ (if_neg (Bool.eq_false_iff.mp h))⟩
  · obtain ⟨quiet, ends⟩ := quietRows_asks placed wru
    refine ⟨fun state phase due => ⟨_, rfl, ?_⟩, fun done on => ⟨_, rfl, ?_, ?_⟩⟩
    · obtain ⟨csv, seqs, others, ctr, cells, tx, rx⟩ := quiet state phase due
      exact ⟨by rw [csv], by rw [csv], seqs, by rw [csv], others, ctr, cells, tx, rx⟩
    · obtain ⟨csv, seqs, others, ctr, cells, tx, rx⟩ := ends done on
      rw [endingCall_csv] at csv
      exact ⟨by rw [csv], by rw [csv], seqs, by rw [csv], (endingCall_only s l).otherLineKept.trans others, ctr, cells, tx, rx⟩
    · rw [(ends done on).csv, endingCall_csv]
  · exact ⟨_, rfl, outgoingCallEnd_entered done off⟩
  · intro got ok remote
    have matched : captureMatches (s.csv l) = true ↔ ok := captureMatches_iff _
    refine ⟨fun state fits placed => ⟨_, rfl, ?_⟩, fun state differs => ⟨_, rfl, ?_⟩, fun state => ⟨_, rfl, ?_⟩⟩
    · rw [captureQuietExpiry_ends phase due, captureEnd_matched state (matched.mpr fits)]
      obtain ⟨connected, rem, rest⟩ := settleLine_connected placed
      exact ⟨connected, rem.trans (by rw [captureTaken_csv]), rest⟩
    · have no := mt matched.mp differs
      obtain ⟨entered, rem, latched⟩ :=
        captureQuietExpiry_entered phase due (captureEnd_mismatched state (Bool.eq_false_iff.mpr no))
      exact ⟨entered, rem, latched no⟩
    · obtain ⟨entered, rem, latched⟩ := captureQuietExpiry_entered phase due (captureEnd_connected state)
      exact ⟨entered, rem, fun differs => latched (mt matched.mp differs)⟩
  · exact callDone_iff s l
  · intro v d w does kind settingUp selects kept
    obtain ⟨state', phase', progress, captured, expected, matchLen, digits⟩ := delivered_fields s l f c good
    refine ⟨fun well indication => ?_, fun x del => ?_⟩
    · subst well
      refine ⟨fun ⟨proceed, state, phase⟩ => ?_, fun up not => ?_, fun up => ?_⟩
      · have done := stopSample_proceeds h idle proceed state phase
        rw [enterSelecting_eq, delivered_timers, digits] at done
        exact done
      · exact stopSample_ignores h idle indication up not
      · exact stopSample_undefined h idle indication up
    · intro got ok remote
      have matched : captureMatches ((caught d l x).csv l) = true ↔ ok := by
        rw [captureMatches_iff, caught_csv]
        simp only [d, expected, matchLen, captured]
        exact Iff.rfl
      have length : (w.captured ++ [x]).length = got.length := by rw [captured]
      refine ⟨fun any state phase => ?_, fun state phase short => ?_, fun state phase full => ⟨fun fits => ?_, fun differs => ?_⟩,
        fun state phase full => ?_, fun dropped => stopSample_drops h idle del dropped⟩
      · have done := stopSample_progress h idle del state phase
        rw [progressChar_eq, progress] at done
        exact done
      · have done := stopSample_captures h idle del state phase
        rw [captureChar_goes (length ▸ short)] at done
        exact (congrArg (fun y => does (d.setCsv l { w with
          captured := y ++ [x], timers := { w.timers with capture := some 500 } })) captured).mp done
      · have done := stopSample_captures h idle del (.inl state) phase
        rw [captureChar_connects (state'.trans state) (length ▸ full) (matched.mpr fits)] at done
        rw [delivered_connected] at done
        exact done
      · have no := mt matched.mp differs
        have clears := captureEnd_mismatched (caught_state (x := x) |>.trans (state'.trans state)) (Bool.eq_false_iff.mpr no)
        obtain ⟨entered, rem, phase', latched⟩ := captureChar_clears (delivered_mark h) (length ▸ full) clears
        exact ⟨_, stopSample_captures h idle del (.inl state) phase, entered, by rw [rem, captured], phase', latched no⟩
      · have clears := captureEnd_connected (caught_state (x := x) |>.trans (state'.trans state))
        obtain ⟨entered, rem, phase', latched⟩ := captureChar_clears (delivered_mark h) (length ▸ full) clears
        exact ⟨_, stopSample_captures h idle del (.inr state) phase, entered, by rw [rem, captured], phase',
          fun differs => latched (mt matched.mp differs)⟩
end


section
/-! SUPPORT. The order of a delivery queue and the choice of a record for a mechanism (R77, R150, R169). -/

namespace Sys2Proof.Machine

open Sys2Proof

variable {s : State} {d : Deliv} {a b c : Nat × Rec}

/-! ## The queue's order (R77) -/

theorem before_iff (a b : Nat × Rec) (d : Deliv) : before a b d = true ↔ Ahead d a b := by
  unfold before Ahead
  cases a.2.urgent <;> cases b.2.urgent <;> simp

theorem Ahead.trans (h : Ahead d a b) (k : Ahead d b c) : Ahead d a c := by
  unfold Ahead at *
  generalize (a.2.stamp.get d).getD 0 = x at *
  generalize (b.2.stamp.get d).getD 0 = y at *
  generalize (c.2.stamp.get d).getD 0 = z at *
  rcases h with ⟨ha, hb⟩ | ⟨hab, h⟩
  · rcases k with ⟨kb, -⟩ | ⟨kbc, -⟩
    · simp [hb] at kb
    · exact .inl ⟨ha, kbc ▸ hb⟩
  · rcases k with ⟨kb, kc⟩ | ⟨kbc, k⟩
    · exact .inl ⟨hab ▸ kb, kc⟩
    · exact .inr ⟨hab.trans kbc, by omega⟩

theorem Ahead.irrefl : ¬ Ahead d a a := by
  unfold Ahead
  cases a.2.urgent <;> simp

/-- No entry of a queue is ahead of one that stands before it. -/
def InOrder (d : Deliv) (xs : List (Nat × Rec)) : Prop := xs.Pairwise fun a b => ¬ Ahead d b a

theorem insertInOrder_inOrder {xs : List (Nat × Rec)} (h : InOrder d xs) : InOrder d (insertInOrder d a xs) := by
  induction xs with
  | nil => exact List.pairwise_singleton ..
  | cons b xs ih =>
    obtain ⟨head, tail⟩ := List.pairwise_cons.mp h
    rw [insertInOrder]
    split
    · next front =>
      rw [before_iff] at front
      refine List.pairwise_cons.mpr ⟨fun c mem k => ?_, h⟩
      rcases List.mem_cons.mp mem with rfl | mem
      · exact Ahead.irrefl (k.trans front)
      · exact head c mem (k.trans front)
    · next later =>
      rw [before_iff] at later
      refine List.pairwise_cons.mpr ⟨fun c mem => ?_, ih tail⟩
      rcases (mem_insertInOrder ..).mp mem with rfl | mem
      · exact later
      · exact head c mem

theorem queueOf_inOrder (s : State) (d : Deliv) : InOrder d (queueOf s d) := by
  unfold queueOf
  induction s.entries.filter fun e => e.2.queued d with
  | nil => exact List.Pairwise.nil
  | cons a xs ih => exact insertInOrder_inOrder ih

/-- The first entry of a queue with a property has none ahead of it. -/
theorem find_inOrder {xs : List (Nat × Rec)} {p : Nat × Rec → Bool} (h : InOrder d xs) (found : xs.find? p = some a)
    (mem : b ∈ xs) (hb : p b = true) : b = a ∨ ¬ Ahead d b a := by
  obtain ⟨-, before, after, rfl, not⟩ := List.find?_eq_some_iff_append.mp found
  rcases List.mem_append.mp mem with mem | mem
  · exact absurd hb (by simpa using not b mem)
  · rcases List.mem_cons.mp mem with e | mem
    · exact .inl e
    · exact .inr ((List.pairwise_cons.mp (List.pairwise_append.mp h).2.1).1 b mem)

/-! ## The choice (R150, R169) -/

theorem mem_candidates (s : State) (d : Deliv) (i : Nat) (r : Rec) : (i, r) ∈ candidates s d ↔ Candidate s d i r := by
  rw [candidates, List.mem_filter, mem_queueOf, Candidate, isCandidate, Rec.queued]
  cases r.state <;> simp [and_assoc]

theorem candidates_inOrder (s : State) (d : Deliv) : InOrder d (candidates s d) := (queueOf_inOrder s d).filter _

theorem rotation_inTurn (served : Origin) :
    (rotation served).Pairwise fun a b => turn served a < turn served b := by
  cases served <;> decide

theorem mem_rotation (served o : Origin) : o ∈ rotation served := by
  cases served <;> cases o <;> decide

theorem chooseGrant_chosen {served : Origin} {i : Nat} {r : Rec} (h : Chosen (Candidate s d) d served i r) :
    chooseGrant served (candidates s d) = some i := by
  obtain ⟨cand, best⟩ := h
  have mem := (mem_candidates ..).mpr cand
  have settled {p : Nat × Rec → Bool} {j : Nat} {q : Rec} (found : (candidates s d).find? p = some (j, q))
      (hp : p (i, r) = true) (first : j = i ∨ Ahead d (i, r) (j, q)) : j = i := by
    rcases find_inOrder (candidates_inOrder s d) found mem hp with e | e
    · exact (congrArg Prod.fst e).symm
    · exact first.resolve_right e
  have candidate {p : Nat × Rec → Bool} {j : Nat} {q : Rec} (found : (candidates s d).find? p = some (j, q)) :
      Candidate s d j q := (mem_candidates ..).mp (List.mem_of_find?_eq_some found)
  unfold chooseGrant
  split
  · next e found =>
    obtain ⟨j, q⟩ := e
    have urgent : q.urgent = true := by simpa using List.find?_some found
    obtain ⟨up, -, first⟩ := best j q (candidate found)
    exact congrArg some (settled found (up urgent) (first (.inl ⟨up urgent, urgent⟩)))
  · next none =>
    have calm : r.urgent = false := by simpa using List.find?_eq_none.mp none (i, r) mem
    cases found : (rotation served).findSome? fun o => (candidates s d).find? fun e => decide (e.2.origin = o) with
    | none =>
      have nobody := List.findSome?_eq_none_iff.mp found r.origin (mem_rotation ..)
      simpa using List.find?_eq_none.mp nobody (i, r) mem
    | some e =>
      obtain ⟨j, q⟩ := e
      obtain ⟨earlier, o, later, order, here, passed⟩ := List.findSome?_eq_some_iff.mp found
      have origin : q.origin = o := by simpa using List.find?_some here
      obtain ⟨-, inTurn, first⟩ := best j q (candidate here)
      have sorted := rotation_inTurn served
      rw [order] at sorted
      have same : r.origin = o := by
        have place : r.origin ∈ earlier ++ o :: later := order ▸ mem_rotation ..
        rcases List.mem_append.mp place with k | k
        · exact absurd (List.find?_eq_none.mp (passed _ k) (i, r) mem) (by simp)
        · rcases List.mem_cons.mp k with e | k
          · exact e
          · have := (List.pairwise_cons.mp (List.pairwise_append.mp sorted).2.1).1 _ k
            have := inTurn calm
            rw [origin] at this
            omega
      exact congrArg some (settled here (decide_eq_true same) (first (.inr ⟨calm, origin.trans same.symm⟩)))

theorem chooseGrant_nobody (served : Origin) (h : ∀ i r, ¬ Candidate s d i r) :
    chooseGrant served (candidates s d) = none := by
  have empty : candidates s d = [] :=
    List.eq_nil_iff_forall_not_mem.mpr fun ⟨i, r⟩ mem => h i r ((mem_candidates ..).mp mem)
  rw [empty]
  cases served <;> rfl

end Sys2Proof.Machine
end


section
/-! SUPPORT. The punch's grant and the issue of its operations (R164, R166, R169, R170, R172). -/

namespace Sys2Proof.Machine

open Sys2Proof

variable {s u : State}

/-- What the punch's rows do with a state: it settles, the section standing where the phases that are over leave it. -/
theorem punch_settles (u : State) : Settled noLine u (settle u) ∧ SectionKept u (settle u) :=
  ⟨settle_settled u, settle_sectionKept u⟩

/-! ## The grant (R169) -/

theorem punchGrant_not (h : s.puc.grant ≠ none ∨ s.puc.fault = true ∨ s.running = false ∨
    ∀ i r, ¬ Candidate s .punch i r) : punchGrant s = s := by
  unfold punchGrant
  split
  · next free =>
    simp only [Bool.and_eq_true, Option.isNone_iff_eq_none, Bool.not_eq_true'] at free
    obtain ⟨⟨grant, fault⟩, running⟩ := free
    rcases h with h | h | h | h
    · exact absurd grant h
    · simp [fault] at h
    · simp [running] at h
    · rw [chooseGrant_nobody _ h]
  · rfl

theorem punchGrant_takes {i : Nat} {r : Rec} (grant : s.puc.grant = none) (fault : s.puc.fault = false)
    (running : s.running = true) (h : Chosen (Candidate s .punch) .punch s.puc.lastServed i r) :
    punchGrant s = settle (takePunchGrant s i r) := by
  have record : s.record i = some r := h.1.1
  simp [punchGrant, grant, fault, running, chooseGrant_chosen h, record]

/-! ## The issue of an operation -/

theorem punchReady_iff (s : State) : PunchReady s ↔ s.running = true ∧ punchState s = .ready := by
  unfold PunchReady punchState
  cases s.puc.fault <;> cases s.puc.op <;> cases s.puc.abandoned <;> cases s.puc.hold <;> cases s.puc.tapeHold <;>
    simp

theorem punchOperationIssue_not (h : ¬ PunchReady s ∨ s.puc.grant = none) : punchOperationIssue s = s := by
  unfold punchOperationIssue
  split
  · next ready =>
    rw [Bool.and_eq_true, decide_eq_true_eq, ← punchReady_iff] at ready
    rw [h.resolve_left (not_not_intro ready)]
  · rfl

/-- Nothing is issued where the section has nothing next, or the frame in hand has no step left. -/
theorem punchOperationIssue_nothing {g : PunchGrant} (grant : s.puc.grant = some g)
    (h : (g.frame = none ∧ ¬ SectionNext s g) ∨ ∃ f, g.frame = some f ∧ f.steps = []) : punchOperationIssue s = s := by
  unfold punchOperationIssue
  split
  · rw [grant]
    dsimp only
    rcases h with ⟨frame, not⟩ | ⟨f, frame, steps⟩
    · have next : nextSection s g = none := by
        rw [← sectionNext_iff, Bool.not_eq_true] at not
        exact Option.isNone_iff_eq_none.mp (by simpa using not)
      rw [frame]
      dsimp only
      rw [next]
    · have next : nextPunchOp s = none := by simp [nextPunchOp, grant, frame, steps]
      rw [frame]
      dsimp only
      rw [next]
  · rfl

/-- The operation at the pins, its frame in hand and the tape shift record as it is then (R12, R164). -/
def issued (s : State) (g : PunchGrant) (o : PunchOp) (f : Option PunchFrame) (tape : ShiftRecord) : State :=
  issuePunchOp ((s.setPunchGrant (some { g with frame := f })).setTape tape) o

theorem issued_eq (s : State) (g : PunchGrant) (o : PunchOp) (f : Option PunchFrame) (tape : ShiftRecord) :
    issued s g o f tape = { s with
      ctr := { s.ctr with tape := tape }
      puc := { s.puc with op := some (o, s.puc.cfg.timeoutMs), udata := (issued s g o f tape).puc.udata
                          uop := (match o with
                            | .punch _ => 1
                            | .feed => 2
                            | .backspace => 3)
                          grant := some { g with frame := f } } } := by
  cases o <;> rfl

theorem issued_udata {c : Comb} (s : State) (g : PunchGrant) (f : Option PunchFrame) (tape : ShiftRecord) :
    (issued s g (.punch c) f tape).puc.udata = c := rfl

theorem punchOperationIssue_repair {g : PunchGrant} {f : PunchFrame} {k : RepairStep} {more : List RepairStep}
    (ready : PunchReady s) (grant : s.puc.grant = some g) (frame : g.frame = some f) (steps : f.steps = k :: more) :
    punchOperationIssue s = settle (issued s g (k.op f) (some f) s.ctr.tape) := by
  have same : (s.setPunchGrant (some { g with frame := some f })).setTape s.ctr.tape = s := by
    rw [← frame, State.setPunchGrant, ← grant]
    rfl
  have next : nextPunchOp s = some (k.op f) := by simp [nextPunchOp, grant, frame, steps]
  rw [punchReady_iff] at ready
  simp only [punchOperationIssue, ready, decide_true, Bool.and_self, if_true, grant, frame, next]
  rw [issued, same]

/-- The tape shift record once a frame is begun: a shift frame's shift is recorded as it is issued (R12, R170). -/
def tapeBegun (tape : ShiftRecord) : Option PunchFrame → ShiftRecord
  | some ⟨.openShift, _, _, _⟩ => .held .letters
  | some ⟨.shift sh _, _, _, _⟩ => .held sh
  | some ⟨.erase, _, _, _⟩ | some ⟨.char, _, _, _⟩ | none => tape

theorem beginFrame_eq (s : State) (g : PunchGrant) (f : Option PunchFrame) :
    beginFrame s g f = (s.setPunchGrant (some { g with frame := f })).setTape (tapeBegun s.ctr.tape f) := by
  unfold beginFrame tapeBegun
  dsimp only
  split <;> rfl

theorem punchOperationIssue_section {g : PunchGrant} {o : PunchOp} {f : Option PunchFrame} (ready : PunchReady s)
    (grant : s.puc.grant = some g) (frame : g.frame = none) (next : nextSection s g = some (o, f)) :
    punchOperationIssue s = settle (issued s g o f (tapeBegun s.ctr.tape f)) := by
  rw [punchReady_iff] at ready
  simp only [punchOperationIssue, ready, decide_true, Bool.and_self, if_true, grant, frame, next]
  rw [beginFrame_eq, issued]

/-! ## What the section has next (R170) -/

theorem sectionChar_of {g : PunchGrant} {c : Chr} (h : (g.phase = .text ∧ ∃ r, s.record g.index = some r ∧
    r.cursor.punch < r.length ∧ readChar s r r.cursor.punch = c) ∨ (g.phase = .close ∧ g.closing.head? = some c)) :
    (g.phase = .text ∨ g.phase = .close) ∧ sectionChar s g = some c := by
  rcases h with ⟨phase, r, record, more, char⟩ | ⟨phase, head⟩
  · exact ⟨.inl phase, by simp [sectionChar, phase, record, more, char]⟩
  · exact ⟨.inr phase, by simp [sectionChar, phase, head]⟩

section Section
variable {g : PunchGrant} (owed : g.owed = none)
include owed

theorem nextSection_erase (phase : g.phase = .erase) (h : g.done < 5) :
    nextSection s g = some (.punch 31, some ⟨.erase, 31, 0, []⟩) := by
  simp [nextSection, owed, phase, Config.eraseFrames, h]

theorem nextSection_leader (phase : g.phase = .leader) (h : g.done < s.puc.cfg.leader) :
    nextSection s g = some (.feed, none) := by
  simp [nextSection, owed, phase, h]

theorem nextSection_openShift (phase : g.phase = .openShift) (h : g.done = 0) :
    nextSection s g = some (.punch 31, some ⟨.openShift, 31, 0, []⟩) := by
  simp [nextSection, owed, phase, h]

theorem nextSection_trailer (phase : g.phase = .trailer) (h : g.done < s.puc.cfg.trailer) :
    nextSection s g = some (.feed, none) := by
  simp [nextSection, owed, phase, h]

/-- A character whose shift the tape holds, or that needs none, is a frame of its own. -/
theorem nextSection_char {c : Chr} {y : Sending} (phase : g.phase = .text ∨ g.phase = .close)
    (char : sectionChar s g = some c) (tr : translateChr s.ctr.table c = some y)
    (held : y.need = none ∨ ∃ sh, y.need = some sh ∧ s.ctr.tape = .held sh) :
    nextSection s g = some (.punch y.comb, some ⟨.char, y.comb, 0, []⟩) := by
  have shift : shiftBefore s.ctr.tape y = none := by
    rcases held with need | ⟨sh, need, held⟩
    · simp [shiftBefore, need]
    · simp [shiftBefore, need, held]
  rcases phase with phase | phase <;> simp [nextSection, owed, phase, char, tr, shift]

/-- A character whose shift the tape does not hold has a shift frame first (R12). -/
theorem nextSection_shift {c : Chr} {y : Sending} {sh : Shift} (phase : g.phase = .text ∨ g.phase = .close)
    (char : sectionChar s g = some c) (tr : translateChr s.ctr.table c = some y) (need : y.need = some sh)
    (lost : s.ctr.tape ≠ .held sh) :
    nextSection s g = some (.punch sh.comb, some ⟨.shift sh y.comb, sh.comb, 0, []⟩) := by
  have shift : shiftBefore s.ctr.tape y = some sh := by simp [shiftBefore, need, lost]
  rcases phase with phase | phase <;> simp [nextSection, owed, phase, char, tr, shift]

end Section

end Sys2Proof.Machine
end


section
/-! SUPPORT. The completion of a punch operation (R164, R168, R170, R172), its faults (R165), and the steps of the section that
end a grant, skip characters or deliver the record (R62, R63, R171). -/

namespace Sys2Proof.Machine

open Sys2Proof

variable {s t u v : State} {g : PunchGrant} {f : PunchFrame} {r q : Rec} {o : PunchOp} {i n : Nat}

/-! ## The completed operation, before its section (R168) -/

/-- The state in which the operation in flight is complete and the tape counted. -/
def opDone (s : State) (o : PunchOp) : State := countTape (s.onPuc fun x => { x with op := none }) o

/-- Each PUNCH and FEED lowers a running counter; the last of the tape sets the hold and latches PUNCH_ATTN (R168). -/
theorem opDone_eq (s : State) (o : PunchOp) : opDone s o = { s with
    puc := { s.puc with
      op := none
      tape := if o ≠ .backspace ∧ s.puc.tape ≠ none ∧ s.puc.tape ≠ some 0 then s.puc.tape.map (· - 1) else s.puc.tape
      tapeHold := if (o ≠ .backspace ∧ s.puc.tape ≠ none ∧ s.puc.tape ≠ some 0) ∧ s.puc.tape = some 1 then true
        else s.puc.tapeHold }
    cpe := { s.cpe with latches :=
      if (o ≠ .backspace ∧ s.puc.tape ≠ none ∧ s.puc.tape ≠ some 0) ∧ s.puc.tape = some 1 then
        s.cpe.latches ||| BitVec.twoPow 17 13
      else s.cpe.latches } } := by
  have counted (h : o ≠ .backspace) : opDone s o = countTape (s.onPuc fun x => { x with op := none }) .feed := by
    cases o with
    | backspace => exact absurd rfl h
    | punch | feed => rfl
  by_cases h : o = .backspace
  · subst h
    simp [opDone, countTape, State.onPuc]
  · rw [counted h]
    unfold countTape
    simp only [State.onPuc]
    rcases tape : s.puc.tape with _ | _ | _ | n <;> simp [h, State.latch, Event.bit]

theorem completePunchOp_none (sensed : Comb) (h : s.puc.grant = none) : completePunchOp s o sensed = opDone s o := by
  have grant : (opDone s o).puc.grant = none := by rw [opDone_eq]; exact h
  change (match (opDone s o).puc.grant with
    | none => opDone s o
    | some g => sectionAfter (opDone s o) g sensed) = _
  rw [grant]

theorem completePunchOp_some (sensed : Comb) (h : s.puc.grant = some g) :
    completePunchOp s o sensed = sectionAfter (opDone s o) g sensed := by
  have grant : (opDone s o).puc.grant = some g := by rw [opDone_eq]; exact h
  change (match (opDone s o).puc.grant with
    | none => opDone s o
    | some g => sectionAfter (opDone s o) g sensed) = _
  rw [grant]

theorem urdy_completes (sensed : Comb) (h : s.puc.op = some (o, n)) :
    urdy sensed s = settle (completePunchOp s o sensed) := by
  simp only [urdy, h]

/-- What completion leaves: the translator, the store, the printer and the motors, and of the punch all but the operation
and the tape counter. -/
theorem opDone_parts (s : State) (o : PunchOp) : (opDone s o).ctr = s.ctr ∧ (opDone s o).stm = s.stm ∧
    (opDone s o).prc = s.prc ∧ (opDone s o).mtc = s.mtc ∧ (opDone s o).puc.op = none ∧
    (opDone s o).puc.cfg = s.puc.cfg ∧ (opDone s o).puc.untranslatable = s.puc.untranslatable ∧
    (opDone s o).puc.repairs = s.puc.repairs ∧ (opDone s o).puc.grant = s.puc.grant := by
  rw [opDone_eq]
  exact ⟨rfl, rfl, rfl, rfl, rfl, rfl, rfl, rfl, rfl⟩

/-- The section with its grant and the tape's shift record changed. -/
def withGrant (s : State) (g : Option PunchGrant) (tape : ShiftRecord) : State := (s.setPunchGrant g).setTape tape

/-- A frame's own PUNCH or a repair's, sensed or not verified (R164). -/
def Passes (s : State) (sensed c : Comb) : Prop := s.puc.cfg.verify = false ∨ sensed = c

theorem passes_iff (s : State) (sensed c : Comb) :
    (!s.puc.cfg.verify || decide (sensed = c)) = true ↔ Passes s sensed c := by
  simp [Passes]

/-! ## What the operation does in the section (R164, R170, R172) -/

theorem sectionAfter_feed (sensed : Comb) (frame : g.frame = none) :
    sectionAfter s g sensed = withGrant s (some { g with done := g.done + 1 }) s.ctr.tape := by
  simp only [sectionAfter, frame]
  rfl

theorem sectionAfter_back {more : List RepairStep} (sensed : Comb) (frame : g.frame = some f)
    (steps : f.steps = .back :: more) :
    sectionAfter s g sensed = withGrant s (some { g with frame := some { f with steps := more } }) s.ctr.tape := by
  simp only [sectionAfter, frame, steps]
  rfl

/-- The erasing frame of a repair, and the FIGS that restores the shift. -/
def Restores (k : RepairStep) (c : Comb) : Prop := (k = .erase ∧ c = 31) ∨ (k = .figs ∧ c = 27)

theorem sectionAfter_restored {k : RepairStep} {c sensed : Comb} {more : List RepairStep} (frame : g.frame = some f)
    (h : Restores k c) (steps : f.steps = k :: more) (ok : Passes s sensed c) :
    sectionAfter s g sensed = withGrant s (some { g with frame := some { f with steps := more } }) s.ctr.tape := by
  rw [← passes_iff] at ok
  rcases h with ⟨rfl, rfl⟩ | ⟨rfl, rfl⟩
  all_goals
    simp only [sectionAfter, frame, steps]
    exact if_pos ok

theorem sectionAfter_unrestored {k : RepairStep} {c sensed : Comb} {more : List RepairStep} (frame : g.frame = some f)
    (h : Restores k c) (steps : f.steps = k :: more) (bad : ¬ Passes s sensed c) :
    sectionAfter s g sensed = punchFault s .repair := by
  rw [← passes_iff] at bad
  rcases h with ⟨rfl, rfl⟩ | ⟨rfl, rfl⟩
  all_goals
    simp only [sectionAfter, frame, steps]
    exact if_neg bad

/-- The operation is the frame's own PUNCH. -/
def Own (f : PunchFrame) : Prop := f.steps = [] ∨ ∃ more, f.steps = .again :: more

theorem sectionAfter_own (sensed : Comb) (frame : g.frame = some f) (own : Own f) : sectionAfter s g sensed =
    if (!s.puc.cfg.verify || decide (sensed = f.comb)) then frameDone s g f else mismatch s g f := by
  rcases own with steps | ⟨more, steps⟩ <;> simp only [sectionAfter, frame, steps]

theorem sectionAfter_passes {sensed : Comb} (frame : g.frame = some f) (own : Own f) (ok : Passes s sensed f.comb) :
    sectionAfter s g sensed = frameDone s g f := by
  rw [sectionAfter_own sensed frame own, if_pos ((passes_iff ..).mpr ok)]

theorem sectionAfter_mismatch {sensed : Comb} (frame : g.frame = some f) (own : Own f)
    (bad : ¬ Passes s sensed f.comb) : sectionAfter s g sensed = mismatch s g f := by
  rw [sectionAfter_own sensed frame own, if_neg (mt (passes_iff ..).mp bad)]

/-! ## A frame that is done -/

/-- The tape shift record after a frame, which a repair has made what it restored (R172). -/
def tapeAfter (s : State) (f : PunchFrame) : ShiftRecord := if f.retry = 0 then s.ctr.tape else repairedShift f.kind

theorem repaired_eq (s : State) (f : PunchFrame) (x : Option PunchGrant) :
    (if f.retry = 0 then s else s.setTape (repairedShift f.kind)).setPunchGrant x = withGrant s x (tapeAfter s f) := by
  unfold tapeAfter
  split <;> rfl

theorem frameDone_char (kind : f.kind = .char) : frameDone s g f = match g.phase with
    | .text => advanceCursor (withGrant s (some { g with frame := none, owed := none }) (tapeAfter s f)) .punch g.index
    | .close => withGrant s (some { g with frame := none, owed := none, closing := g.closing.tail }) (tapeAfter s f)
    | .erase | .leader | .openShift | .trailer =>
      withGrant s (some { g with frame := none, owed := none }) (tapeAfter s f) := by
  simp only [frameDone, kind]
  simp only [← kind, repaired_eq] <;> cases g.phase <;> rfl

theorem frameDone_text (kind : f.kind = .char) (phase : g.phase = .text) : frameDone s g f =
    advanceCursor (withGrant s (some { g with frame := none, owed := none }) (tapeAfter s f)) .punch g.index := by
  rw [frameDone_char kind]
  split
  · rfl
  all_goals simp_all

theorem frameDone_close (kind : f.kind = .char) (phase : g.phase = .close) : frameDone s g f =
    withGrant s (some { g with frame := none, owed := none, closing := g.closing.tail }) (tapeAfter s f) := by
  rw [frameDone_char kind]
  split <;> simp_all

theorem frameDone_erase (kind : f.kind = .erase) : frameDone s g f =
    if g.done + 1 = 5 then
      (withGrant s (some { g with frame := none, done := g.done + 1 }) (tapeAfter s f)).onRecord g.index fun r =>
        { r with flags := { r.flags with punchSpoiled := false } }
    else withGrant s (some { g with frame := none, done := g.done + 1 }) (tapeAfter s f) := by
  simp only [frameDone, kind]
  simp only [← kind, repaired_eq]
  rfl

theorem frameDone_shift {sh : Shift} {b : Comb} (kind : f.kind = .shift sh b) :
    frameDone s g f = withGrant s (some { g with frame := none, owed := some b }) (tapeAfter s f) := by
  simp only [frameDone, kind]
  simp only [← kind, repaired_eq]

theorem frameDone_openShift (kind : f.kind = .openShift) :
    frameDone s g f = withGrant s (some { g with frame := none, done := 1 }) (tapeAfter s f) := by
  simp only [frameDone, kind]
  simp only [← kind, repaired_eq]

theorem mismatch_retries (kind : f.kind ≠ .erase) (left : f.retry < s.puc.cfg.retryLimit) : mismatch s g f =
    (withGrant s (some { g with frame := some { f with
      retry := f.retry + 1
      steps := if s.ctr.tape = .held .figures then [.back, .erase, .figs, .again]
        else [.back, .erase, .again] } }) s.ctr.tape).onPuc fun x => { x with repairs := bump x.repairs } := by
  have steps : repairSteps s.ctr.tape =
      (if s.ctr.tape = .held .figures then [.back, .erase, .figs, .again] else [.back, .erase, .again]) := by
    unfold repairSteps
    split <;> simp_all
  simp only [mismatch, kind, if_false, left, if_true, steps]
  rfl

theorem mismatch_erase (kind : f.kind = .erase) : mismatch s g f = punchFault s .repair := by
  simp only [mismatch, kind, if_true]

theorem mismatch_limit (kind : f.kind ≠ .erase) (spent : s.puc.cfg.retryLimit ≤ f.retry) :
    mismatch s g f = punchFault s .retryLimit := by
  simp only [mismatch, kind, if_false, Nat.not_lt.mpr spent]

end Sys2Proof.Machine
end


section
/-! SUPPORT. How the punch's grant ends (R62, R63, R165, R171): by a fault, by a stop, by the delivery of its record; and what
settling leaves of it where the printer takes no step of its own. -/

namespace Sys2Proof.Machine

open Sys2Proof

variable {s t u v w : State} {g : PunchGrant} {f : PunchFrame} {r q : Rec} {i n : Nat} {c : PunchCause}

/-! ## A record that its deliverer leaves (R63, R64) -/

theorem releaseRecord_free (h : s.record i = some r) :
    (releaseRecord s i).stm.free = s.stm.free ++ r.chain ∧ (releaseRecord s i).kbs.storeFull = false := by
  simp only [releaseRecord, h, unreservedRose, evalLow, settleSequence]
  constructor <;> split <;> split <;> rfl

theorem releaseIfDone_free (h : s.record i = some r) :
    let spent := r.state = .cancelled ∨ (r.state = .closed ∧ r.dests.isEmpty = true)
    (¬ spent → (releaseIfDone s i).stm.free = s.stm.free) ∧
    (spent → r.grants.any = true → (releaseIfDone s i).stm.free = s.stm.free) ∧
    (spent → r.grants.any = false →
      (releaseIfDone s i).stm.free = s.stm.free ++ r.chain ∧ (releaseIfDone s i).kbs.storeFull = false) := by
  have released := releaseRecord_free h
  simp only [releaseIfDone, h]
  cases r.state <;> cases r.dests.isEmpty <;> cases r.grants.any <;>
    simp [released, State.setRecord]

theorem recordLeft_of (stm : v.stm = { s.stm with recs := v.stm.recs }) (others : ∀ j, j ≠ i → v.record j = s.record j)
    (record : v.record i = some q) : RecordLeft s (releaseIfDone v i) i q := by
  have only := releaseIfDone_storeOnly v i
  obtain ⟨kept, granted, freed⟩ := releaseIfDone_record v i record
  obtain ⟨keptFree, grantedFree, freedFree⟩ := releaseIfDone_free record
  have free : v.stm.free = s.stm.free := by rw [stm]
  exact {
    stm := by
      have := only.stm
      rw [stm] at this
      exact this
    others := fun j n => (only.records j n).trans (others j n)
    kept := fun h => ⟨kept h, (keptFree h).trans free⟩
    granted := fun h k => ⟨granted h k, (grantedFree h k).trans free⟩
    freed := fun h k => ⟨freed h k, by rw [(freedFree h k).1, free], (freedFree h k).2⟩ }

/-- The record that the punch leaves at a stop. -/
def punchStopped (q : Rec) : Rec :=
  { q with grants := { q.grants with punch := false }, stops := { q.stops with punch := false } }

theorem onRecord_stm (s : State) (i : Nat) (f : Rec → Rec) :
    (s.onRecord i f).stm = { s.stm with recs := (s.onRecord i f).stm.recs } := by
  unfold State.onRecord
  split <;> rfl

theorem onRecord_ne (s : State) (f : Rec → Rec) {j : Nat} (h : j ≠ i) : (s.onRecord i f).record j = s.record j :=
  (StoreOnly.onRecord s i f).records j h

theorem onRecord_same (h : s.record i = some r) (f : Rec → Rec) : (s.onRecord i f).record i = some (f r) := by
  rw [State.record_onRecord, if_pos rfl, h]
  rfl

theorem endGrant_left (stm : v.stm = { s.stm with recs := v.stm.recs })
    (others : ∀ j, j ≠ i → v.record j = s.record j) (record : v.record i = some q) :
    RecordLeft s (endGrant v .punch i) i (punchStopped q) := by
  refine recordLeft_of ?_ (fun j n => (onRecord_ne v _ n).trans (others j n)) (onRecord_same record _)
  rw [onRecord_stm, stm]

theorem completeDelivery_left (stm : v.stm = s.stm) (record : v.record i = some r) :
    RecordLeft s (completeDelivery v .punch i) i (punchStopped { r with
      dests := { r.dests with out := { r.dests.out with punch := false } }, stamp := { r.stamp with punch := none } }) := by
  let f (r : Rec) : Rec := { r with dests := r.dests.off .punch }
  let h (r : Rec) : Rec := { r with stamp := r.stamp.set .punch none }
  have settled (x : State) : (settleSequence x).stm = x.stm := by
    unfold settleSequence
    split <;> rfl
  have records (x : State) (j : Nat) : (settleSequence x).record j = x.record j := by rw [State.record, settled]; rfl
  have start : v.record = s.record := by unfold State.record; rw [stm]
  refine endGrant_left (v := settleSequence ((v.onRecord i f).onRecord i h)) ?_ ?_ ?_
  · rw [settled, onRecord_stm, onRecord_stm, stm]
  · intro j n
    rw [records, onRecord_ne _ _ n, onRecord_ne _ _ n, start]
  · rw [records]
    exact onRecord_same (onRecord_same record f) h

end Sys2Proof.Machine
end


section
/-! SUPPORT. What settling leaves of the punch: a fault, a stop, a delivery, the text's untranslatable characters (R62, R63,
R165, R170, R171). -/

namespace Sys2Proof.Machine

open Sys2Proof

variable {s t u v w : State} {g : PunchGrant} {f : PunchFrame} {r q : Rec} {i n : Nat} {c : PunchCause}

/-! ## Settling, for the punch -/

theorem followYield_eq (s : State) : ∃ p, followYield s = { s with prc := p } := by
  unfold followYield
  split
  · dsimp only
    split
    · split <;> exact ⟨_, rfl⟩
    · exact ⟨_, rfl⟩
  · obtain ⟨y, v, e⟩ := stopYield_eq s
    exact ⟨_, e⟩

theorem settle_puc (s : State) : (settle s).puc = (punchSweep sweepFuel (printSweep sweepFuel (stopYield s))).puc := by
  obtain ⟨p, e⟩ := followYield_eq (punchSweep sweepFuel (printSweep sweepFuel (stopYield s)))
  obtain ⟨h, k⟩ := followHeat_eq (printSweep sweepFuel (followYield (punchSweep sweepFuel (printSweep sweepFuel (stopYield s)))))
  change (followHeat _).puc = _
  rw [k]
  exact (printSweep_puc ..).trans (by rw [e])

/-- A punch without a grant stands still. -/
theorem settle_noGrant (h : s.puc.grant = none) : (settle s).puc = s.puc := by
  obtain ⟨y, b, e⟩ := stopYield_eq s
  have same : (printSweep sweepFuel (stopYield s)).puc = s.puc := by rw [printSweep_puc, e]
  rw [settle_puc, punchSweep_still _ (PunchStill.step (.inl (by rw [same]; exact h))), same]

theorem PrinterStill.yields (h : PrinterStill s) : yieldRuns s = false := by
  unfold yieldRuns
  rcases h with h | h
  · rw [h]
  · cases op : s.prc.op with
    | none => exact absurd op h
    | some o =>
      split
      · rfl
      · split <;> simp

/-- Where the printer takes no step, what settling leaves of the punch and the store is the punch's own doing. -/
theorem settle_still (h : PrinterStill s) : ∃ p, ∀ w, punchSweep sweepFuel { s with prc := p } = w →
    (settle s).puc = w.puc ∧ (settle s).stm = w.stm ∧ (settle s).kbs = w.kbs := by
  obtain ⟨y, b, e⟩ := stopYield_eq s
  refine ⟨{ s.prc with yieldTimer := y, starved := b }, ?_⟩
  rintro w rfl
  rw [← e]
  have first : printSweep sweepFuel (stopYield s) = stopYield s := printSweep_still _ (PrinterStill.step (by rw [e]; exact h))
  have printer : (punchSweep sweepFuel (stopYield s)).prc = { s.prc with yieldTimer := y, starved := b } := by
    rw [punchSweep_prc, e]
  have still : PrinterStill (punchSweep sweepFuel (stopYield s)) := by
    rw [PrinterStill, printer]
    exact h
  obtain ⟨y', b', e'⟩ := stopYield_eq (punchSweep sweepFuel (stopYield s))
  have yields : followYield (punchSweep sweepFuel (stopYield s)) = { punchSweep sweepFuel (stopYield s) with
      prc := { (punchSweep sweepFuel (stopYield s)).prc with yieldTimer := y', starved := b' } } := by
    rw [← e', followYield, if_neg (Bool.eq_false_iff.mp still.yields)]
  have second : printSweep sweepFuel (followYield (punchSweep sweepFuel (stopYield s))) =
      followYield (punchSweep sweepFuel (stopYield s)) :=
    printSweep_still _ (PrinterStill.step (by rw [yields]; exact still))
  unfold settle
  dsimp only
  rw [first, second, yields]
  obtain ⟨heat, k⟩ := followHeat_eq { punchSweep sweepFuel (stopYield s) with
    prc := { (punchSweep sweepFuel (stopYield s)).prc with yieldTimer := y', starved := b' } }
  rw [k]
  exact ⟨rfl, rfl, rfl⟩

/-! ## A fault (R165, R172) -/

theorem punchFault_none (h : s.puc.grant = none) : punchFault s c = { s with
    puc := { s.puc with fault := true, lastFault := some (c, none), op := none }
    cpe := { s.cpe with latches := s.cpe.latches ||| BitVec.twoPow 17 13 } } := by
  simp only [punchFault, h]
  rfl

/-- A record that a fault spoils while PUNCH is pending (R165). -/
def spoiled (r : Rec) : Rec := if r.dests.out.punch then
  { r with flags := { r.flags with punchSpoiled := true }, cursor := { r.cursor with punch := 0 } } else r

/-- The punch in FAULT with record i spoiled, before its grant ends. -/
def faulting (s : State) (c : PunchCause) (i : Nat) : State :=
  { s with puc := { s.puc with fault := true, lastFault := some (c, some i), op := none } }.onRecord i spoiled

theorem faulting_only (s : State) (c : PunchCause) (i : Nat) : StoreOnly (· = i)
    { s with puc := { s.puc with fault := true, lastFault := some (c, some i), op := none } } (faulting s c i) :=
  .onRecord ..

theorem endPunchGrant_some (h : s.puc.grant = some g) :
    endPunchGrant s = endGrant (s.setPunchGrant none) .punch g.index := by
  simp only [endPunchGrant, h]

theorem punchFault_some (c : PunchCause) (grant : s.puc.grant = some g) : punchFault s c =
    (endGrant ((faulting s c g.index).setPunchGrant none) .punch g.index).latch .punchAttn := by
  have index : s.puc.grant.map (·.index) = some g.index := by rw [grant]; rfl
  have still : (faulting s c g.index).puc.grant = some g := by rw [(faulting_only ..).puc]; exact grant
  unfold punchFault
  dsimp only
  rw [index]
  exact congrArg (State.latch · .punchAttn) (endPunchGrant_some still)

theorem punchFault_puc (c : PunchCause) (grant : s.puc.grant = some g) : (punchFault s c).puc =
    { s.puc with fault := true, lastFault := some (c, some g.index), op := none, grant := none } := by
  rw [punchFault_some c grant]
  exact (endGrant_storeOnly ..).puc.trans (congrArg (fun p : Punch => { p with grant := none }) (faulting_only ..).puc)

theorem punchFault_record (c : PunchCause) (grant : s.puc.grant = some g) (record : s.record g.index = some r)
    (pending : r.dests.out.punch = true) (kept : r.state ≠ .cancelled) : (punchFault s c).record g.index = some { r with
      grants := { r.grants with punch := false }, stops := { r.stops with punch := false }
      cursor := { r.cursor with punch := 0 }, flags := { r.flags with punchSpoiled := true } } := by
  let free (r : Rec) : Rec := { r with grants := r.grants.set .punch false, stops := r.stops.set .punch false }
  have bad : (faulting s c g.index).record g.index = some (spoiled r) :=
    onRecord_same (s := { s with puc := { s.puc with fault := true, lastFault := some (c, some g.index), op := none } })
      record spoiled
  have here : (((faulting s c g.index).setPunchGrant none).onRecord g.index free).record g.index =
      some (free (spoiled r)) := onRecord_same (s := (faulting s c g.index).setPunchGrant none) bad free
  have unspent : ¬ ((free (spoiled r)).state = .cancelled ∨
      ((free (spoiled r)).state = .closed ∧ (free (spoiled r)).dests.isEmpty = true)) := by
    simp [free, spoiled, pending, kept, DestSet.isEmpty, Four.any]
  rw [punchFault_some c grant]
  refine ((releaseIfDone_record _ _ here).1 unspent).trans ?_
  simp only [free, spoiled, pending, if_true]
  rfl

/-- What a fault leaves: the grant over, and the record spoiled and its cursor at 0 while PUNCH is pending. -/
theorem punchFault_faulted (c : PunchCause) (grant : s.puc.grant = some g) :
    (settle (punchFault s c)).puc.fault = true ∧ (settle (punchFault s c)).puc.lastFault = some (c, some g.index) ∧
    (settle (punchFault s c)).puc.op = none ∧ (settle (punchFault s c)).puc.grant = none ∧
    Latched (settle (punchFault s c)) .punchAttn ∧
    ∀ r, s.record g.index = some r → r.dests.out.punch = true → r.state ≠ .cancelled →
      (∀ h, s.prc.grant = some h → h.index ≠ g.index) →
      (settle (punchFault s c)).record g.index = some { r with
        grants := { r.grants with punch := false }, stops := { r.stops with punch := false }
        cursor := { r.cursor with punch := 0 }, flags := { r.flags with punchSpoiled := true } } := by
  have puc := punchFault_puc c grant
  have noGrant : (punchFault s c).puc.grant = none := by rw [puc]
  have settled := (settle_settled (punchFault s c)).kept
  rw [settle_noGrant noGrant, puc]
  refine ⟨rfl, rfl, rfl, rfl, settled.latched _ ?_, fun r record pending kept apart => ?_⟩
  · rw [punchFault_some c grant]
    exact latch_latched ..
  · have printer : (punchFault s c).prc = s.prc := by
      rw [punchFault_some c grant]
      exact (endGrant_storeOnly ..).prc.trans (faulting_only ..).prc
    have alone : ¬ Granted noLine (punchFault s c) g.index := by
      rintro (⟨h, granted, same⟩ | ⟨h, granted, -⟩ | ⟨l, -, off, -⟩)
      · exact apart h (printer ▸ granted) same
      · rw [noGrant] at granted
        cases granted
      · cases off
    exact (settled.records _ alone).trans (punchFault_record c grant record pending kept)

end Sys2Proof.Machine
end


section
/-! SUPPORT. The punch's own steps after an operation: the stop, the delivery, the repair that goes on, the untranslatable
characters of the text (R62, R63, R170, R171). -/

namespace Sys2Proof.Machine

open Sys2Proof

variable {s t u v w : State} {g : PunchGrant} {f : PunchFrame} {r q : Rec} {i n : Nat}

/-- The punch has left record i as q. -/
def PunchLeft (s t : State) (i : Nat) (q : Rec) : Prop := t.puc.grant = none ∧ t.puc.op = none ∧ RecordLeft s t i q

theorem RecordLeft.congr (a : RecordLeft s w i q) (stm : t.stm = w.stm) (kbs : t.kbs = w.kbs) : RecordLeft s t i q where
  stm := by rw [stm]; exact a.stm
  others := by simp only [State.record, stm]; exact a.others
  kept := by simp only [State.record, stm]; exact a.kept
  granted := by simp only [State.record, stm]; exact a.granted
  freed := by simp only [State.record, stm, kbs]; exact a.freed

theorem settle_left (still : PrinterStill u)
    (h : ∀ p, PunchLeft s (punchSweep sweepFuel { u with prc := p }) i q) : PunchLeft s (settle u) i q := by
  obtain ⟨p, main⟩ := settle_still still
  obtain ⟨puc, stm, kbs⟩ := main _ rfl
  obtain ⟨grant, op, left⟩ := h p
  rw [PunchLeft, puc]
  exact ⟨grant, op, left.congr stm kbs⟩

theorem punchSweep_succ (n : Nat) (h : punchStep s = some t) : punchSweep (n + 1) s = punchSweep n t := by
  simp only [punchSweep, h]

/-- A step that ends the grant is the section's last. -/
theorem punchSweep_ends (n : Nat) (h : punchStep s = some t) (ended : t.puc.grant = none) : punchSweep (n + 1) s = t := by
  rw [punchSweep_succ n h, punchSweep_still _ (PunchStill.step (.inl ended))]

/-! ## A stop (R63, R171) -/

theorem punchStep_stops (grant : s.puc.grant = some g) (op : s.puc.op = none)
    (asked : stopAsked s .punch g.index = true) :
    punchStep s = if midRepair s g then none else some (endPunchGrant s) := by
  simp only [punchStep, grant, op, asked, if_true]

theorem stopAsked_iff (h : s.record i = some r) : stopAsked s .punch i = r.stops.punch := by
  simp only [stopAsked, h]
  rfl

/-- A stop that no repair holds back ends the grant. -/
theorem settle_stopped (still : PrinterStill u) (grant : u.puc.grant = some g) (op : u.puc.op = none)
    (record : u.record g.index = some q) (asked : q.stops.punch = true) (mid : midRepair u g = false)
    (stm : u.stm = { s.stm with recs := u.stm.recs }) (others : ∀ j, j ≠ g.index → u.record j = s.record j) :
    PunchLeft s (settle u) g.index (punchStopped q) := by
  refine settle_left still fun p => ?_
  let v : State := { u with prc := p }
  have step : punchStep v = some (endGrant (v.setPunchGrant none) .punch g.index) := by
    rw [punchStep_stops (s := v) grant op ((stopAsked_iff (s := v) record).trans asked), ← endPunchGrant_some (s := v) grant]
    exact if_neg (Bool.eq_false_iff.mp mid)
  have puc : (endGrant (v.setPunchGrant none) .punch g.index).puc = { u.puc with grant := none } :=
    (endGrant_storeOnly ..).puc
  rw [show sweepFuel = 8999 + 1 from rfl, punchSweep_ends _ step (by rw [puc]), PunchLeft, puc]
  exact ⟨rfl, op, endGrant_left (v := v.setPunchGrant none) stm others record⟩

/-- A repair in READY goes on under a stop request (log entry 20). -/
theorem settle_midRepair (still : PrinterStill u) (grant : u.puc.grant = some g) (op : u.puc.op = none)
    (record : u.record g.index = some q) (asked : q.stops.punch = true) (mid : midRepair u g = true) :
    (settle u).puc = u.puc := by
  obtain ⟨p, main⟩ := settle_still still
  have step : punchStep { u with prc := p } = none := by
    rw [punchStep_stops (s := { u with prc := p }) grant op ((stopAsked_iff (s := { u with prc := p }) record).trans asked)]
    exact if_pos mid
  exact (main _ (punchSweep_still _ step)).1

/-! ## The delivery (R62, R170) -/

theorem punchStep_delivers (grant : s.puc.grant = some g) (op : s.puc.op = none)
    (record : s.record g.index = some r) (going : r.stops.punch = false) (frame : g.frame = none) (owed : g.owed = none)
    (phase : g.phase = .trailer) (fed : s.puc.cfg.trailer ≤ g.done) :
    punchStep s = some (completeDelivery (s.setPunchGrant none) .punch g.index) := by
  have asked : stopAsked s .punch g.index = false := (stopAsked_iff record).trans going
  have next : nextSection s g = none := by simp [nextSection, owed, phase, Nat.not_lt.mpr fed]
  simp only [punchStep, grant, op, asked, Bool.false_eq_true, if_false, frame, next, Option.isSome_none, Bool.or_self, phase]

theorem punchStep_closes (grant : s.puc.grant = some g) (op : s.puc.op = none) (record : s.record g.index = some r)
    (going : r.stops.punch = false) (frame : g.frame = none) (owed : g.owed = none) (phase : g.phase = .close)
    (closed : g.closing = []) :
    punchStep s = some (s.setPunchGrant (some { g with phase := .trailer, done := 0, closing := [] })) := by
  have asked : stopAsked s .punch g.index = false := (stopAsked_iff record).trans going
  have next : nextSection s g = none := by simp [nextSection, owed, phase, sectionChar, closed]
  simp only [punchStep, grant, op, asked, Bool.false_eq_true, if_false, frame, next, Option.isSome_none, Bool.or_self, phase,
    closed]

theorem delivery_left (v : State) (grant : v.puc.grant = some g) (op : v.puc.op = none) (stm : v.stm = s.stm)
    (record : s.record g.index = some r) (going : r.stops.punch = false) (frame : g.frame = none) (owed : g.owed = none)
    (phase : g.phase = .trailer) (fed : v.puc.cfg.trailer ≤ g.done) (n : Nat) :
    PunchLeft s (punchSweep (n + 1) v) g.index (punchStopped { r with
      dests := { r.dests with out := { r.dests.out with punch := false } }, stamp := { r.stamp with punch := none } }) := by
  have here : v.record g.index = some r := by rw [State.record, stm]; exact record
  have puc : (completeDelivery (v.setPunchGrant none) .punch g.index).puc = { v.puc with grant := none } :=
    completeDelivery_puc ..
  rw [punchSweep_ends n (punchStep_delivers grant op here going frame owed phase fed) (by rw [puc]), PunchLeft, puc]
  exact ⟨rfl, op, completeDelivery_left (v := v.setPunchGrant none) stm here⟩

/-- The section that is through delivers its record. -/
theorem settle_delivered (still : PrinterStill u) (grant : u.puc.grant = some g) (op : u.puc.op = none)
    (stm : u.stm = s.stm) (record : s.record g.index = some r) (going : r.stops.punch = false) (frame : g.frame = none)
    (owed : g.owed = none) (through : (g.phase = .trailer ∧ u.puc.cfg.trailer ≤ g.done) ∨
      (g.phase = .close ∧ g.closing = [] ∧ u.puc.cfg.trailer = 0)) :
    PunchLeft s (settle u) g.index (punchStopped { r with
      dests := { r.dests with out := { r.dests.out with punch := false } }, stamp := { r.stamp with punch := none } }) := by
  refine settle_left still fun p => ?_
  rcases through with ⟨phase, fed⟩ | ⟨phase, closed, none⟩
  · exact delivery_left { u with prc := p } grant op stm record going frame owed phase fed 8999
  · have here : ({ u with prc := p } : State).record g.index = some r := by rw [State.record, stm]; exact record
    rw [show sweepFuel = 8998 + 1 + 1 from rfl, punchSweep_succ _ (punchStep_closes (s := { u with prc := p }) grant op here going
      frame owed phase closed)]
    exact delivery_left (g := { g with phase := .trailer, done := 0, closing := [] })
      (({ u with prc := p } : State).setPunchGrant _) rfl op stm record going frame owed rfl (Nat.le_of_eq none) 8998

/-! ## The text's untranslatable characters (R62, R170) -/

/-- The cursor of the punch in a record. -/
def punchAt (r : Rec) (m : Nat) : Rec := { r with cursor := { r.cursor with punch := m } }

theorem punchStep_skips (grant : s.puc.grant = some g) (op : s.puc.op = none) (record : s.record g.index = some r)
    (going : r.stops.punch = false) (frame : g.frame = none) (owed : g.owed = none) (phase : g.phase = .text)
    (more : r.cursor.punch < r.length) (lost : translateChr s.ctr.table (readChar s r r.cursor.punch) = none) :
    punchStep s = some (advanceCursor { s with puc := { s.puc with untranslatable := bump s.puc.untranslatable } } .punch
      g.index) := by
  have asked : stopAsked s .punch g.index = false := (stopAsked_iff record).trans going
  have next : nextSection s g = none := by simp [nextSection, owed, phase, sectionChar, record, more, lost]
  simp only [punchStep, grant, op, asked, Bool.false_eq_true, if_false, frame, next, Option.isSome_none, Bool.or_self, phase,
    record, more, if_true]

/-- The section skips and counts what does not translate, up to the next character that does or the length of an OPEN record. -/
theorem punchSweep_skips (d n : Nat) (grant : s.puc.grant = some g) (op : s.puc.op = none)
    (record : s.record g.index = some r) (going : r.stops.punch = false) (frame : g.frame = none) (owed : g.owed = none)
    (phase : g.phase = .text) (within : r.cursor.punch + d ≤ r.length)
    (lost : ∀ k, r.cursor.punch ≤ k → k < r.cursor.punch + d → translateChr s.ctr.table (readChar s r k) = none)
    (waits : (r.cursor.punch + d < r.length ∧ translateChr s.ctr.table (readChar s r (r.cursor.punch + d)) ≠ none) ∨
      (r.cursor.punch + d = r.length ∧ r.state = .opened)) (fuel : d ≤ n) :
    (punchSweep n s).puc.grant = some g ∧ (punchSweep n s).puc.untranslatable = bump^[d] s.puc.untranslatable ∧
      (punchSweep n s).record g.index = some (punchAt r (r.cursor.punch + d)) := by
  induction d generalizing s r n with
  | zero =>
    have still : punchStep s = none := by
      refine punch_waits grant record going (.inr ?_)
      rcases waits with ⟨more, tr⟩ | ⟨whole, opened⟩
      · refine .inl ?_
        simp only [SectionNext, phase, record]
        simp only [Nat.add_zero] at more tr
        simp [more, Option.isSome_iff_ne_none, tr]
      · exact .inr ⟨phase, owed, opened, whole⟩
    rw [punchSweep_still n still]
    exact ⟨grant, rfl, record⟩
  | succ d ih =>
    obtain ⟨n, rfl⟩ : ∃ m, n = m + 1 := ⟨n - 1, by omega⟩
    let skipped : State := { s with puc := { s.puc with untranslatable := bump s.puc.untranslatable } }
    have only := advanceCursor_storeOnly skipped .punch g.index
    have here : (advanceCursor skipped .punch g.index).record g.index = some (punchAt r (r.cursor.punch + 1)) :=
      onRecord_same (s := skipped) record _
    have read (k : Nat) : readChar (advanceCursor skipped .punch g.index) (punchAt r (r.cursor.punch + 1)) k = readChar s r k := by
      unfold readChar
      rw [only.stm]
      rfl
    have index (k : Nat) : r.cursor.punch + 1 + k = r.cursor.punch + (k + 1) := by omega
    rw [punchSweep_succ n (punchStep_skips grant op record going frame owed phase (by omega)
      (lost _ (Nat.le_refl _) (by omega)))]
    have rest := ih (s := advanceCursor skipped .punch g.index) (r := punchAt r (r.cursor.punch + 1)) n
      (by rw [only.puc]; exact grant) (by rw [only.puc]; exact op) here going
      (by simp only [punchAt]; omega) (fun k low high => by
        rw [read, only.ctr]
        simp only [punchAt] at low high
        exact lost k (by omega) (by omega))
      (by
        rw [read, only.ctr]
        simp only [punchAt, index]
        exact waits) (by omega)
    rw [only.puc] at rest
    simpa [punchAt, index, skipped] using rest

theorem settle_skips (d : Nat) (still : PrinterStill s) (grant : s.puc.grant = some g) (op : s.puc.op = none)
    (record : s.record g.index = some r) (going : r.stops.punch = false) (frame : g.frame = none) (owed : g.owed = none)
    (phase : g.phase = .text) (within : r.cursor.punch + d ≤ r.length)
    (lost : ∀ k, r.cursor.punch ≤ k → k < r.cursor.punch + d → translateChr s.ctr.table (readChar s r k) = none)
    (waits : (r.cursor.punch + d < r.length ∧ translateChr s.ctr.table (readChar s r (r.cursor.punch + d)) ≠ none) ∨
      (r.cursor.punch + d = r.length ∧ r.state = .opened)) (fuel : d ≤ sweepFuel) :
    (settle s).puc.grant = some g ∧ (settle s).puc.untranslatable = bump^[d] s.puc.untranslatable ∧
      (settle s).record g.index = some (punchAt r (r.cursor.punch + d)) := by
  obtain ⟨p, main⟩ := settle_still still
  obtain ⟨puc, stm, -⟩ := main _ rfl
  have swept := punchSweep_skips (s := { s with prc := p }) d sweepFuel grant op record going frame owed phase within lost waits
    fuel
  rw [puc, State.record, stm]
  exact swept

end Sys2Proof.Machine
end


section
/-! SUPPORT. The completion of an operation under a grant, brought to the end of its step (R164, R170, R171, R172). -/

namespace Sys2Proof.Machine

open Sys2Proof

variable {s u v : State} {g x : PunchGrant} {f : PunchFrame} {r : Rec} {o : PunchOp} {n : Nat} {sensed : Comb}

theorem exec_urdy (op : s.puc.op = some (o, n)) (grant : s.puc.grant = some g)
    (e : sectionAfter (opDone s o) g sensed = u) : exec (.urdy sensed) s = .next (settle u) := by
  change Host.Outcome.next (urdy sensed s) = _
  rw [urdy_completes sensed op, completePunchOp_some sensed grant, e]

theorem urdy_settles (op : s.puc.op = some (o, n)) (grant : s.puc.grant = some g)
    (e : sectionAfter (opDone s o) g sensed = u) :
    ∃ t, exec (.urdy sensed) s = .next t ∧ Settled noLine u t ∧ SectionKept u t :=
  ⟨_, exec_urdy op grant e, punch_settles u⟩

theorem opDone_tape (s : State) (o : PunchOp) : (opDone s o).ctr.tape = s.ctr.tape := by rw [(opDone_parts s o).1]

theorem passes_opDone (s : State) (o : PunchOp) (sensed c : Comb) :
    Passes (opDone s o) sensed c ↔ s.puc.cfg.verify = false ∨ sensed = c := by
  rw [Passes, opDone_eq]

theorem punchState_ready (s : State) : punchState s = .ready ↔ s.puc.fault = false ∧ s.puc.op = none ∧
    s.puc.abandoned = none ∧ s.puc.hold = false ∧ s.puc.tapeHold = false ∧ s.mtc.punch.state = .running := by
  unfold punchState
  cases s.puc.fault <;> cases s.puc.op <;> cases s.puc.abandoned <;> cases s.puc.hold <;> cases s.puc.tapeHold <;> simp

/-! ## What a frame that is done makes of its record (R170, R171) -/

/-- A text character has moved the cursor, and the fifth erase frame has taken the spoiling away. -/
def frameLeft (g : PunchGrant) (f : PunchFrame) (r : Rec) : Rec :=
  { r with
    cursor := { r.cursor with punch := if f.kind = .char ∧ g.phase = .text then r.cursor.punch + 1 else r.cursor.punch }
    flags := { r.flags with punchSpoiled := r.flags.punchSpoiled && !(decide (f.kind = .erase ∧ g.done = 4)) } }

/-- `u` comes from `v` by what the section does with its grant, whose record it leaves as r. -/
structure SectionDone (v u : State) (g : PunchGrant) (r : Rec) : Prop where
  grant : ∃ x, u.puc.grant = some x ∧ x.index = g.index ∧ x.frame = none
  op : u.puc.op = v.puc.op
  prc : u.prc = v.prc
  stm : u.stm = { v.stm with recs := u.stm.recs }
  others : ∀ j, j ≠ g.index → u.record j = v.record j
  record : u.record g.index = some r

theorem sectionDone_grant {tape : ShiftRecord} (record : v.record g.index = some r) (index : x.index = g.index)
    (frame : x.frame = none) : SectionDone v (withGrant v (some x) tape) g r where
  grant := ⟨x, rfl, index, frame⟩
  op := rfl
  prc := rfl
  stm := rfl
  others := fun _ _ => rfl
  record := record

theorem sectionDone_record {tape : ShiftRecord} (record : v.record g.index = some r) (index : x.index = g.index)
    (frame : x.frame = none) (F : Rec → Rec) :
    SectionDone v ((withGrant v (some x) tape).onRecord g.index F) g (F r) where
  grant := ⟨x, by rw [(StoreOnly.onRecord ..).puc]; rfl, index, frame⟩
  op := by rw [(StoreOnly.onRecord ..).puc]; rfl
  prc := by rw [(StoreOnly.onRecord ..).prc]; rfl
  stm := onRecord_stm ..
  others := fun _ n => onRecord_ne (withGrant v (some x) tape) F n
  record := onRecord_same (s := withGrant v (some x) tape) record F

theorem frameDone_done (record : v.record g.index = some r) : SectionDone v (frameDone v g f) g (frameLeft g f r) := by
  cases kind : f.kind with
  | erase =>
    rw [frameDone_erase kind]
    split
    · next five =>
      have e : frameLeft g f r = { r with flags := { r.flags with punchSpoiled := false } } := by
        simp [frameLeft, kind, show g.done = 4 by omega]
      rw [e]
      exact sectionDone_record record (by rfl) rfl _
    · next not =>
      have e : frameLeft g f r = r := by simp [frameLeft, kind, show g.done ≠ 4 by omega]
      rw [e]
      exact sectionDone_grant record rfl rfl
  | openShift =>
    rw [frameDone_openShift kind, show frameLeft g f r = r by simp [frameLeft, kind]]
    exact sectionDone_grant record rfl rfl
  | shift =>
    rw [frameDone_shift kind, show frameLeft g f r = r by simp [frameLeft, kind]]
    exact sectionDone_grant record rfl rfl
  | char =>
    rw [frameDone_char kind]
    by_cases text : g.phase = .text
    · have e : frameLeft g f r = { r with cursor := { r.cursor with punch := r.cursor.punch + 1 } } := by
        simp [frameLeft, kind, text]
      rw [text, e]
      exact sectionDone_record record (by rfl) rfl _
    · rw [show frameLeft g f r = r by simp [frameLeft, kind, text]]
      cases phase : g.phase with
      | text => exact absurd phase text
      | close | erase | leader | openShift | trailer => exact sectionDone_grant record rfl rfl

/-! ## The end of the step under a stop request (R63, R171) -/

/-- With its section's frame done, or between FEEDs, a stopped punch leaves its record. -/
theorem SectionDone.stopped (a : SectionDone (opDone s o) u g r) (still : PrinterStill s) (asked : r.stops.punch = true) :
    PunchLeft s (settle u) g.index (punchStopped r) := by
  obtain ⟨x, grant, index, frame⟩ := a.grant
  obtain ⟨-, stm, prc, -, op, -⟩ := opDone_parts s o
  have mid : midRepair u x = false := by simp [midRepair, frame]
  rw [← index]
  refine settle_stopped ?_ grant (a.op.trans op) (index ▸ a.record) asked mid ?_ ?_
  · rw [PrinterStill, a.prc, prc]
    exact still
  · rw [a.stm, stm]
  · intro j n
    rw [a.others j (index ▸ n), State.record, stm]
    rfl

/-- A stopped punch with a repair under way goes on in READY, and leaves its record else (log entry 20). -/
theorem settle_repairing (still : PrinterStill s) (grant : u.puc.grant = some x) (index : x.index = g.index)
    (frame : x.frame ≠ none) (op : u.puc.op = none) (prc : u.prc = s.prc) (stm : u.stm = s.stm)
    (record : s.record g.index = some r) (asked : r.stops.punch = true) :
    (punchState u = .ready → (settle u).puc.grant = some x) ∧
      (¬ punchState u = .ready → PunchLeft s (settle u) g.index (punchStopped r)) := by
  have still' : PrinterStill u := by rw [PrinterStill, prc]; exact still
  have here : u.record x.index = some r := by rw [index, State.record, stm]; exact record
  have mid : midRepair u x = decide (punchState u = .ready) := by simp [midRepair, Option.isSome_iff_ne_none.mpr frame]
  constructor
  · intro ready
    rw [settle_midRepair still' grant op here asked (by simpa [mid] using ready)]
    exact grant
  · intro not
    rw [← index]
    exact settle_stopped still' grant op here asked (by simpa [mid] using not) (by rw [stm])
      fun j _ => by rw [State.record, stm]; rfl

end Sys2Proof.Machine
end


section
/-! SUPPORT. The rows of the operation in flight, where they are due and where they are not (R164, R165, R175). -/

namespace Sys2Proof.Machine

open Sys2Proof

variable {s : State} {o : PunchOp} {n : Nat} {sensed : Comb}

theorem opDone_prc (s : State) (o : PunchOp) : (opDone s o).prc = s.prc := by rw [opDone_eq]
theorem opDone_record (s : State) (o : PunchOp) (i : Nat) : (opDone s o).record i = s.record i := by rw [opDone_eq]; rfl

section Frame
variable {g : PunchGrant} {f : PunchFrame} {r : Rec} (record : s.record g.index = some r)
include record

theorem frameDone_text_record (kind : f.kind = .char) (phase : g.phase = .text) : frameDone s g f =
    (withGrant s (some { g with frame := none, owed := none }) (tapeAfter s f)).setRecord g.index
      (some { r with cursor := { r.cursor with punch := r.cursor.punch + 1 } }) :=
  (frameDone_text kind phase).trans
    (State.onRecord_eq (s := withGrant s (some { g with frame := none, owed := none }) (tapeAfter s f)) record _)

theorem frameDone_erase_last (kind : f.kind = .erase) (last : g.done = 4) : frameDone s g f =
    (withGrant s (some { g with frame := none, done := 5 }) (tapeAfter s f)).setRecord g.index
      (some { r with flags := { r.flags with punchSpoiled := false } }) := by
  rw [frameDone_erase kind, if_pos (by omega), last]
  exact State.onRecord_eq (s := withGrant s (some { g with frame := none, done := 5 }) (tapeAfter s f)) record _

end Frame

theorem frameDone_erase_more {g : PunchGrant} {f : PunchFrame} (kind : f.kind = .erase) (more : g.done ≠ 4) :
    frameDone s g f = withGrant s (some { g with frame := none, done := g.done + 1 }) (tapeAfter s f) := by
  rw [frameDone_erase kind, if_neg (by omega)]

theorem takePunchGrant_eq {i : Nat} {r : Rec} (record : s.record i = some r) : takePunchGrant s i r =
    ({ s with
      ctr := { s.ctr with tape := .unknown }
      puc := { s.puc with lastServed := r.origin
                          grant := some ⟨i, if r.flags.punchSpoiled then .erase else .leader, 0, [], none, none⟩ } }
      |>.setRecord i (some { r with grants := { r.grants with punch := true } })) := by
  simp only [takePunchGrant, startGrant, State.onRecord, record]
  rfl

theorem nextSection_owed {g : PunchGrant} {b : Comb} (owed : g.owed = some b) :
    nextSection s g = some (.punch b, some ⟨.char, b, 0, []⟩) := by
  simp only [nextSection, owed]

theorem punchOperationTimeout_idle (op : s.puc.op = none) : punchOperationTimeout s = s := by
  simp only [punchOperationTimeout, op]

theorem punchOperationTimeout_running (op : s.puc.op = some (o, n)) (going : n ≠ 0) : punchOperationTimeout s = s := by
  cases n with
  | zero => exact absurd rfl going
  | succ n => simp only [punchOperationTimeout, op]

theorem punchOperationTimeout_due (op : s.puc.op = some (o, 0)) :
    punchOperationTimeout s = settle (punchFault s (.timeout o.kind)) := by
  simp only [punchOperationTimeout, op]

theorem urdy_idle (op : s.puc.op = none) (free : s.puc.abandoned = none) : urdy sensed s = s := by
  simp [urdy, op, free]

theorem urdy_abandoned (op : s.puc.op = none) (left : s.puc.abandoned ≠ none) :
    urdy sensed s = settle { s with puc := { s.puc with abandoned := none } } := by
  simp [urdy, op, left, State.onPuc]

/-! ## The end of the grant at a completion (R62, R63, R170, R171) -/

section Grant
variable {g : PunchGrant} {r : Rec} (op : s.puc.op = some (o, n)) (grant : s.puc.grant = some g)
  (record : s.record g.index = some r) (still : PrinterStill s)
include op grant record still

/-- The last FEED of the trailer, or with no trailer the last closing frame, delivers the record. -/
theorem urdy_delivers (going : r.stops.punch = false)
    (last : (g.frame = none ∧ g.owed = none ∧ g.phase = .trailer ∧ s.puc.cfg.trailer ≤ g.done + 1) ∨
      ∃ f c, g.frame = some f ∧ Own f ∧ Passes (opDone s o) sensed f.comb ∧ f.kind = .char ∧ g.phase = .close ∧
        g.closing = [c] ∧ s.puc.cfg.trailer = 0) :
    ∃ t, exec (.urdy sensed) s = .next t ∧ PunchLeft s t g.index (punchStopped { r with
      dests := { r.dests with out := { r.dests.out with punch := false } }, stamp := { r.stamp with punch := none } }) := by
  obtain ⟨-, stm, prc, -, done, cfg, -⟩ := opDone_parts s o
  have quiet (x : Option PunchGrant) (tape : ShiftRecord) : PrinterStill (withGrant (opDone s o) x tape) := by
    rw [PrinterStill, show (withGrant (opDone s o) x tape).prc = s.prc from prc]
    exact still
  have through (k : Nat) (h : s.puc.cfg.trailer ≤ k) : (opDone s o).puc.cfg.trailer ≤ k := by rw [cfg]; exact h
  rcases last with ⟨frame, owed, phase, fed⟩ | ⟨f, c, frame, own, ok, kind, phase, closing, none⟩
  · refine ⟨_, exec_urdy op grant (sectionAfter_feed sensed frame), ?_⟩
    exact settle_delivered (g := { g with done := g.done + 1 }) (quiet ..) rfl done stm record going frame owed
      (.inl ⟨phase, through _ fed⟩)
  · have e : sectionAfter (opDone s o) g sensed = withGrant (opDone s o)
        (some { g with frame := .none, owed := .none, closing := g.closing.tail }) (tapeAfter (opDone s o) f) := by
      rw [sectionAfter_passes frame own ok, frameDone_close kind phase]
    refine ⟨_, exec_urdy op grant e, ?_⟩
    exact settle_delivered (g := { g with frame := .none, owed := .none, closing := g.closing.tail }) (quiet ..) rfl done stm
      record going rfl rfl (.inr ⟨phase, by rw [closing]; rfl, Nat.le_zero.mp (through 0 (Nat.le_of_eq none))⟩)

/-- Under a stop request the grant ends with the frame in hand, or at once between FEEDs. -/
theorem urdy_stops (asked : r.stops.punch = true)
    (ends : g.frame = none ∨ ∃ f, g.frame = some f ∧ Own f ∧ Passes (opDone s o) sensed f.comb) :
    ∃ t, exec (.urdy sensed) s = .next t ∧ PunchLeft s t g.index (punchStopped { r with
      cursor := { r.cursor with punch := if g.frame.map (·.kind) = some .char ∧ g.phase = .text
        then r.cursor.punch + 1 else r.cursor.punch }
      flags := { r.flags with punchSpoiled := r.flags.punchSpoiled &&
        !(decide (g.frame.map (·.kind) = some .erase ∧ g.done = 4)) } }) := by
  have here : (opDone s o).record g.index = some r := by rw [opDone_eq]; exact record
  rcases ends with frame | ⟨f, frame, own, ok⟩
  · refine ⟨_, exec_urdy op grant (sectionAfter_feed sensed frame), ?_⟩
    have e : SectionDone (opDone s o) (withGrant (opDone s o) (some { g with done := g.done + 1 }) (opDone s o).ctr.tape) g r :=
      sectionDone_grant here rfl frame
    simpa [frame] using e.stopped still asked
  · refine ⟨_, exec_urdy op grant (sectionAfter_passes frame own ok), ?_⟩
    have e : SectionDone (opDone s o) (frameDone (opDone s o) g f) g (frameLeft g f r) := frameDone_done here
    simpa [frame, frameLeft] using e.stopped still asked

/-- A repair that a stop request finds goes on in READY, and ends with the grant else (log entry 20). -/
theorem urdy_repairs {f : PunchFrame} (asked : r.stops.punch = true) (frame : g.frame = some f)
    (steps : (∃ more, f.steps = .back :: more) ∨
      (∃ k c more, Restores k c ∧ f.steps = k :: more ∧ Passes (opDone s o) sensed c) ∨
      (Own f ∧ ¬ Passes (opDone s o) sensed f.comb ∧ f.kind ≠ .erase ∧ f.retry < s.puc.cfg.retryLimit)) :
    ∃ t, exec (.urdy sensed) s = .next t ∧
      (punchState (opDone s o) = .ready →
        ∃ h, t.puc.grant = some h ∧ h.frame ≠ none ∧ h.phase = g.phase ∧ h.index = g.index) ∧
      (¬ punchState (opDone s o) = .ready → PunchLeft s t g.index (punchStopped r)) := by
  obtain ⟨-, stm, prc, -, op', cfg, -⟩ := opDone_parts s o
  obtain ⟨v, y, e, held, state, idle, printer, store⟩ :
      ∃ v y, sectionAfter (opDone s o) g sensed = v ∧ v.puc.grant = some { g with frame := some y } ∧
        punchState v = punchState (opDone s o) ∧ v.puc.op = (opDone s o).puc.op ∧ v.prc = (opDone s o).prc ∧
        v.stm = (opDone s o).stm := by
    rcases steps with ⟨more, steps⟩ | ⟨k, c, more, kind, steps, ok⟩ | ⟨own, bad, kind, left⟩
    · exact ⟨_, _, sectionAfter_back sensed frame steps, rfl, rfl, rfl, rfl, rfl⟩
    · exact ⟨_, _, sectionAfter_restored frame kind steps ok, rfl, rfl, rfl, rfl, rfl⟩
    · exact ⟨_, _, (sectionAfter_mismatch frame own bad).trans (mismatch_retries kind (by rw [cfg]; exact left)),
        rfl, rfl, rfl, rfl, rfl⟩
  have repairing : some y ≠ none := Option.some_ne_none y
  obtain ⟨ready, not⟩ := settle_repairing (g := g) still held rfl repairing (idle.trans op') (printer.trans prc)
    (store.trans stm) record asked
  refine ⟨_, exec_urdy op grant e, fun h => ⟨_, ready (state.trans h), repairing, rfl, rfl⟩, fun h => not ?_⟩
  rw [state]
  exact h

/-- A text character that is done takes the untranslatable ones after it along (R62). -/
theorem urdy_skips {f : PunchFrame} {m : Nat} (going : r.stops.punch = false) (frame : g.frame = some f) (own : Own f)
    (ok : Passes (opDone s o) sensed f.comb) (kind : f.kind = .char) (phase : g.phase = .text)
    (low : r.cursor.punch + 1 ≤ m) (high : m ≤ r.length) (bound : r.length ≤ 8192)
    (lost : ∀ k, r.cursor.punch + 1 ≤ k → k < m → translateChr s.ctr.table (readChar s r k) = none)
    (waits : (m < r.length ∧ translateChr s.ctr.table (readChar s r m) ≠ none) ∨ (m = r.length ∧ r.state = .opened)) :
    ∃ t, exec (.urdy sensed) s = .next t ∧ t.puc.grant = some { g with frame := none, owed := none } ∧
      t.puc.untranslatable = bump^[m - (r.cursor.punch + 1)] s.puc.untranslatable ∧
      t.record g.index = some { r with cursor := { r.cursor with punch := m } } := by
  obtain ⟨ctr, stm, prc, -, done, -, count, -⟩ := opDone_parts s o
  let v := withGrant (opDone s o) (some { g with frame := none, owed := none }) (tapeAfter (opDone s o) f)
  have only := advanceCursor_storeOnly v .punch g.index
  have here : (advanceCursor v .punch g.index).record g.index = some (punchAt r (r.cursor.punch + 1)) :=
    onRecord_same (s := v) (by rw [State.record, show v.stm = s.stm from stm]; exact record) _
  have quiet : PrinterStill (advanceCursor v .punch g.index) := by
    rw [PrinterStill, only.prc, show v.prc = s.prc from prc]
    exact still
  have read (k : Nat) : readChar (advanceCursor v .punch g.index) (punchAt r (r.cursor.punch + 1)) k = readChar s r k := by
    rw [readChar, only.stm, show v.stm = s.stm from stm]
    rfl
  have table : (advanceCursor v .punch g.index).ctr.table = s.ctr.table := by
    rw [only.ctr]
    exact congrArg (·.table) ctr
  have up : r.cursor.punch + 1 + (m - (r.cursor.punch + 1)) = m := by omega
  have swept := settle_skips (g := { g with frame := none, owed := none }) (m - (r.cursor.punch + 1)) quiet
    (by rw [only.puc]; rfl) (by rw [only.puc]; exact done) here going rfl rfl phase
  simp only [read, table] at swept
  simp only [punchAt, up] at swept
  obtain ⟨held, counted, moved⟩ := swept high lost waits (by unfold sweepFuel; omega)
  refine ⟨_, exec_urdy op grant ((sectionAfter_passes frame own ok).trans (frameDone_text kind phase)), held, ?_, moved⟩
  rw [counted, only.puc]
  exact congrArg _ count

end Grant

end Sys2Proof.Machine
end

section
/-! PROOF. O56: how the punch punches its queue. -/

open Sys2Proof Sys2Proof.Machine

/-- Settles O56: the choice, the operations issued, and each completion by what it makes of the section, which then settles. -/
theorem punchPunchesItsQueue : Obligations.PunchPunchesItsQueue := by
  unfold Obligations.PunchPunchesItsQueue
  intro settles
  refine ⟨fun s => ⟨fun h => congrArg _ (punchGrant_not h), fun i r grant fault running chosen => ?_⟩, fun s => ?_,
    fun sensed s => ?_⟩
  · refine ⟨_, congrArg Host.Outcome.next (punchGrant_takes grant fault running chosen), ?_⟩
    rw [takePunchGrant_eq chosen.1.1]
    exact punch_settles _
  · intro x issues
    refine ⟨fun h => congrArg _ (punchOperationIssue_not h), fun g grant h => congrArg _ (punchOperationIssue_nothing grant h),
      fun g ready grant => ⟨fun f k more frame steps => ?_, fun frame => ?_⟩⟩
    all_goals
      have done {o : PunchOp} {f : Option PunchFrame} {tape : ShiftRecord}
          (e : punchOperationIssue s = settle (issued s g o f tape)) : issues g o f tape :=
        ⟨_, _, congrArg Host.Outcome.next e, punch_settles _, issued_eq .., by rintro c rfl; rfl⟩
    · have := done (punchOperationIssue_repair ready grant frame steps)
      cases k <;> exact this
    · have next {o : PunchOp} {f : Option PunchFrame} (e : nextSection s g = some (o, f)) :
          issues g o f (tapeBegun s.ctr.tape f) := done (punchOperationIssue_section ready grant frame e)
      refine ⟨fun b owed => next (nextSection_owed owed), fun owed => ⟨fun phase more =>
        next (nextSection_erase owed phase more), fun phase more => next (nextSection_leader owed phase more), fun phase first =>
        next (nextSection_openShift owed phase first), fun phase more => next (nextSection_trailer owed phase more), ?_⟩⟩
      intro c y source tr
      obtain ⟨phase, char⟩ := sectionChar_of source
      refine ⟨fun held => next (nextSection_char owed phase char tr held), fun sh need lost => ?_⟩
      have := next (nextSection_shift owed phase char tr need lost)
      cases sh <;> exact this
  · intro x
    refine ⟨fun op => ⟨congrArg Host.Outcome.next (punchOperationTimeout_idle op), fun free =>
      congrArg Host.Outcome.next (urdy_idle op free), fun left => ⟨_, congrArg Host.Outcome.next (urdy_abandoned op left),
        settle_settled _⟩⟩, fun o n op => ?_⟩
    intro counts lastOne p done urdyTo faulted passes
    have counted (y : Option PunchGrant) (tape : ShiftRecord) : withGrant (opDone s o) y tape = done y tape := by
      rw [opDone_eq]
      rfl
    have held := opDone_tape s o
    have cfg : (opDone s o).puc.cfg = s.puc.cfg := by rw [opDone_eq]
    have own {c : Comb} : passes c ↔ Passes (opDone s o) sensed c := (passes_opDone ..).symm
    refine ⟨fun going => ?_, fun g due grant => ?_, fun due grant => ?_, fun grant => ?_, fun g grant => ?_⟩
    · exact congrArg Host.Outcome.next (punchOperationTimeout_running op going)
    · exact ⟨_, congrArg Host.Outcome.next (punchOperationTimeout_due (due ▸ op)), punchFault_faulted _ grant⟩
    · refine ⟨_, congrArg Host.Outcome.next (punchOperationTimeout_due (due ▸ op)), ?_⟩
      rw [punchFault_none grant]
      exact settle_settled _
    · refine ⟨_, congrArg Host.Outcome.next (urdy_completes sensed op), ?_⟩
      rw [completePunchOp_none sensed grant, ← counted]
      have same : opDone s o = withGrant (opDone s o) none s.ctr.tape := by
        rw [opDone_eq, withGrant, State.setPunchGrant, ← grant]
        rfl
      rw [← same]
      exact punch_settles _
    · have reach {u : State} (e : sectionAfter (opDone s o) g sensed = u) : urdyTo u := urdy_settles op grant e
      have grant' : (opDone s o).puc.grant = some g := by rw [opDone_eq]; exact grant
      have faults {c : PunchCause} (e : sectionAfter (opDone s o) g sensed = punchFault (opDone s o) c) :
          ∃ t, exec (.urdy sensed) s = .next t ∧ faulted c g t := by
        have all := punchFault_faulted c grant'
        rw [opDone_prc] at all
        simp only [opDone_record] at all
        exact ⟨_, exec_urdy op grant e, all⟩
      have tape (f : PunchFrame) (sh : ShiftRecord) (kind : repairedShift f.kind = sh) :
          tapeAfter (opDone s o) f = if f.retry = 0 then s.ctr.tape else sh := by
        rw [tapeAfter, held, kind]
      refine ⟨fun frame => ?_, fun f frame => ⟨fun more steps => ?_, fun k c more kind steps => ⟨fun ok => ?_, fun bad => ?_⟩,
        fun mine => ?_⟩⟩
      · rw [← counted, ← held]
        exact reach (sectionAfter_feed sensed frame)
      · rw [← counted, ← held]
        exact reach (sectionAfter_back sensed frame steps)
      · rw [← counted, ← held]
        exact reach (sectionAfter_restored frame kind steps (own.mp ok))
      · exact faults (sectionAfter_unrestored frame kind steps (mt own.mpr bad))
      · have passed {u : State} (ok : passes f.comb) (e : frameDone (opDone s o) g f = u) : urdyTo u :=
          reach ((sectionAfter_passes frame mine (own.mp ok)).trans e)
        refine ⟨fun ok => ⟨?_, ?_, ?_, ?_, ?_, ?_⟩, fun bad => ⟨?_, ?_, ?_⟩, fun r record still => ?_⟩
        · intro r kind phase record _
          rw [← counted, ← tape f .unknown (by rw [kind]; rfl)]
          exact passed ok (frameDone_text_record ((opDone_record ..).trans record) kind phase)
        · intro kind phase
          rw [← counted, ← tape f .unknown (by rw [kind]; rfl)]
          exact passed ok (frameDone_close kind phase)
        · intro kind more
          rw [← counted, ← tape f .unknown (by rw [kind]; rfl)]
          exact passed ok (frameDone_erase_more kind more)
        · intro r kind five record
          rw [← counted, ← tape f .unknown (by rw [kind]; rfl)]
          exact passed ok (frameDone_erase_last ((opDone_record ..).trans record) kind five)
        · intro sh b kind
          rw [← counted, ← tape f (.held sh) (by rw [kind]; rfl)]
          exact passed ok (frameDone_shift kind)
        · intro kind
          rw [← counted, ← tape f (.held .letters) (by rw [kind]; rfl)]
          exact passed ok (frameDone_openShift kind)
        · exact fun kind => faults ((sectionAfter_mismatch frame mine (mt own.mpr bad)).trans (mismatch_erase kind))
        · exact fun kind spent => faults ((sectionAfter_mismatch frame mine (mt own.mpr bad)).trans
            (mismatch_limit kind (by rw [cfg]; exact spent)))
        · intro kind left u
          have e := (sectionAfter_mismatch frame mine (mt own.mpr bad)).trans (mismatch_retries kind (by rw [cfg]; exact left))
          rw [held, counted] at e
          have again := reach e
          rw [State.onPuc] at again
          rw [show x.repairs = u.puc.repairs from rfl]
          exact again
        · intro left own' ready stopped
          have state : punchState (opDone s o) = .ready ↔ ready := by
            rw [punchState_ready, opDone_eq]
            exact ⟨fun ⟨fault, _, free, hold, tape, motor⟩ => ⟨fault, free, hold, tape, motor⟩,
              fun ⟨fault, free, hold, tape, motor⟩ => ⟨fault, rfl, free, hold, tape, motor⟩⟩
          refine ⟨fun going last => ?_, fun f' m going frame' mine' ok => ?_, fun asked ends => ?_, fun f' asked frame' cases => ?_⟩
          · exact urdy_delivers op grant record still going
              (last.imp_right fun ⟨f', c, frame', mine', ok, rest⟩ => ⟨f', c, frame', mine', own.mp ok, rest⟩)
          · exact urdy_skips op grant record still going frame' mine' (own.mp ok)
          · exact urdy_stops op grant record still asked
              (ends.imp_right fun ⟨f', frame', mine', ok⟩ => ⟨f', frame', mine', own.mp ok⟩)
          · obtain ⟨t, run, on, off⟩ := urdy_repairs op grant record still asked frame' (cases.imp_right (Or.imp
              (fun ⟨k, c, more, kind, steps, ok⟩ => ⟨k, c, more, kind, steps, own.mp ok⟩)
              fun ⟨mine', bad, rest⟩ => ⟨mine', mt own.mpr bad, rest⟩))
            exact ⟨t, run, fun h => on (state.mpr h), fun h => off (mt state.mp h)⟩
end

section
/-! SUPPORT. The port on a command transfer: what is taken, discarded and held (R29, R31, R183, R185, R186). -/

namespace Sys2Proof.Machine

open Sys2Proof

variable {s : State}

/-! ## Requesting a wake (R29) -/

theorem requestWake_standby (h : s.tbu.state = .standby) (c : WakeCause) : s.requestWake c =
    { s with tbu := { s.tbu with state := .waking, wakeCause := c, wakeTimer := some 2 } } := if_pos h

theorem requestWake_awake (h : s.tbu.state ≠ .standby) (c : WakeCause) : s.requestWake c = s := if_neg h

/-- A wake request changes the timebase only. -/
theorem requestWake_eq (s : State) (c : WakeCause) : s.requestWake c = { s with tbu := (s.requestWake c).tbu } := by
  by_cases h : s.tbu.state = .standby
  · rw [requestWake_standby h]
  · rw [requestWake_awake h]

/-- What a wake request by the console makes of the timebase. -/
theorem requestWake_console (s : State) : (s.tbu.state ≠ .standby → (s.requestWake .console).tbu = s.tbu) ∧
    (s.tbu.state = .standby → (s.requestWake .console).tbu =
      { s.tbu with state := .waking, wakeCause := .console, wakeTimer := some 2 }) :=
  ⟨fun h => by rw [requestWake_awake h], fun h => by rw [requestWake_standby h]⟩

/-- The part runs after a wake request exactly when it ran before. -/
theorem requestWake_running (s : State) (c : WakeCause) : (s.requestWake c).running = s.running := by
  by_cases h : s.tbu.state = .standby
  · rw [requestWake_standby h, State.running, State.running, h]; rfl
  · rw [requestWake_awake h]

/-! ## A command transfer in each state of the port (R183, R185, R186) -/

/-- The state after a command transfer of n bytes has woken the part and left the port at `port`. -/
def transferred (s : State) (n : Nat) (port : Port) : State :=
  { s with tbu := (s.requestWake .console).tbu, cpe := { s.cpe with port := port, miso := List.replicate n 0 } }

/-- The state after a command transfer of n bytes has been discarded. -/
def overrun (s : State) (n : Nat) : State :=
  { s with tbu := (s.requestWake .console).tbu
           cpe := { s.cpe with latches := s.cpe.latches ||| BitVec.twoPow 17 16, miso := List.replicate n 0 } }

theorem zeros_requestWake (s : State) (n : Nat) : (s.zeros n).requestWake .console =
    { s with tbu := (s.requestWake .console).tbu, cpe := { s.cpe with miso := List.replicate n 0 } } := by
  by_cases h : s.tbu.state = .standby
  · rw [requestWake_standby h, requestWake_standby (by exact h)]; rfl
  · rw [requestWake_awake h, requestWake_awake (by exact h)]; rfl

/-- Waking the part leaves the port as it is. -/
theorem zeros_requestWake_port (s : State) (n : Nat) :
    ((s.zeros n).requestWake .console).cpe.port = s.cpe.port := by rw [zeros_requestWake]

theorem zeros_requestWake_latch (s : State) (n : Nat) :
    ((s.zeros n).requestWake .console).latch .commandOverrun = overrun s n := by rw [zeros_requestWake]; rfl

theorem takeBad_empty (h : s.cpe.port = .empty) (n : Nat) :
    takeBad (s.zeros n) = transferred s n (.response .badCommand []) := by
  have free := (zeros_requestWake_port s n).trans h
  unfold takeBad
  simp only [free]
  rw [zeros_requestWake]
  rfl

theorem takeGood_held (c : Command) (p : List Byte) (body : State → Reply) (h : s.cpe.port = .empty)
    (still : s.running = false) (n : Nat) : takeGood c p body (s.zeros n) = transferred s n (.executing c p) := by
  have stays : ((s.zeros n).requestWake .console).running = false := (requestWake_running ..).trans still
  have free := (zeros_requestWake_port s n).trans h
  unfold takeGood
  simp only [free, stays]
  rw [zeros_requestWake]
  rfl

theorem takeBad_overrun (h : s.cpe.port ≠ .empty) (n : Nat) : takeBad (s.zeros n) = overrun s n := by
  unfold takeBad
  dsimp only
  split
  · next free => exact absurd ((zeros_requestWake_port s n).symm.trans free) h
  all_goals exact zeros_requestWake_latch s n

theorem takeGood_overrun (c : Command) (p : List Byte) (body : State → Reply) (h : s.cpe.port ≠ .empty) (n : Nat) :
    takeGood c p body (s.zeros n) = overrun s n := by
  unfold takeGood
  dsimp only
  split
  · next free => exact absurd ((zeros_requestWake_port s n).symm.trans free) h
  all_goals exact zeros_requestWake_latch s n

/-- Good or bad, a command's row on a port that is not EMPTY is discarded. -/
theorem consoleRow_overrun (c : Command) (body : List Byte → State → Reply) (p : List Byte)
    (up : s.cpe.resetLow = false) (h : s.cpe.port ≠ .empty) : consoleRow c body p s = overrun s (3 + p.length) := by
  rw [consoleRow, if_neg (by simp [up])]
  dsimp only
  split
  · exact takeGood_overrun c p _ h _
  · exact takeBad_overrun h _

/-- A command that answers OK makes that response ready (R183, R185). -/
theorem consoleRow_ok {c : Command} {body : List Byte → State → Reply} {p q : List Byte} {t : State} (h : Ready s)
    (n : p.length ≤ 248) (e : body p (s.zeros (3 + p.length)) = .ok t q) :
    consoleRow c body p s = t.onCpe fun x => { x with port := .response .ok q } := by
  rw [consoleRow_ready c body p s h n, e]
  rfl

/-! ## Complete good commands (R183, R185) -/

/-- The table holds each command under its code (R185). -/
theorem code_of_ofCode {b : Byte} {c : Command} (h : Command.ofCode b = some c) : b = c.code := by
  have table : ∀ e ∈ commandTable, e.1 = e.2.code.toNat := by decide
  obtain ⟨e, found, rfl⟩ := Option.map_eq_some_iff.mp h
  refine BitVec.eq_of_toNat_eq ?_
  have same := List.find?_some found
  rw [← table e (List.mem_of_find?_eq_some found)]
  exact (beq_iff_eq.mp same).symm

/-- A transfer that is a complete good command is its code, its length and its payload. -/
theorem goodCommand_bytes {a : Byte} {mosi : List Byte} {c : Command} {p : List Byte}
    (h : goodCommand (a :: mosi) = some (c, p)) :
    p.length ≤ 248 ∧ ∃ extra, a :: mosi = [a, c.code, BitVec.ofNat 8 p.length] ++ p ++ extra := by
  match mosi, h with
  | code :: n :: rest, h =>
    simp only [goodCommand] at h
    split at h
    case isTrue fits =>
      obtain ⟨short, whole⟩ := fits
      obtain ⟨c', found, e⟩ := Option.map_eq_some_iff.mp h
      obtain ⟨rfl, rfl⟩ := Prod.mk.inj e
      have len : (rest.take n.toNat).length = n.toNat := List.length_take_of_le whole
      refine ⟨len.trans_le short, rest.drop n.toNat, ?_⟩
      rw [len, code_of_ofCode found]
      simp
    case isFalse => cases h

theorem commandTransfer_command (rest : List Byte) (h : s.cpe.resetLow = false) :
    commandTransfer (0xA1 :: rest) s = match goodCommand (0xA1 :: rest) with
      | some (c, p) => takeGood c p (runCmd c p) (s.zeros (rest.length + 1))
      | none => takeBad (s.zeros (rest.length + 1)) := by
  unfold commandTransfer
  simp only [h, Bool.false_eq_true, if_false, if_true]
  rfl

end Sys2Proof.Machine
end

section
/-! PROOF. The obligations on command transfers that are bad, that come too soon, and that are held. -/

open Sys2Proof Sys2Proof.Machine

/-- Settles O6: a transfer that is not a command's bytes is no good command, and the EMPTY port answers it. -/
theorem badTransferAnswersBadCommand : Obligations.BadTransferAnswersBadCommand := by
  intro mosi s up empty first bad
  obtain ⟨rest, rfl⟩ := List.head?_eq_some_iff.mp first
  have unread : goodCommand (0xA1 :: rest) = none := by
    rw [Option.eq_none_iff_forall_ne_some]
    rintro ⟨c, p⟩ good
    obtain ⟨short, extra, bytes⟩ := goodCommand_bytes good
    exact bad c p extra short bytes
  refine ⟨transferred s (rest.length + 1) (.response .badCommand []), ?_, rfl, requestWake_console s⟩
  have taken := commandTransfer_command rest up
  rw [unread] at taken
  exact congrArg Host.Outcome.next (taken.trans (takeBad_empty empty _))

/-- Settles O7: good or bad, a transfer on a port that is not EMPTY is discarded. -/
theorem overrunDiscardsTheTransfer : Obligations.OverrunDiscardsTheTransfer := by
  intro i s up busy which
  have discarded (n : Nat) (run : exec i s = .next (overrun s n)) : ∃ t, exec i s = .next t ∧
      t = { s with tbu := t.tbu, cpe := { s.cpe with latches := t.cpe.latches, miso := t.cpe.miso } } ∧
      t.cpe.latches = s.cpe.latches ||| BitVec.twoPow 17 16 ∧ (s.tbu.state ≠ .standby → t.tbu = s.tbu) ∧
      (s.tbu.state = .standby →
        t.tbu = { s.tbu with state := .waking, wakeCause := .console, wakeTimer := some 2 }) :=
    ⟨_, run, rfl, rfl, requestWake_console s⟩
  obtain ⟨rest, rfl⟩ | ⟨c, p, rfl⟩ := which
  · refine discarded (rest.length + 1) (congrArg Host.Outcome.next ?_)
    rw [commandTransfer_command rest up]
    split
    · exact takeGood_overrun _ _ _ busy _
    · exact takeBad_overrun busy _
  · refine discarded (3 + p.length) ((c.exec_row p s).trans (congrArg Host.Outcome.next ?_))
    exact consoleRow_overrun c _ p up busy

/-- Settles O9: the held command and its payload are the port's, until the part runs. -/
theorem commandIsHeldUntilThePartRuns : Obligations.CommandIsHeldUntilThePartRuns := by
  refine ⟨fun c p s up empty still short => ?_, fun s waits => ?_, fun c p s runs held => ?_⟩
  · refine ⟨transferred s (3 + p.length) (.executing c p), ?_, rfl, rfl, fun h => ?_, (requestWake_console s).2⟩
    · rw [c.exec_row, consoleRow, if_neg (by simp [up]), if_pos (by exact short), takeGood_held c p _ empty still]
    · exact (requestWake_console s).1 (by rw [h]; decide)
  · refine congrArg Host.Outcome.next ?_
    unfold heldCommandExecute
    cases port : s.cpe.port with
    | empty | response _ _ => rfl
    | executing c p =>
      obtain still | unread := waits
      · simp only [still]; rfl
      · exact absurd port (unread c p)
  · refine ⟨(runCmd c p s).ready, congrArg Host.Outcome.next ?_, rfl⟩
    simp only [heldCommandExecute, held, runs, if_true]

end

section
/-! SUPPORT. The timebase: the increment of a rate, what its recomputation leaves, and its commands and rows (R17 to R25). -/

namespace Sys2Proof.Machine

open Sys2Proof

variable {s : State}

/-! ## The increment (R22) -/

/-- A rounded quotient is within a half of the exact one, rounded half up (introduction, section 6.5). -/
theorem roundDiv_nearest (a : Nat) {b : Nat} (h : 0 < b) :
    2 * (b * roundDiv a b) ≤ 2 * a + b ∧ 2 * a < 2 * (b * roundDiv a b) + b := by
  have low := Nat.mul_div_le (2 * a + b) (2 * b)
  have high := Nat.lt_mul_div_succ (2 * a + b) (show 0 < 2 * b by omega)
  rw [← roundDiv] at low high
  rw [Nat.mul_add, Nat.mul_assoc] at high
  rw [Nat.mul_assoc] at low
  omega

/-- A rounded quotient is at least `lo` and at most `hi` when the exact one reaches from a half below the one to less than a
half above the other. -/
theorem roundDiv_between {a b lo hi : Nat} (h : 0 < b) (low : 2 * b * lo ≤ 2 * a + b) (high : 2 * a + b < 2 * b * (hi + 1)) :
    lo ≤ roundDiv a b ∧ roundDiv a b ≤ hi :=
  ⟨(Nat.le_div_iff_mul_le (by omega)).mpr (by rwa [Nat.mul_comm]),
    Nat.lt_succ_iff.mp ((Nat.div_lt_iff_lt_mul (by omega)).mpr (by rwa [Nat.mul_comm 2 a, Nat.mul_comm (hi + 1), Nat.mul_comm a]))⟩

theorem increment_between {q f : Nat} (q1 : 4500 ≤ q) (q2 : q ≤ 30000) (f1 : 1000000 ≤ f) (f2 : f ≤ 20000000) :
    2416 ≤ increment q f ∧ increment q f ≤ 322123 :=
  roundDiv_between (by omega) (by omega) (by omega)

/-! ## Recomputing the increments (R25) -/

/-- The state with these increments and errors, line by line. -/
def State.setRates (s : State) (inc : LineId → Nat) (error : LineId → Int) : State :=
  s.onTbu fun t => { t with inc := ⟨inc .A, inc .B⟩, rateError := ⟨error .A, error .B⟩ }

theorem setRates_line (s : State) (inc : LineId → Nat) (error : LineId → Int) (l : LineId) :
    (s.setRates inc error).tbu.inc.get l = inc l ∧ (s.setRates inc error).tbu.rateError.get l = error l := by
  cases l <;> exact ⟨rfl, rfl⟩

/-- The state with both lines' increments and errors those of source frequency f. -/
def State.retimed (s : State) (f : Nat) : State :=
  let inc (l : LineId) : Nat := increment (s.unit l).cfg.rate f
  s.setRates inc fun l => rateErrorOf (s.unit l).cfg.rate f (inc l)

theorem retimed_tbu (s : State) (f : Nat) : (s.retimed f).tbu =
    { s.tbu with inc := (s.retimed f).tbu.inc, rateError := (s.retimed f).tbu.rateError } := rfl

theorem retimed_line (s : State) (f : Nat) (l : LineId) :
    (s.retimed f).tbu.inc.get l = increment (s.unit l).cfg.rate f ∧
      (s.retimed f).tbu.rateError.get l = rateErrorOf (s.unit l).cfg.rate f ((s.retimed f).tbu.inc.get l) := by
  have ⟨inc, error⟩ := setRates_line s (fun l => increment (s.unit l).cfg.rate f)
    (fun l => rateErrorOf (s.unit l).cfg.rate f (increment (s.unit l).cfg.rate f)) l
  exact ⟨inc, error.trans (congrArg _ inc.symm)⟩

theorem recompute_believedF (s : State) (l : LineId) : (s.recompute l).tbu.believedF = s.tbu.believedF := rfl

theorem recompute_unit (s : State) (l k : LineId) : (s.recompute l).unit k = s.unit k := rfl

theorem recomputeBoth_eq (s : State) : s.recomputeBoth = s.retimed s.tbu.believedF := by
  rw [State.recomputeBoth, State.recompute, recompute_believedF, recompute_unit, State.recompute]
  unfold State.retimed
  dsimp only [State.setRates, State.onTbu]
  generalize increment (s.unit .A).cfg.rate _ = a, increment (s.unit .B).cfg.rate _ = b
  generalize rateErrorOf (s.unit .A).cfg.rate _ a = c, rateErrorOf (s.unit .B).cfg.rate _ b = d
  rfl

/-- The timebase takes its own oscillator as source in every state but REFERENCE (R14). -/
theorem believedF_internal {t : Timebase} (h : t.state ≠ .reference) : t.believedF = t.fIntEst := if_neg h
theorem believedF_reference {t : Timebase} (h : t.state = .reference) : t.believedF = t.fRef := if_pos h

/-! ## The quantities of SET_TIMEBASE (R17, R184) -/

theorem u32_e4 {f : Nat} (h : f < 2 ^ 32) : u32 (BitVec.ofNat 8 f) (BitVec.ofNat 8 (f / 256)) (BitVec.ofNat 8 (f / 65536))
    (BitVec.ofNat 8 (f / 16777216)) = f := by
  simp only [u32, BitVec.toNat_ofNat]
  omega

/-- SET_TIMEBASE takes source INTERNAL with F_REF 0 or in its range, and REFERENCE with F_REF in its range (R17). -/
theorem readTimebase_e4 (x : Byte) {f : Nat} (h : f < 2 ^ 32) : readTimebase (x :: e4 f) =
    if (x = 0 ∧ f = 0) ∨ (x.toNat ≤ 1 ∧ 1000000 ≤ f ∧ f ≤ 20000000)
    then some (if x = 0 then .internal else .reference, f) else none := by
  have read : readTimebase (x :: e4 f) = (readSource x).bind fun src =>
      if (src = .internal ∧ f = 0) ∨ (Config.fRefLow ≤ f ∧ f ≤ Config.fRefHigh) then some (src, f) else none := by
    simp only [readTimebase, e4, u32_e4 h]; rfl
  rw [read]
  by_cases zero : x = 0
  · subst zero; simp [readSource, Config.fRefLow, Config.fRefHigh]
  · by_cases one : x = 1
    · subst one; simp [readSource, Config.fRefLow, Config.fRefHigh]
    · have above : ¬ x.toNat ≤ 1 := by bv_omega
      rw [readSource, if_neg zero, if_neg one, if_neg (by tauto)]; rfl

/-! ## SET_TIMEBASE (R17, R25) -/

/-- The state after SET_TIMEBASE with this source and F_REF. -/
def timebaseSet (src : TbSource) (f : Nat) (s : State) : State :=
  (s.onTbu fun t =>
    { t with state := match src with | .internal => .internal | .reference => .qualifying
             fRef := if f = 0 then t.fRef else f, reason := .none, tickDivisor := 16384, calActive := false
             calTimer := none }).retimed s.tbu.fIntEst

theorem cmdSetTimebase_taken {p : List Byte} {src : TbSource} {f : Nat} (h : readTimebase p = some (src, f)) (s : State) :
    cmdSetTimebase p s = .ok (timebaseSet src f s) [] := by
  unfold cmdSetTimebase withArgs
  rw [h]
  cases src
  all_goals
    refine congrArg (Reply.ok · []) ((recomputeBoth_eq _).trans (congrArg _ (believedF_internal ?_)))
    exact TbState.noConfusion

theorem cmdSetTimebase_refused {p : List Byte} (h : readTimebase p = none) (s : State) :
    cmdSetTimebase p s = .refuse s .badArgument := by
  rw [cmdSetTimebase, withArgs, h]

/-! ## Qualification, loss of the reference, calibration (R18 to R20) -/

/-- The state after a qualification that accepts count c. -/
def qualified (c : Nat) (s : State) : State :=
  ((s.onTbu fun t =>
    { t with state := .reference, reason := .accepted, lastCount := min c 1048575, tickDivisor := roundDiv t.fRef 1000
             calActive := true, calTimer := some 1000 }).retimed s.tbu.fRef).latch .timebase

theorem qualificationEnd_accepted {c : Nat} (h : s.tbu.state = .qualifying) (near : countAccepted s.tbu.fRef c = true) :
    qualificationEnd c s = qualified c s := by
  unfold qualificationEnd
  rw [if_neg (by simp [h])]
  exact congrArg (State.latch · .timebase) ((if_pos near).trans ((recomputeBoth_eq _).trans
    (congrArg _ (believedF_reference rfl))))

theorem qualificationEnd_rejected {c : Nat} (h : s.tbu.state = .qualifying) (far : countAccepted s.tbu.fRef c = false) :
    qualificationEnd c s = (s.onTbu fun t =>
      { t with state := .internal, reason := .rejected, lastCount := min c 1048575 }).latch .timebase := by
  unfold qualificationEnd
  rw [if_neg (by simp [h])]
  exact congrArg (State.latch · .timebase) (if_neg (by simp [State.onTbu, far]))

theorem referenceLost_degrades (h : s.tbu.state = .reference) : referenceLost s =
    ((s.onTbu fun t =>
      { t with state := .degraded, reason := .lost, tickDivisor := 16384
               calDiscarded := if t.calActive then min (t.calDiscarded + 1) 65535 else t.calDiscarded
               calActive := false, calTimer := none }).retimed s.tbu.fIntEst).latch .timebase := by
  unfold referenceLost
  rw [if_neg (by simp [h])]
  exact congrArg (State.latch · .timebase) ((recomputeBoth_eq _).trans
    (congrArg _ (believedF_internal TbState.noConfusion)))

end Sys2Proof.Machine
end

section
/-! PROOF. The obligations on the timebase's increments, SET_TIMEBASE, the qualification, the reference and calibration. -/

open Sys2Proof Sys2Proof.Machine

/-- Settles O14: the increment is a rounded quotient, whose range follows from those of the rate and the frequency. -/
theorem incrementIsTheNearest : Obligations.IncrementIsTheNearest := by
  refine ⟨fun q f q1 q2 f1 f2 => ?_, by decide, by decide, by decide, by decide⟩
  have ⟨low, high⟩ := roundDiv_nearest (2 ^ 24 * 64 * q) (show 0 < 100 * f by omega)
  exact ⟨low, high, increment_between q1 q2 f1 f2⟩

/-- Settles O13: what the payload names decides between `timebaseSet` and a refusal. -/
theorem setTimebaseTakesSourceAndReference : Obligations.SetTimebaseTakesSourceAndReference := by
  intro x f s ready fits
  have read := readTimebase_e4 x fits
  split
  · next named =>
    rw [if_pos named] at read
    refine ⟨answered 5 .ok [] (timebaseSet (if x = 0 then .internal else .reference) f s), ?_, ?_, retimed_line _ _⟩
    · exact congrArg Host.Outcome.next (consoleRow_ok ready (by simp [e4]) (cmdSetTimebase_taken read _))
    · split <;> rfl
  · next bad =>
    rw [if_neg bad] at read
    exact congrArg Host.Outcome.next (consoleRow_refused _ _ _ _ ready (by simp [e4]) _ (cmdSetTimebase_refused read _))

/-- Settles O16: the count is judged against the declared reference. -/
theorem qualificationEndJudgesTheReference : Obligations.QualificationEndJudgesTheReference := by
  refine fun c s => ⟨fun h => congrArg Host.Outcome.next (if_pos h), fun h => ⟨_, rfl, ?_⟩⟩
  split
  · next near =>
    rw [qualificationEnd_accepted h (decide_eq_true near)]
    exact ⟨rfl, rfl, retimed_line _ _⟩
  · next far =>
    rw [qualificationEnd_rejected h (decide_eq_false far)]
    exact ⟨rfl, rfl⟩

/-- Settles O17: the part falls back to its own oscillator, and retimes both lines from it. -/
theorem referenceLostFallsBack : Obligations.ReferenceLostFallsBack := by
  refine fun s => ⟨fun h => congrArg Host.Outcome.next (if_pos h), fun h => ⟨_, rfl, ?_⟩⟩
  rw [referenceLost_degrades h]
  exact ⟨rfl, retimed_line _ _⟩

/-- Settles O18: each row's condition, and the window of the estimate. -/
theorem calibrationKeepsOrDiscards : Obligations.CalibrationKeepsOrDiscards := by
  refine ⟨fun s => ?_, fun n s => ?_⟩
  · exact congrArg Host.Outcome.next (if_congr (and_congr_right fun _ => isDue_iff _) rfl rfl)
  · refine congrArg Host.Outcome.next (if_congr Iff.rfl ?_ rfl)
    unfold State.onTbu
    dsimp only
    split
    · next kept => exact (if_pos kept).symm
    · next lost => exact (if_neg lost).symm

end

section
/-! SUPPORT. The millisecond tick, timer by timer, and a run of ticks (R20, R21, R28). -/

namespace Sys2Proof.Machine

open Sys2Proof

variable {s : State}

/-! ## One tick, part by part (R21) -/

/-- The level on a line's receive pin, and on a motor's speed pin, at a tick. -/
def rxAt (i : TickPins) : LineId → Level
  | .A => i.rxA
  | .B => i.rxB
def speedAt (i : TickPins) : Mech → Bool
  | .print => i.pspd
  | .punch => i.uspd

section
variable (i : TickPins) (s : State)

theorem tick_csv (l : LineId) : (millisecondTick i s).csv l = (s.csv l).tick := by cases l <;> rfl
theorem tick_framerOf (l : LineId) : (millisecondTick i s).framerOf l = (s.framerOf l).tick := by cases l <;> rfl
theorem tick_motor (k : Mech) : (millisecondTick i s).motor k =
    (s.motor k).tick (speedAt i k) := by cases k <;> rfl
theorem tick_unit (l : LineId) : (millisecondTick i s).unit l =
    (s.unit l).msTick s.running (rxAt i l) := by cases l <;> rfl

end

theorem yieldTick_some (n m : Nat) : yieldTick (some (n, m)) = some (if n < m then n + 1 else n, m) := rfl

/-- What the tick samples of a receive pin: nothing in a running state; else CONDITION samples while nothing waits to be
reported, and WATCH while no transition does (R39, R40, R49). -/
theorem msTick_eq (running : Bool) (r : Receiver) (lv : Level) :
    r.msTick running lv = { r with
      pin := lv, age := min (r.age + 1) 65535, last := (r.msTick running lv).last
      watchSeen := (r.msTick running lv).watchSeen } ∧
    ((r.msTick running lv).last, (r.msTick running lv).watchSeen) =
      (if running = false ∧ r.mode = .condition ∧ r.last = r.known then (lv, r.watchSeen)
      else if running = false ∧ r.mode = .watch ∧ r.watchSeen = false then (lv, decide (r.last = .mark ∧ lv = .space))
      else (r.last, r.watchSeen)) := by
  cases running
  case true => exact ⟨rfl, rfl⟩
  case false =>
    obtain ⟨mode, sub, pin, last, known, seen, age⟩ := r
    cases mode with
    | off | framing => exact ⟨rfl, rfl⟩
    | condition =>
      by_cases h : last = known
      · subst h; simp [Receiver.msTick, bump, Config.counterMax]
      · simp [Receiver.msTick, bump, Config.counterMax, h]
    | watch => cases seen <;> simp [Receiver.msTick, bump, Config.counterMax, Bool.decide_and]

/-! ## A run of ticks (R21, log entry 2) -/

theorem tickDown_some (n : Nat) : tickDown (some n) = some (n - 1) := by cases n <;> rfl

/-- A reading that every tick steps by g has been stepped by g once a tick. -/
theorem ticks_iterate {α : Type} (read : State → α) (g : α → α) (h : ∀ i s, read (millisecondTick i s) = g (read s))
    (pins : List TickPins) (s : State) :
    read (pins.foldl (fun s i => millisecondTick i s) s) = g^[pins.length] (read s) := by
  induction pins generalizing s with
  | nil => rfl
  | cons i rest ih => exact (ih _).trans (congrArg _ (h i s))

theorem tickDown_iterate (k n : Nat) : tickDown^[k] (some n) = some (n - k) := by
  induction k generalizing n with
  | zero => rfl
  | succ k ih => rw [Function.iterate_succ_apply, tickDown_some, ih, Nat.sub_sub, Nat.add_comm]

/-- A timer that every tick counts down has lost one for each tick, down to 0. -/
theorem timer_after (read : State → Option Nat) (h : ∀ i s, read (millisecondTick i s) = tickDown (read s))
    (pins : List TickPins) {n : Nat} (start : read s = some n) :
    read (pins.foldl (fun s i => millisecondTick i s) s) = some (n - pins.length) := by
  rw [ticks_iterate read tickDown h, start, tickDown_iterate]

/-- One tick of an operation in flight. -/
def opTick {α : Type} (o : Option (α × Nat)) : Option (α × Nat) := o.map fun o => (o.1, o.2 - 1)

theorem opTick_iterate {α : Type} (a : α) (k n : Nat) : opTick^[k] (some (a, n)) = some (a, n - k) := by
  induction k generalizing n with
  | zero => rfl
  | succ k ih => exact (ih (n - 1)).trans (by rw [Nat.sub_sub, Nat.add_comm])

/-- An operation that every tick counts down has lost one for each tick, down to 0. -/
theorem operation_after {α : Type} (read : State → Option (α × Nat))
    (h : ∀ i s, read (millisecondTick i s) = opTick (read s)) (pins : List TickPins) {a : α} {n : Nat}
    (start : read s = some (a, n)) :
    read (pins.foldl (fun s i => millisecondTick i s) s) = some (a, n - pins.length) := by
  rw [ticks_iterate read opTick h, start, opTick_iterate]

end Sys2Proof.Machine
end

section
/-! PROOF. The obligations on the millisecond tick. -/

open Sys2Proof Sys2Proof.Machine

/-- Settles O20: the tick acts part by part. -/
theorem millisecondTickCountsEveryTimer : Obligations.MillisecondTickCountsEveryTimer := by
  intro i s
  refine ⟨millisecondTick i s, rfl, rfl, rfl, rfl, rfl, rfl, rfl, rfl, rfl, rfl, rfl, fun h => ?_, fun n m h => ?_, rfl,
    fun k speed h => ?_, fun l lv h => ?_⟩
  · exact (congrArg yieldTick h).trans rfl
  · exact (congrArg yieldTick h).trans (yieldTick_some n m)
  · have pin : speed = speedAt i k := h.trans (by cases k <;> rfl)
    rw [tick_motor, pin]
    rfl
  · have pin : lv = rxAt i l := h.trans (by cases l <;> rfl)
    have ⟨kept, sampled⟩ := msTick_eq s.running (s.unit l).rx lv
    rw [tick_unit, tick_framerOf, tick_csv, ← pin]
    exact ⟨congrArg (fun r => { s.unit l with rx := r }) kept, sampled, rfl, rfl⟩

/-- Settles O21: each timer is one that the tick counts down. -/
theorem timersExpireOnTheNthTick : Obligations.TimersExpireOnTheNthTick := by
  intro pins s l k n
  refine ⟨fun f listed start => timer_after f ?_ pins start, fun op start => operation_after (·.prc.op) (fun _ _ => rfl) pins
    start, fun op start => operation_after (·.puc.op) (fun _ _ => rfl) pins start⟩
  have gap (i : TickPins) (s : State) : ((millisecondTick i s).framerOf l).gap = tickDown (s.framerOf l).gap := by
    rw [tick_framerOf]; rfl
  have started (i : TickPins) (s : State) : ((millisecondTick i s).motor k).start = tickDown (s.motor k).start := by
    rw [tick_motor]; rfl
  fin_cases listed
  iterate 17 exact fun i s => by dsimp only; rw [tick_csv]; rfl
  · exact gap
  iterate 7 exact fun _ _ => rfl
  · exact started

end

section
/-! SUPPORT. The way into standby: when the part is quiet, and what the entry makes of it (R26, R27, R49). -/

namespace Sys2Proof.Machine

open Sys2Proof

variable {s : State} {l k : LineId}

/-! ## A quiet part (R26) -/

/-- A line lets the part enter standby: not in use, or RUNNING and hunting on mark for a second, with nothing on the
transmitter and no SEND grant. -/
theorem lineQuiet_iff (s : State) (l : LineId) : lineQuiet s l = true ↔
    ((s.csv l).state = .disabled ∨ (s.csv l).state = .free ∨ (s.csv l).state = .fault ∨
      ((s.csv l).state = .running ∧ (s.unit l).rx.mode = .framing ∧ (∃ b, (s.unit l).rx.sub = .hunting b false) ∧
        (s.unit l).rx.last = .mark ∧ (s.unit l).rx.pin = .mark ∧ 1000 ≤ (s.unit l).rx.age)) ∧
    (s.unit l).tx.state = .idle ∧ (s.selector l).grant = none := by
  unfold lineQuiet
  simp only [Bool.and_eq_true, decide_eq_true_eq, Option.isNone_iff_eq_none, and_assoc (c := (s.selector l).grant = none)]
  refine and_congr_left fun _ => ?_
  cases (s.csv l).state
  case running =>
    cases (s.unit l).rx.sub with
    | hunting resume seen => cases resume <;> cases seen <;> simp [and_assoc]
    | character _ | spaceHeld _ | blanked => simp
  all_goals simp

/-- The blocks beside the lines let the part enter standby. -/
theorem blocksQuiet_iff (s : State) : blocksQuiet s = true ↔
    s.kbs.fifo = [] ∧ s.prc.grant = none ∧ s.prc.op = none ∧ s.prc.abandoned = none ∧
      s.puc.grant = none ∧ s.puc.op = none ∧ s.puc.abandoned = none ∧
      ∀ i r, s.record i = some r → ¬ (r.origin = .console ∧ r.state = .opened) := by
  simp [blocksQuiet, mem_entries, and_assoc]

/-! ## The entry (R27) -/

theorem enterWatch_eq (s : State) (l : LineId) : enterWatch s l = { s with lu := (enterWatch s l).lu } := by
  unfold enterWatch
  split <;> rfl

theorem enterWatch_unit (s : State) (l : LineId) : (enterWatch s l).unit l =
    if (s.csv l).state = .running then { s.unit l with rx := (s.unit l).rx.watch } else s.unit l := by
  unfold enterWatch
  split
  · exact State.onRx_unit_same ..
  · rfl

/-- The part in standby, before the RUNNING receivers watch. -/
def standingBy (exit : TbSource) (s : State) : State :=
  { s with
    tbu := { s.tbu with state := .standby, exitSource := exit, calActive := false, calTimer := none, tickDivisor := 32 }
    kbs := { s.kbs with repeatTimer := none, repeatSpent := true }
    mtc := ⟨s.mtc.print.forced, s.mtc.punch.forced⟩ }

theorem standbyEntry_eq (exit : TbSource) (s : State) :
    standbyEntry exit s = { standingBy exit s with lu := (standbyEntry exit s).lu } := by
  have entered : standbyEntry exit s = enterWatch (enterWatch (standingBy exit s) .A) .B := rfl
  rw [entered, enterWatch_eq (enterWatch _ .A), enterWatch_eq (standingBy exit s)]

/-- Each RUNNING line watches, and no other line changes. -/
theorem standbyEntry_unit (exit : TbSource) (s : State) (l : LineId) : (standbyEntry exit s).unit l =
    if (s.csv l).state = .running then { s.unit l with rx := (s.unit l).rx.watch } else s.unit l := by
  have entered : standbyEntry exit s = enterWatch (enterWatch (standingBy exit s) .A) .B := rfl
  rw [entered]
  cases l with
  | A => exact (enterWatch_other (by decide)).1.trans (enterWatch_unit ..)
  | B =>
    have ⟨unit, csv⟩ := enterWatch_other (s := standingBy exit s) (l := .A) (k := .B) (by decide)
    rw [enterWatch_unit, unit, csv]
    rfl

/-- The entry does not look at the port. -/
theorem standbyEntry_zeros (exit : TbSource) (s : State) (n : Nat) :
    standbyEntry exit (s.zeros n) = (standbyEntry exit s).zeros n := by
  have watch (s : State) (l : LineId) : enterWatch (s.zeros n) l = (enterWatch s l).zeros n := by
    by_cases runs : (s.csv l).state = .running
    · rw [enterWatch, enterWatch, if_pos runs, if_pos (by exact runs)]; rfl
    · rw [enterWatch, enterWatch, if_neg runs, if_neg (by exact runs)]
  have entered (s : State) : standbyEntry exit s = enterWatch (enterWatch (standingBy exit s) .A) .B := rfl
  rw [entered, entered, ← watch, ← watch]
  rfl

/-! ## The command (R26) -/

theorem readStandby_code (exit : TbSource) : readStandby (e1 exit.code) = some exit := by cases exit <;> rfl

theorem cmdStandby_enters {exit : TbSource} (sure : ¬ (s.tbu.state = .qualifying ∨ (exit = .reference ∧ s.tbu.fRef = 0)))
    (quiet : (lineQuiet s .A && lineQuiet s .B && blocksQuiet s) = true) :
    cmdStandby (e1 exit.code) s = .ok (standbyEntry exit s) [] := by
  rw [cmdStandby, withArgs, readStandby_code]
  exact (if_neg sure).trans (if_pos quiet)

theorem cmdStandby_refuses {exit : TbSource}
    (h : ¬ (¬ (s.tbu.state = .qualifying ∨ (exit = .reference ∧ s.tbu.fRef = 0)) ∧
      (lineQuiet s .A && lineQuiet s .B && blocksQuiet s) = true)) :
    cmdStandby (e1 exit.code) s = .refuse s .wrongState := by
  rw [cmdStandby, withArgs, readStandby_code]
  dsimp only
  split
  · rfl
  · next sure => exact if_neg fun quiet => h ⟨sure, quiet⟩

end Sys2Proof.Machine
end

section
/-! PROOF. The obligation on standby. -/

open Sys2Proof Sys2Proof.Machine

/-- Settles O15: what R26 asks is what the command checks, line by line and block by block. -/
theorem standbyIsEnteredExactlyWhenQuiet : Obligations.StandbyIsEnteredExactlyWhenQuiet := by
  intro exit s ready quiet
  have checks : quiet ↔ ¬ (s.tbu.state = .qualifying ∨ (exit = .reference ∧ s.tbu.fRef = 0)) ∧
      (lineQuiet s .A && lineQuiet s .B && blocksQuiet s) = true := by
    have lines : (∀ l, lineQuiet s l = true) ↔ lineQuiet s .A = true ∧ lineQuiet s .B = true :=
      ⟨fun h => ⟨h .A, h .B⟩, fun ⟨a, b⟩ l => by cases l <;> assumption⟩
    simp only [quiet, ← lineQuiet_iff, ← blocksQuiet_iff, lines, Bool.and_eq_true, not_or, and_assoc]
  refine ⟨fun h => ?_, fun h => ?_⟩
  · obtain ⟨sure, calm⟩ := checks.mp h
    refine ⟨answered 1 .ok [] (standbyEntry exit s), ?_, ?_, fun l => ?_⟩
    · refine congrArg Host.Outcome.next ((consoleRow_ok (p := e1 exit.code) ready (by simp [e1])
        (cmdStandby_enters (s := s.zeros 4) sure calm)).trans ?_)
      rw [standbyEntry_zeros]
      rfl
    · exact congrArg (answered 1 .ok []) (standbyEntry_eq exit s)
    · have unit := standbyEntry_unit exit s l
      split
      · next runs => exact unit.trans (if_pos runs)
      · next idle => exact unit.trans (if_neg idle)
  · exact congrArg Host.Outcome.next (consoleRow_refused _ _ _ _ ready (by simp [e1]) _
      (cmdStandby_refuses (s := s.zeros 4) (mt checks.mpr h)))

end

section
/-! SUPPORT. The end of a wake: the timebase, the receivers that watched, the calls answered in standby (R30, R49, R103). -/

namespace Sys2Proof.Machine

open Sys2Proof

variable {s t u : State} {l k : LineId}

/-! ## What changes the lines and the supervisors only -/

/-- `t` comes from `s` by a change of the line units and the supervisors. -/
def LinesOnly (s t : State) : Prop := t = { s with lu := t.lu, sup := t.sup }

theorem LinesOnly.trans (a : LinesOnly s t) (b : LinesOnly t u) : LinesOnly s u := by
  rw [LinesOnly, b, a]

theorem LinesOnly.tbu (a : LinesOnly s t) : t.tbu = s.tbu := by rw [a]
theorem LinesOnly.running (a : LinesOnly s t) : t.running = s.running := by rw [a]; rfl

/-! ## Watching receivers resume (R49) -/

/-- Line l in t: a receiver that watched in s frames, and the supervisor's timers may have changed. -/
def Unwatched (s t : State) (l : LineId) : Prop :=
  t.unit l = (if (s.unit l).rx.mode = .watch then { s.unit l with rx := (s.unit l).rx.frame } else s.unit l) ∧
    ∃ w, t.csv l = { s.csv l with timers := w }

/-- Only a RUNNING line's receiver watches. -/
theorem running_of_watch {st : SupState} (h : RxMode.watch = st.rxMode false) : st = .running := by
  cases st <;> simp [SupState.rxMode] at h ⊢

/-- Line l resumes; under a space its fault timer starts. -/
theorem leaveWatch_line (follows : (s.unit l).rx.mode = (s.csv l).state.rxMode false) :
    LinesOnly s (leaveWatch s l) ∧ Unwatched s (leaveWatch s l) l := by
  unfold leaveWatch Unwatched
  split
  · next watch =>
    have runs : ((s.onRx l Receiver.frame).csv l).state = .running := running_of_watch (watch.symm.trans follows)
    unfold enterFraming
    rw [if_neg (by rw [watch]; decide)]
    dsimp only
    split
    · rw [reportSpace, runs]
      exact ⟨rfl, State.onRx_unit_same .., _, State.onTimers_csv_same ..⟩
    · exact ⟨rfl, State.onRx_unit_same .., _, rfl⟩
  · exact ⟨rfl, rfl, _, rfl⟩

/-- Both lines resume. -/
theorem leaveWatch_both (follows : ∀ l, (s.unit l).rx.mode = (s.csv l).state.rxMode false) :
    LinesOnly s (leaveWatch (leaveWatch s .A) .B) ∧ ∀ l, Unwatched s (leaveWatch (leaveWatch s .A) .B) l := by
  have ⟨onlyA, lineA⟩ := leaveWatch_line (follows .A)
  have ⟨unitB, csvB⟩ := leaveWatch_other (k := .B) (by decide) (follows .A)
  have followsB : ((leaveWatch s .A).unit .B).rx.mode = ((leaveWatch s .A).csv .B).state.rxMode false := by
    rw [unitB, csvB]; exact follows .B
  have ⟨onlyB, lineB⟩ := leaveWatch_line followsB
  have ⟨unitA, csvA⟩ := leaveWatch_other (k := .A) (by decide) followsB
  refine ⟨onlyA.trans onlyB, fun l => ?_⟩
  cases l with
  | A => rw [Unwatched, unitA, csvA]; exact lineA
  | B => rw [Unwatched, unitB, csvB] at lineB; exact lineB

/-- A receiver that leaves WATCH hunts on mark, and holds a space. -/
theorem Receiver.frame_of_watch {r : Receiver} (h : r.mode = .watch) : r.frame.mode = .framing ∧
    r.frame.sub = if r.pin = .space then .spaceHeld 0 else .hunting false false := by
  unfold Receiver.frame
  rw [if_neg (by rw [h]; decide)]
  cases r.pin <;> exact ⟨rfl, rfl⟩

/-! ## The call confirm (R103) -/

/-- Line l in t: where it was ANSWERING in s it orders mark and CONFIRM_MS runs; else only the transmitter and the timers
may have changed. -/
def Confirmed (s t : State) (l : LineId) : Prop :=
  (∃ x, t.unit l = { s.unit l with tx := x } ∧ ((s.csv l).state = .answering → x.ordered = .mark)) ∧
    ∃ w, t.csv l = { s.csv l with timers := w } ∧
      ((s.csv l).state = .answering → w.confirm = some (s.csv l).values.confirmMs)

theorem order_unit (s : State) (l : LineId) (v : Level) :
    (s.order l v).unit l = { s.unit l with tx := ((s.order l v).unit l).tx } := by
  rw [State.order, State.onTx_unit_same]

theorem confirmCall_line (runs : s.running = true) (l : LineId) :
    LinesOnly s (confirmCall s l) ∧ Confirmed s (confirmCall s l) l := by
  unfold confirmCall
  rw [runs, Bool.true_and]
  by_cases answering : (s.csv l).state = .answering
  · rw [if_pos (decide_eq_true answering)]
    exact ⟨rfl, ⟨((s.order l .mark).unit l).tx, order_unit .., fun _ => order_ordered ..⟩, _, State.onTimers_csv_same ..,
      fun _ => rfl⟩
  · rw [if_neg (by simp [answering])]
    exact ⟨rfl, ⟨_, rfl, fun h => absurd h answering⟩, _, rfl, fun h => absurd h answering⟩

theorem confirmCall_other (s : State) (h : k ≠ l) :
    (confirmCall s l).unit k = s.unit k ∧ (confirmCall s l).csv k = s.csv k := by
  unfold confirmCall
  split
  · exact ⟨(order_only s l .mark).unit k h, State.onTimers_csv_ne _ _ h⟩
  · exact ⟨rfl, rfl⟩

/-- Both lines' calls are confirmed. -/
theorem confirmCall_both (runs : s.running = true) :
    LinesOnly s (confirmCall (confirmCall s .A) .B) ∧ ∀ l, Confirmed s (confirmCall (confirmCall s .A) .B) l := by
  have ⟨onlyA, lineA⟩ := confirmCall_line runs .A
  have ⟨onlyB, lineB⟩ := confirmCall_line (onlyA.running.trans runs) .B
  have ⟨unitB, csvB⟩ := confirmCall_other s (l := .A) (k := .B) (by decide)
  have ⟨unitA, csvA⟩ := confirmCall_other (confirmCall s .A) (l := .B) (k := .A) (by decide)
  refine ⟨onlyA.trans onlyB, fun l => ?_⟩
  cases l with
  | A => rw [Confirmed, unitA, csvA]; exact lineA
  | B => rw [Confirmed, unitB, csvB] at lineB; exact lineB

/-! ## The end of the wake (R30) -/

/-- Line l at the end of a wake, in t: it keeps its configuration and accumulator, its receiver no longer watches, and its
call is confirmed. -/
def Resumed (s t : State) (l : LineId) : Prop :=
  (t.unit l).cfg = (s.unit l).cfg ∧ (t.unit l).acc = (s.unit l).acc ∧
    ((s.unit l).rx.mode = .watch → (t.unit l).rx.mode = .framing ∧ (t.unit l).rx.sub =
      if (s.unit l).rx.pin = .space then .spaceHeld 0 else .hunting false false) ∧
    ((s.csv l).state = .answering →
      (t.unit l).tx.ordered = .mark ∧ (t.csv l).timers.confirm = some (s.csv l).values.confirmMs)

theorem Resumed.of_parts (a : Unwatched s t l) (b : Confirmed t u l) : Resumed s u l := by
  obtain ⟨unit, w, csv⟩ := a
  obtain ⟨⟨x, unit', ordered⟩, w', csv', confirm⟩ := b
  rw [csv] at ordered csv' confirm
  rw [Resumed, unit', csv', unit]
  refine ⟨?_, ?_, fun watch => ?_, fun answering => ⟨ordered answering, confirm answering⟩⟩
  · split <;> rfl
  · split <;> rfl
  · rw [if_pos watch]
    exact Receiver.frame_of_watch watch

/-- The timebase on the fast oscillator again, with WAKE latched. -/
def woken (s : State) : State :=
  ((s.onTbu fun t => { t with state := .internal, tickDivisor := 16384, wakeTimer := none }).retimed
    s.tbu.fIntEst).latch .wake

/-- The part after a wake that found it so, before it settles. -/
def resumed (s : State) : State :=
  let t := confirmCall (confirmCall (leaveWatch (leaveWatch (woken s) .A) .B) .A) .B
  if s.tbu.exitSource = .reference then (beginQualifying t).retimed s.tbu.fIntEst else t

theorem resumed_lines (wakes : s.tbu.state = .waking) (follows : ModesFollow s) :
    LinesOnly (woken s) (confirmCall (confirmCall (leaveWatch (leaveWatch (woken s) .A) .B) .A) .B) ∧
      ∀ l, Resumed s (confirmCall (confirmCall (leaveWatch (leaveWatch (woken s) .A) .B) .A) .B) l := by
  have still : s.running = false := by rw [State.running, wakes]; rfl
  have modes : ∀ l, ((woken s).unit l).rx.mode = ((woken s).csv l).state.rxMode false :=
    fun l => still ▸ (modesFollow_iff s).mp follows l
  have ⟨watched, unwatched⟩ := leaveWatch_both modes
  have ⟨called, confirmed⟩ := confirmCall_both (watched.running.trans rfl)
  exact ⟨watched.trans called, fun l => .of_parts (s := woken s) (unwatched l) (confirmed l)⟩

theorem wakeComplete_eq (wakes : s.tbu.state = .waking) (due : s.tbu.wakeTimer = some 0) (follows : ModesFollow s) :
    wakeComplete s = settle (resumed s) := by
  have woke : ((s.onTbu fun t => { t with state := .internal, tickDivisor := 16384, wakeTimer := none }).recomputeBoth).latch
      .wake = woken s := by
    rw [recomputeBoth_eq, believedF_internal TbState.noConfusion]
    rfl
  have tbu := (resumed_lines wakes follows).1.tbu
  unfold wakeComplete resumed
  rw [if_pos ⟨wakes, (isDue_iff _).mpr due⟩]
  dsimp only [Config.fastDivisor]
  rw [woke]
  generalize confirmCall (confirmCall _ .A) .B = t at tbu ⊢
  have exit : t.tbu.exitSource = s.tbu.exitSource := (congrArg Timebase.exitSource tbu).trans rfl
  have est : (beginQualifying t).tbu.believedF = s.tbu.fIntEst :=
    (believedF_internal TbState.noConfusion).trans ((congrArg Timebase.fIntEst tbu).trans rfl)
  rw [recomputeBoth_eq, est, exit]

/-- The timebase at the end of a wake (R30). -/
theorem resumed_tbu (wakes : s.tbu.state = .waking) (follows : ModesFollow s) :
    (resumed s).tbu = { s.tbu with
      state := if s.tbu.exitSource = .reference then .qualifying else .internal
      tickDivisor := 16384, wakeTimer := none, inc := (resumed s).tbu.inc, rateError := (resumed s).tbu.rateError
      calActive := (resumed s).tbu.calActive, calTimer := (resumed s).tbu.calTimer } ∧
    ∀ l, (resumed s).tbu.inc.get l = increment (s.unit l).cfg.rate s.tbu.fIntEst := by
  have ⟨lines, line⟩ := resumed_lines wakes follows
  have tbu := lines.tbu
  unfold resumed
  dsimp only
  generalize confirmCall (confirmCall _ .A) .B = t at tbu line ⊢
  split
  · refine ⟨?_, fun l => (retimed_line ..).1.trans ?_⟩
    · rw [retimed_tbu, beginQualifying, State.onTbu, tbu]
      rfl
    · exact congrArg (fun c : LineConfig => increment c.rate _) (line l).1
  · rw [tbu]
    exact ⟨rfl, fun l => (retimed_line ..).1⟩

/-- What the end of a wake changes beside the timebase: the lines, the supervisors and the latches. -/
theorem resumed_rest (wakes : s.tbu.state = .waking) (follows : ModesFollow s) : resumed s =
    { s with tbu := (resumed s).tbu, lu := (resumed s).lu, sup := (resumed s).sup, cpe := (s.latch .wake).cpe } ∧
      ∀ l, Resumed s (resumed s) l := by
  have ⟨lines, line⟩ := resumed_lines wakes follows
  unfold resumed
  dsimp only
  generalize confirmCall (confirmCall _ .A) .B = t at lines line ⊢
  split
  · exact ⟨by rw [lines]; rfl, line⟩
  · exact ⟨by rw [lines]; rfl, line⟩

end Sys2Proof.Machine
end

section
/-! PROOF. The obligation on the end of a wake. -/

open Sys2Proof Sys2Proof.Machine

/-- Settles O19: the part resumes, and what then settles leaves the lines and the selectors as they are. -/
theorem wakeCompleteResumes : Obligations.WakeCompleteResumes := by
  refine fun s => ⟨fun h => ?_, fun follows wakes due => ⟨_, congrArg Host.Outcome.next (wakeComplete_eq wakes due follows), ?_⟩⟩
  · refine congrArg Host.Outcome.next (if_neg ?_)
    rwa [isDue_iff]
  · have ⟨tbu, inc⟩ := resumed_tbu wakes follows
    have ⟨rest, lines⟩ := resumed_rest wakes follows
    have kept := (settle_settled (resumed s)).kept
    have quiet (l : LineId) := kept.quiet l rfl
    have wake : Latched (resumed s) .wake := by rw [rest]; exact latch_latched s .wake
    generalize resumed s = u at tbu inc rest lines kept quiet wake ⊢
    rw [kept.tbu, kept.ctr, kept.identity, kept.xcfg, kept.pending]
    refine ⟨tbu, inc, kept.latched _ wake, ?_⟩
    refine ⟨?_, ?_, ?_, ?_, ?_, ?_, ?_, ?_, fun l => ?_⟩
    · rw [rest]
    · rw [rest]
    · rw [rest]
    · rw [kept.stm, rest]
    · rw [kept.fqm, rest]
    · exact (Pair.ext_get fun l => (quiet l).2.2).trans (by rw [rest])
    · rw [kept.cpe, rest]; rfl
    · rw [rest]
    · obtain ⟨unit, csv, -⟩ := quiet l
      rw [unit, csv]
      exact lines l

end

section
/-! SUPPORT. The line tick: the accumulator's wrap, the transmitter's tick and the receiver's sample (R23, R37, R41, R42, R45). -/

namespace Sys2Proof.Machine

open Sys2Proof

/-! ## The accumulator (R23) -/

/-- The accumulator wraps by the fewest additions of n that pass 2^24. -/
theorem nextWrap_fewest (acc : BitVec 24) {n : Nat} (pos : 0 < n) (top : n ≤ 2 ^ 24) : ∃ k, 0 < k ∧
    acc.toNat + (k - 1) * n < 2 ^ 24 ∧ acc.toNat + k * n = 2 ^ 24 + (nextWrap acc n).toNat := by
  have below := acc.isLt
  obtain ⟨k, counted⟩ : ∃ k, (2 ^ 24 - acc.toNat + n - 1) / n = k := ⟨_, rfl⟩
  have low := Nat.div_mul_le_self (2 ^ 24 - acc.toNat + n - 1) n
  have high := Nat.lt_mul_div_succ (2 ^ 24 - acc.toNat + n - 1) pos
  rw [counted] at low high
  have step : n * (k + 1) = k * n + n := by ring
  rw [nextWrap, if_neg pos.ne', counted, BitVec.toNat_ofNat]
  cases k with
  | zero => omega
  | succ j =>
    have last : (j + 1) * n = j * n + n := by ring
    refine ⟨j + 1, j.succ_pos, ?_, ?_⟩
    · rw [Nat.add_sub_cancel]; omega
    · omega

/-! ## The transmitter (R37) -/

theorem Transmitter.tick_idle {t : Transmitter} (h : t.state = .idle) : t.tick = t := by
  rw [Transmitter.tick, h]

theorem Transmitter.tick_sending {t : Transmitter} {c : Comb} {stop pos : Nat} (h : t.state = .sending c stop pos)
    (more : pos < 384 + stop) : t.tick = { t with state := .sending c stop (pos + 1), pin := txLevel c (pos + 1) } := by
  rw [Transmitter.tick, h]
  exact if_neg (Nat.not_le.mpr more)

/-! ## The receiver (R40 to R43) -/

section
variable {r : Receiver} (lv : Level)

theorem Receiver.tick_due (h : r.due = true) : r.tick lv = { r with pin := lv } := if_pos h

/-- A sample touches the pin, the last sample and the sub-state only. -/
theorem Receiver.tick_rest (r : Receiver) :
    (r.tick lv).pin = lv ∧ (r.tick lv).mode = r.mode ∧ (r.tick lv).age = r.age := by
  unfold Receiver.tick
  dsimp only
  split
  · exact ⟨rfl, rfl, rfl⟩
  · split <;> exact ⟨rfl, rfl, rfl⟩

theorem Receiver.tick_condition (m : r.mode = .condition) (quiet : r.last = r.known) :
    r.tick lv = { r with pin := lv, last := lv } := by
  unfold Receiver.tick
  rw [if_neg (by simp [Receiver.due, m, quiet])]
  simp only [m]

variable (m : r.mode = .framing)
include m

theorem Receiver.tick_hunting {resume : Bool} (sub : r.sub = .hunting resume false) : (r.tick lv).last = lv ∧
    (r.tick lv).sub = .hunting false (decide (lv = .space ∧ (resume = true ∨ r.last = .mark))) := by
  unfold Receiver.tick
  rw [if_neg (by simp [Receiver.due, m, sub])]
  simp [m, sub, Bool.decide_and, Bool.decide_or]

theorem Receiver.tick_spaceHeld {n : Nat} (sub : r.sub = .spaceHeld n) (more : n < 32) :
    (r.tick lv).last = lv ∧ (r.tick lv).sub = .spaceHeld (if lv = .mark then n + 1 else 0) := by
  unfold Receiver.tick
  rw [if_neg (by simp [Receiver.due, m, sub]; omega)]
  simp [m, sub]

theorem Receiver.tick_character {f : Frame} (sub : r.sub = .character f) (more : f.pos < 416)
    (checked : f.pos = 32 → f.started = true) :
    (r.tick lv).last = lv ∧ (r.tick lv).sub = .character (f.tick r.last lv) := by
  unfold Receiver.tick
  rw [if_neg (by simp [Receiver.due, m, sub]; exact ⟨checked, more⟩)]
  simp [m, sub]

end

/-! ## A character being framed (R42, R45) -/

/-- The sample ticks are the tick before the middle of each unit, the middle, and the tick after. -/
theorem isSampleTick_iff (t : Nat) : isSampleTick t = true ↔
    ∃ k, 1 ≤ k ∧ k ≤ 5 ∧ (t = 64 * k + 30 ∨ t = 64 * k + 32 ∨ t = 64 * k + 34) := by
  simp only [isSampleTick, Bool.and_eq_true, Bool.or_eq_true, decide_eq_true_eq, beq_iff_eq]
  refine ⟨fun h => ⟨t / 64, by omega⟩, fun ⟨k, h⟩ => by omega⟩

theorem Frame.tick_samples (f : Frame) (last lv : Level) :
    ((∃ k, 1 ≤ k ∧ k ≤ 5 ∧ (f.pos + 1 = 64 * k + 30 ∨ f.pos + 1 = 64 * k + 32 ∨ f.pos + 1 = 64 * k + 34)) →
      (f.tick last lv).samples = f.samples ++ [lv]) ∧
    ((∀ k, 1 ≤ k → k ≤ 5 → f.pos + 1 ≠ 64 * k + 30 ∧ f.pos + 1 ≠ 64 * k + 32 ∧ f.pos + 1 ≠ 64 * k + 34) →
      (f.tick last lv).samples = f.samples) := by
  refine ⟨fun at' => if_pos ((isSampleTick_iff _).mpr at'), fun off => if_neg fun at' => ?_⟩
  obtain ⟨k, low, high, one⟩ := (isSampleTick_iff _).mp at'
  have := off k low high
  tauto

/-! ## The row -/

theorem lineTick_stopped {s : State} (h : s.running = false) (l : LineId) (lv : Level) :
    lineTick l lv s = s.onRx l fun r => { r with pin := lv } := if_neg (by simp [h])

theorem lineTick_running {s : State} (h : s.running = true) (l : LineId) (lv : Level) : lineTick l lv s =
    s.onUnit l fun u => { u with acc := nextWrap u.acc (s.tbu.inc.get l), tx := u.tx.tick, rx := u.rx.tick lv } := if_pos h

end Sys2Proof.Machine
end

section
/-! PROOF. The obligation on the line tick. -/

open Sys2Proof Sys2Proof.Machine

/-- Settles O25: the tick acts on the accumulator, the transmitter and the receiver of its line. -/
theorem lineTickStepsTheLine : Obligations.LineTickStepsTheLine := by
  refine fun l lv s => ⟨lineTick l lv s, rfl, ?_⟩
  cases h : s.running
  case false =>
    rw [lineTick_stopped h, State.onRx_unit_same]
    exact ⟨rfl, fun k n => State.onRx_unit_ne s _ n, rfl, fun _ => rfl, nofun⟩
  case true =>
    rw [lineTick_running h, State.onUnit_unit_same]
    obtain ⟨pin, mode, age⟩ := Receiver.tick_rest lv (s.unit l).rx
    refine ⟨rfl, fun k n => State.onUnit_unit_ne s _ n, pin, nofun, fun _ => ?_⟩
    refine ⟨rfl, rfl, mode, age, nextWrap_fewest _, Transmitter.tick_idle, fun c stop pos => Transmitter.tick_sending,
      Receiver.tick_condition lv, Receiver.tick_due lv, fun framing => ⟨fun resume => Receiver.tick_hunting lv framing,
      fun n => Receiver.tick_spaceHeld lv framing, fun f sub more checked => ?_⟩⟩
    have ⟨last, next⟩ := Receiver.tick_character lv framing sub more checked
    have ⟨taken, left⟩ := f.tick_samples (s.unit l).rx.last lv
    exact ⟨_, last, next, rfl, rfl, taken, left, rfl⟩

end

section
/-! SUPPORT. What a reported condition does to its line's supervisor (R29, R40, R42, R49, R101, R102, R105, R112, R117). -/

namespace Sys2Proof.Machine

open Sys2Proof

variable {s t u : State} {l k : LineId}

/-! ## A change of one supervisor -/

/-- `t` comes from `s` by a change of line l's supervisor. -/
def CsvOnly (l : LineId) (s t : State) : Prop := t = s.setCsv l (t.csv l)

theorem CsvOnly.refl (l : LineId) (s : State) : CsvOnly l s s := by
  rw [CsvOnly, State.setCsv, State.csv, Pair.set_get]

theorem CsvOnly.onCsv (s : State) (l : LineId) (f : Supervisor → Supervisor) : CsvOnly l s (s.onCsv l f) := by
  rw [CsvOnly, State.onCsv_csv_same]
  rfl

theorem CsvOnly.onTimers (s : State) (l : LineId) (f : SupTimers → SupTimers) : CsvOnly l s (s.onTimers l f) := .onCsv ..

theorem CsvOnly.trans (a : CsvOnly l s t) (b : CsvOnly l t u) : CsvOnly l s u := by
  have twice (c d : Supervisor) : (s.setCsv l c).setCsv l d = s.setCsv l d := by cases l <;> rfl
  rw [CsvOnly, b, State.setCsv_csv_same, a, twice]

/-- A change of line l's receiver and then of its supervisor. -/
theorem CsvOnly.after_rx {f : Receiver → Receiver} (h : CsvOnly l (s.onRx l f) t) :
    LinesOnly s t ∧ LineOnly l s t ∧ t.unit l = { s.unit l with rx := f (s.unit l).rx } := by
  have set : ∀ c, t = (s.onRx l f).setCsv l c →
      LinesOnly s t ∧ LineOnly l s t ∧ t.unit l = { s.unit l with rx := f (s.unit l).rx } := by
    rintro c rfl
    exact ⟨rfl, .trans (.onRx ..) (.setCsv ..), State.onRx_unit_same ..⟩
  exact set _ h

/-- A wake request leaves both lines and their increments. -/
theorem requestWake_otherLineKept (s : State) (c : WakeCause) (l : LineId) : OtherLineKept s (s.requestWake c) l := by
  intro k _
  by_cases h : s.tbu.state = .standby
  · rw [requestWake_standby h]; exact ⟨rfl, rfl, rfl, rfl, rfl, rfl, rfl⟩
  · rw [requestWake_awake h]; exact ⟨rfl, rfl, rfl, rfl, rfl, rfl, rfl⟩

/-! ## A mark (R42, R101, R105, R112, R117) -/

/-- The wake cause of a line's call, and of a space on it in standby (R29). -/
def callCause : LineId → WakeCause
  | .A => .callA
  | .B => .callB
def spaceCause : LineId → WakeCause
  | .A => .spaceA
  | .B => .spaceB

/-- A mark in FREE: the line enters INCOMING with CALL_RECOGNIZE_MS, and asks for a wake. -/
theorem reportMark_free (h : (s.csv l).state = .free) : reportMark s l = (((s.enterSup l .incoming).onTimers l fun t =>
    { t with recognize := some (s.csv l).values.callRecognizeMs }).requestWake (callCause l)) := by
  have values : ((s.enterSup l .incoming).csv l).values = (s.csv l).values := by simp [State.enterSup]
  rw [reportMark, h]
  unfold enterIncoming
  dsimp only
  rw [values]
  cases l <;> rfl

/-- A mark stops the recognition of a clear. -/
theorem reportMark_clear (h : (s.csv l).state ∈ [.answering, .refusing, .selecting, .awaitConnect, .connected] ∨
    ((s.csv l).state = .calling ∧ (s.csv l).phase ≠ .confirmWait)) : reportMark s l = stopClear s l := by
  obtain state | ⟨state, phase⟩ := h
  · simp only [List.mem_cons, List.not_mem_nil, or_false] at state
    obtain state | state | state | state | state := state <;> rw [reportMark, state]
  · rw [reportMark, state]
    exact if_neg phase

/-- A mark in the first phase of CALLING is the call confirmation. -/
theorem reportMark_calling (state : (s.csv l).state = .calling) (phase : (s.csv l).phase = .confirmWait) :
    reportMark s l = callConfirmed s l := by
  rw [reportMark, state]
  exact if_pos phase

theorem reportMark_running (h : (s.csv l).state = .running) :
    reportMark s l = s.onTimers l fun t => { t with fault := none } := by rw [reportMark, h]
theorem reportMark_fault (h : (s.csv l).state = .fault) :
    reportMark s l = s.onTimers l fun t => { t with recovery := some 100 } := by rw [reportMark, h]; rfl
theorem reportMark_nothing (h : (s.csv l).state ∈ [.disabled, .incoming, .clearing, .guard]) : reportMark s l = s := by
  simp only [List.mem_cons, List.not_mem_nil, or_false] at h
  obtain h | h | h | h := h <;> rw [reportMark, h]

/-- A mark touches the line's supervisor only, where it is not a call's first. -/
theorem reportMark_only (h : (s.csv l).state ≠ .free) : CsvOnly l s (reportMark s l) := by
  unfold reportMark
  split
  case h_1 free => exact absurd free h
  case h_7 =>
    split
    · exact .onCsv ..
    · exact .onTimers ..
  case h_10 | h_11 | h_12 | h_13 => exact .refl l s
  all_goals exact .onTimers ..

/-! ## A space (R102, R105, R109, R117) -/

theorem reportSpace_incoming (h : (s.csv l).state = .incoming) : reportSpace s l = s.enterSup l .free := by
  rw [reportSpace, h]

/-- A space starts the recognition of a clear. -/
theorem reportSpace_clear (h : (s.csv l).state = .answering ∨ (s.csv l).state = .refusing) :
    reportSpace s l = startClear s l := by
  obtain h | h := h <;> rw [reportSpace, h]

theorem reportSpace_fault (h : (s.csv l).state = .fault) :
    reportSpace s l = s.onTimers l fun t => { t with recovery := none } := by rw [reportSpace, h]
theorem reportSpace_nothing (h : (s.csv l).state ∈ [.disabled, .free, .guard]) : reportSpace s l = s := by
  simp only [List.mem_cons, List.not_mem_nil, or_false] at h
  obtain h | h | h := h <;> rw [reportSpace, h]

/-- A space touches the line's supervisor only, where it does not confirm a clear. -/
theorem reportSpace_only (h : (s.csv l).state ≠ .clearing) : CsvOnly l s (reportSpace s l) := by
  unfold reportSpace
  split
  case h_8 clearing => exact absurd clearing h
  case h_1 => exact .onCsv ..
  case h_7 =>
    split
    · exact .onTimers ..
    · exact .refl l s
  case h_11 | h_12 | h_13 => exact .refl l s
  all_goals exact .onTimers ..

/-! ## What a report makes of the supervisor -/

/-- The end of a space, as the supervisor of a line in FRAMING takes it. -/
theorem reportMark_framing (h : (s.csv l).state ∈ [.calling, .selecting, .awaitConnect, .connected, .clearing, .running]) :
    let c := (reportMark s l).csv l
    c.state = (s.csv l).state ∧
    ((s.csv l).state ∈ [.selecting, .awaitConnect, .connected] ∨
        ((s.csv l).state = .calling ∧ (s.csv l).phase ≠ .confirmWait) → c = { s.csv l with
      timers := { (s.csv l).timers with clearRecognize := none } }) ∧
    ((s.csv l).state = .calling → (s.csv l).phase = .confirmWait → c = { s.csv l with
      phase := .proceedWait, timers := { (s.csv l).timers with
        callConfirm := none, proceed := some (1000 * (s.csv l).values.proceedS) } }) ∧
    ((s.csv l).state = .clearing → c = s.csv l) ∧
    ((s.csv l).state = .running → c = { s.csv l with timers := { (s.csv l).timers with fault := none } }) := by
  have stops (clear : (s.csv l).state ∈ [.selecting, .awaitConnect, .connected] ∨
      ((s.csv l).state = .calling ∧ (s.csv l).phase ≠ .confirmWait)) : (reportMark s l).csv l =
        { s.csv l with timers := { (s.csv l).timers with clearRecognize := none } } := by
    rw [reportMark_clear (clear.imp_left fun h => by simp at h ⊢; tauto)]
    exact State.onTimers_csv_same ..
  have confirms (calling : (s.csv l).state = .calling) (phase : (s.csv l).phase = .confirmWait) :=
    congrArg (State.csv · l) (reportMark_calling calling phase) |>.trans (State.onCsv_csv_same ..)
  have stays (clearing : (s.csv l).state = .clearing) : (reportMark s l).csv l = s.csv l := by
    rw [reportMark_nothing (by simp [clearing])]
  have runs (running : (s.csv l).state = .running) :=
    congrArg (State.csv · l) (reportMark_running running) |>.trans (State.onTimers_csv_same ..)
  refine ⟨?_, stops, confirms, stays, runs⟩
  simp only [List.mem_cons, List.not_mem_nil, or_false] at h
  obtain h | h | h | h | h | h := h
  · by_cases phase : (s.csv l).phase = .confirmWait
    · rw [confirms h phase]
    · rw [stops (.inr ⟨h, phase⟩)]
  iterate 3 rw [stops (.inl (by simp [h]))]
  · rw [stays h]
  · rw [runs h]

/-- A change of condition, as the supervisor of a line in CONDITION takes it. -/
theorem report_condition (s : State) (l : LineId) (v : Level) :
    let t := report s l v
    ((s.csv l).state = .free → v = .mark → (t.csv l).state = .incoming ∧
      (t.csv l).timers.recognize = some (s.csv l).values.callRecognizeMs ∧
      (s.tbu.state = .standby → t.tbu.state = .waking ∧ t.tbu.wakeCause = callCause l)) ∧
    ((s.csv l).state = .incoming → v = .space → (t.csv l).state = .free ∧ (t.csv l).timers.recognize = none) ∧
    ((s.csv l).state = .answering ∨ (s.csv l).state = .refusing → (t.csv l).state = (s.csv l).state ∧
      (t.csv l).timers.clearRecognize = if v = .space then some (s.csv l).values.clearRecognizeMs else none) ∧
    ((s.csv l).state = .fault → (t.csv l).state = .fault ∧
      (t.csv l).timers.recovery = if v = .mark then some 100 else none) ∧
    ((s.csv l).state = .guard → t.csv l = s.csv l) := by
  refine ⟨?_, ?_, fun clear => ?_, fun fault => ?_, fun guard => ?_⟩
  · rintro free rfl
    dsimp only [report]
    rw [reportMark_free free]
    have csv := State.onTimers_csv_same (s.enterSup l .incoming) l fun t =>
      { t with recognize := some (s.csv l).values.callRecognizeMs }
    have asleep : (State.onTimers (s.enterSup l .incoming) l fun t =>
      { t with recognize := some (s.csv l).values.callRecognizeMs }).tbu = s.tbu := rfl
    generalize State.onTimers _ l _ = t at csv asleep ⊢
    have kept : (t.requestWake (callCause l)).csv l = t.csv l := by rw [requestWake_eq]; rfl
    rw [kept, csv, State.enterSup, State.onCsv_csv_same]
    exact ⟨rfl, rfl, fun h => by rw [requestWake_standby (by rwa [asleep])]; exact ⟨rfl, rfl⟩⟩
  · rintro incoming rfl
    dsimp only [report]
    rw [reportSpace_incoming incoming, State.enterSup, State.onCsv_csv_same]
    exact ⟨rfl, rfl⟩
  · have marked : (s.csv l).state ∈ [.answering, .refusing, .selecting, .awaitConnect, .connected] := by
      simp; tauto
    cases v <;> dsimp only [report]
    · rw [reportSpace_clear clear, startClear, State.onTimers_csv_same]
      exact ⟨rfl, rfl⟩
    · rw [reportMark_clear (.inl marked), stopClear, State.onTimers_csv_same]
      exact ⟨rfl, rfl⟩
  · cases v <;> dsimp only [report]
    · rw [reportSpace_fault fault, State.onTimers_csv_same]
      exact ⟨fault, rfl⟩
    · rw [reportMark_fault fault, State.onTimers_csv_same]
      exact ⟨fault, rfl⟩
  · cases v <;> dsimp only [report]
    · rw [reportSpace_nothing (by simp [guard])]
    · rw [reportMark_nothing (by simp [guard])]

/-! ## The end of a space (R42) -/

/-- What a receiver goes on to where it does not resume a hunt: HUNTING, or BLANKED by a half-duplex line's own
transmitter (R43). -/
theorem huntOrBlank_false (s : State) (l : LineId) : huntOrBlank s l false =
    if halfDuplex s l = true ∧ (s.unit l).tx.state ≠ .idle then .blanked else .hunting false false := by
  simp [huntOrBlank]

theorem spaceHeldEnd_waits {m : Nat} (mode : (s.unit l).rx.mode = .framing) (sub : (s.unit l).rx.sub = .spaceHeld m)
    (short : m < 32) : spaceHeldEnd l s = s := by
  rw [spaceHeldEnd, mode, sub]
  exact if_neg (Nat.not_le.mpr short)

theorem spaceHeldEnd_ends {m : Nat} (mode : (s.unit l).rx.mode = .framing) (sub : (s.unit l).rx.sub = .spaceHeld m)
    (long : 32 ≤ m) : spaceHeldEnd l s = reportMark (s.onRx l fun r => { r with sub := huntOrBlank s l false }) l := by
  rw [spaceHeldEnd, mode, sub]
  exact if_pos long

theorem spaceHeldEnd_not (h : ¬ ((s.unit l).rx.mode = .framing ∧ ∃ m, (s.unit l).rx.sub = .spaceHeld m)) :
    spaceHeldEnd l s = s := by
  unfold spaceHeldEnd
  split
  · next m mode sub => exact absurd ⟨mode, m, sub⟩ h
  all_goals rfl

/-! ## A change of condition (R40) -/

theorem conditionChange_not (h : ¬ ((s.unit l).rx.mode = .condition ∧ (s.unit l).rx.last ≠ (s.unit l).rx.known)) :
    conditionChange l s = s := if_neg h

theorem conditionChange_reports (mode : (s.unit l).rx.mode = .condition) (new : (s.unit l).rx.last ≠ (s.unit l).rx.known) :
    conditionChange l s = report (s.onRx l fun r => { r with known := r.last }) l (s.unit l).rx.last := if_pos ⟨mode, new⟩

/-- The states in which a receiver is in CONDITION, and in FRAMING (R39). -/
theorem state_of_condition {st : SupState} {r : Bool} (h : RxMode.condition = st.rxMode r) :
    st ∈ [.free, .incoming, .answering, .refusing, .guard, .fault] := by
  cases st <;> cases r <;> simp [SupState.rxMode] at h ⊢

theorem state_of_framing {st : SupState} {r : Bool} (h : RxMode.framing = st.rxMode r) :
    st ∈ [.calling, .selecting, .awaitConnect, .connected, .clearing, .running] := by
  cases st <;> cases r <;> simp [SupState.rxMode] at h ⊢

/-- A condition reported by a receiver in CONDITION changes line l's receiver and supervisor, and asks for a wake on a call. -/
theorem report_after_rx (f : Receiver → Receiver) (v : Level)
    (h : (s.csv l).state ∈ [.free, .incoming, .answering, .refusing, .guard, .fault]) :
    let t := report (s.onRx l f) l v
    t = { s with lu := t.lu, sup := t.sup, tbu := t.tbu } ∧ OtherLineKept s t l ∧
      t.unit l = { s.unit l with rx := f (s.unit l).rx } ∧ (s.tbu.state ≠ .standby → t.tbu = s.tbu) := by
  have clearing : ((s.onRx l f).csv l).state ≠ .clearing := fun e => by
    rw [show (s.csv l).state = .clearing from e] at h
    simp at h
  by_cases call : ((s.onRx l f).csv l).state = .free ∧ v = .mark
  · obtain ⟨free, rfl⟩ := call
    dsimp only [report]
    rw [reportMark_free free]
    have only : CsvOnly l (s.onRx l f) (((s.onRx l f).enterSup l .incoming).onTimers l fun t =>
        { t with recognize := some ((s.onRx l f).csv l).values.callRecognizeMs }) := (CsvOnly.onCsv ..).trans (.onTimers ..)
    generalize State.onTimers _ l _ = t at only ⊢
    obtain ⟨lines, line, unit⟩ := only.after_rx
    refine ⟨?_, line.otherLineKept.trans (requestWake_otherLineKept t _ l), ?_, fun awake => ?_⟩
    · rw [requestWake_eq, lines]
    · rw [requestWake_eq]; exact unit
    · rw [requestWake_awake (by rwa [lines.tbu]), lines.tbu]
  · have only : CsvOnly l (s.onRx l f) (report (s.onRx l f) l v) := by
      cases v with
      | space => exact reportSpace_only clearing
      | mark => exact reportMark_only fun free => call ⟨free, rfl⟩
    obtain ⟨lines, line, unit⟩ := only.after_rx
    exact ⟨by rw [lines], line.otherLineKept, unit, fun _ => lines.tbu⟩

/-! ## A space in standby (R49) -/

theorem watchSpace_not (h : ¬ ((s.unit l).rx.mode = .watch ∧ (s.unit l).rx.watchSeen = true)) : watchSpace l s = s :=
  if_neg h

/-- A space seen in WATCH is counted, and asks for a wake. -/
theorem watchSpace_counts (mode : (s.unit l).rx.mode = .watch) (seen : (s.unit l).rx.watchSeen = true) :
    watchSpace l s = (s.onUnit l fun u => { u with
      rx := { u.rx with watchSeen := false }
      stats := { u.stats with lostInStandby := min (u.stats.lostInStandby + 1) 65535 } }).requestWake (spaceCause l) := by
  unfold watchSpace
  rw [if_pos ⟨mode, seen⟩]
  cases l <;> rfl

end Sys2Proof.Machine
end

section
/-! PROOF. The obligation on the conditions that a line reports. -/

open Sys2Proof Sys2Proof.Machine

/-- Settles O31: each row by the report that it makes to the supervisor. -/
theorem reportedConditionsReachTheSupervisor : Obligations.ReportedConditionsReachTheSupervisor := by
  refine fun l s => ⟨fun m mode sub follows => ⟨fun short => congrArg Host.Outcome.next (spaceHeldEnd_waits mode sub short),
    fun long => ⟨_, congrArg Host.Outcome.next (spaceHeldEnd_ends mode sub long), ?_⟩⟩,
    fun h => congrArg Host.Outcome.next (spaceHeldEnd_not h), fun h => congrArg Host.Outcome.next (conditionChange_not h),
    fun mode new follows => ⟨_, congrArg Host.Outcome.next (conditionChange_reports mode new), ?_⟩,
    fun h => congrArg Host.Outcome.next (watchSpace_not h),
    fun mode seen => ⟨_, congrArg Host.Outcome.next (watchSpace_counts mode seen), ?_⟩⟩
  · have state := state_of_framing (mode.symm.trans ((modesFollow_iff s).mp follows l))
    have framed : ((s.onRx l fun r => { r with sub := huntOrBlank s l false }).csv l).state ≠ .free := fun e => by
      rw [show (s.csv l).state = .free from e] at state
      simp at state
    obtain ⟨lines, line, unit⟩ := (reportMark_only framed).after_rx
    refine ⟨lines, line.otherLineKept, by rw [unit], by rw [unit, ← huntOrBlank_false], ?_⟩
    exact reportMark_framing (s := s.onRx l fun r => { r with sub := huntOrBlank s l false }) state
  · have state := state_of_condition (mode.symm.trans ((modesFollow_iff s).mp follows l))
    obtain ⟨only, other, unit, awake⟩ := report_after_rx (fun r => { r with known := r.last }) (s.unit l).rx.last state
    obtain ⟨call, free, clear, fault, guard⟩ :=
      report_condition (s.onRx l fun r => { r with known := r.last }) l (s.unit l).rx.last
    exact ⟨only, other, unit, by cases l <;> exact call, free, clear, fault, guard, awake⟩
  · generalize e : s.onUnit l _ = u
    have unit : ∀ k, k ≠ l → u.unit k = s.unit k := fun k n => e ▸ State.onUnit_unit_ne s _ n
    have kept : (u.requestWake (spaceCause l)).lu = u.lu := by rw [requestWake_eq]
    refine ⟨?_, fun k n => ?_, ?_, fun awake => ?_, fun asleep => ?_⟩
    · rw [requestWake_eq, ← e]; rfl
    · rw [← unit k n, State.unit, kept]; rfl
    · rw [State.unit, kept, ← e]; exact State.onUnit_unit_same ..
    · rw [← e, requestWake_awake (by exact awake)]; rfl
    · rw [← e, requestWake_standby (by exact asleep)]
      cases l <;> exact ⟨rfl, rfl⟩

end

section
/-! SUPPORT. The payload of SET_LINE (R32, R33, R184). -/

namespace Sys2Proof.Machine

open Sys2Proof

/-! ## Fields of a payload, as they are sent (R184) -/

theorem u16_e2 {n : Nat} (h : n < 65536) : u16 (BitVec.ofNat 8 n) (BitVec.ofNat 8 (n / 256)) = n := by
  simp only [u16, BitVec.toNat_ofNat]
  omega

theorem inRange_some {lo hi n : Nat} (low : lo ≤ n) (high : n ≤ hi) : inRange lo hi n = some n := if_pos ⟨low, high⟩

theorem inRange_of_some {lo hi n m : Nat} (h : inRange lo hi n = some m) : lo ≤ n ∧ n ≤ hi := by
  unfold inRange at h
  split at h
  · assumption
  · cases h

theorem readLine_code (l : LineId) : readLine (BitVec.ofNat 8 (lineCode l)) = some l := by cases l <;> rfl
theorem readLineType_code (x : LineType) : readLineType (BitVec.ofNat 8 x.code) = some x := by cases x <;> rfl
theorem readBool_code (x : Bool) : readBool (BitVec.ofNat 8 x.toNat) = some x := by cases x <;> rfl
theorem readStop_code (x : StopLength) : readStop (BitVec.ofNat 8 x.code) = some x := by cases x <;> rfl
theorem readDuplex_code (x : Duplex) : readDuplex (BitVec.ofNat 8 x.code) = some x := by cases x <;> rfl

/-- A byte that is read as one of two values is 0 or 1. -/
theorem le_one_of_read {α : Type} {b : Byte} {x y z : α}
    (h : (if b = 0 then some x else if b = 1 then some y else none) = some z) : b.toNat ≤ 1 := by
  split at h
  · next e => subst e; decide
  · split at h
    · next e => subst e; decide
    · cases h

theorem le_two_of_readStop {b : Byte} {x : StopLength} (h : readStop b = some x) : b.toNat ≤ 2 := by
  unfold readStop at h
  split at h
  · next e => subst e; decide
  · split at h
    · next e => subst e; decide
    · split at h
      · next e => subst e; decide
      · cases h

/-! ## SET_LINE (R32, R33) -/

/-- A payload that SET_LINE takes has every field in its range. -/
theorem readSetLine_ranges {line ty en r0 r1 st du us t0 t1 al : Byte} {l : LineId} {c : LineConfig}
    (h : readSetLine [line, ty, en, r0, r1, st, du, us, t0, t1, al] = some (l, c)) :
    line.toNat ≤ 1 ∧ ty.toNat ≤ 1 ∧ en.toNat ≤ 1 ∧ 4500 ≤ u16 r0 r1 ∧ u16 r0 r1 ≤ 30000 ∧ st.toNat ≤ 2 ∧ du.toNat ≤ 1 ∧
      us.toNat ≤ 1 ∧ 50 ≤ u16 t0 t1 ∧ u16 t0 t1 ≤ 1000 ∧ 4 ≤ al.toNat ∧ al.toNat ≤ 32 := by
  simp only [readSetLine, Option.bind_eq_bind, Option.bind_eq_some_iff] at h
  obtain ⟨_, line, _, ty, _, en, _, rate, _, st, _, du, _, us, _, turn, _, al, -⟩ := h
  have ⟨rate1, rate2⟩ := inRange_of_some rate
  have ⟨turn1, turn2⟩ := inRange_of_some turn
  have ⟨al1, al2⟩ := inRange_of_some al
  exact ⟨le_one_of_read line, le_one_of_read ty, le_one_of_read en, rate1, rate2, le_two_of_readStop st, le_one_of_read du,
    le_one_of_read us, turn1, turn2, al1, al2⟩

/-- A record with its figures in their ranges is read as it is sent. -/
theorem readSetLine_code (l : LineId) {c : LineConfig} (rate1 : 4500 ≤ c.rate) (rate2 : c.rate ≤ 30000)
    (turn1 : 50 ≤ c.turnaroundMs) (turn2 : c.turnaroundMs ≤ 1000) (al1 : 4 ≤ c.alarmThreshold) (al2 : c.alarmThreshold ≤ 32) :
    readSetLine (e1 (lineCode l) ++ eLineConfig c) = some (l, c) := by
  have al : (BitVec.ofNat 8 c.alarmThreshold).toNat = c.alarmThreshold := by
    rw [BitVec.toNat_ofNat]; omega
  simp only [eLineConfig, e1, e2, eBool, List.cons_append, List.nil_append, readSetLine, readLine_code, readLineType_code,
    readBool_code, readStop_code, readDuplex_code, u16_e2 (show c.rate < 65536 by omega),
    u16_e2 (show c.turnaroundMs < 65536 by omega), al, inRange_some rate1 rate2, inRange_some turn1 turn2,
    inRange_some al1 al2]
  rfl

end Sys2Proof.Machine
end

section
/-! SUPPORT. What SET_LINE makes of a line: DISABLED, FREE and RUNNING (R34, R36, R38, R92, R101, R117). -/

namespace Sys2Proof.Machine

open Sys2Proof

variable {s t u : State} {l k : LineId}

/-! ## The common frame -/

/-- `t` comes from `s` by what a change of line l's supervisor state touches: its receiver's mode and sampling, its
transmitter, its supervisor, its selector, its shift records, its reservation and the charges. -/
structure LineSet (l : LineId) (s t : State) : Prop where
  others : OtherLineKept s t l
  tbu : t.tbu = s.tbu := by rfl
  prc : t.prc = s.prc := by rfl
  puc : t.puc = s.puc := by rfl
  mtc : t.mtc = s.mtc := by rfl
  identity : t.identity = s.identity := by rfl
  xcfg : t.xcfg = s.xcfg := by rfl
  cells : t.stm.cells = s.stm.cells := by rfl
  free : t.stm.free = s.stm.free := by rfl
  pending : t.pending = s.pending := by rfl
  cfg : (t.unit l).cfg = (s.unit l).cfg := by rfl
  acc : (t.unit l).acc = (s.unit l).acc := by rfl
  stats : (t.unit l).stats = (s.unit l).stats := by rfl
  age : (t.unit l).rx.age = (s.unit l).rx.age := by rfl

namespace LineSet

theorem refl (l : LineId) (s : State) : LineSet l s s := { others := (LineOnly.refl l s).otherLineKept }

theorem trans (a : LineSet l s t) (b : LineSet l t u) : LineSet l s u where
  others := a.others.trans b.others
  tbu := b.tbu.trans a.tbu
  prc := b.prc.trans a.prc
  puc := b.puc.trans a.puc
  mtc := b.mtc.trans a.mtc
  identity := b.identity.trans a.identity
  xcfg := b.xcfg.trans a.xcfg
  cells := b.cells.trans a.cells
  free := b.free.trans a.free
  pending := b.pending.trans a.pending
  cfg := b.cfg.trans a.cfg
  acc := b.acc.trans a.acc
  stats := b.stats.trans a.stats
  age := b.age.trans a.age

theorem onCsv (s : State) (f : Supervisor → Supervisor) : LineSet l s (s.onCsv l f) where
  others := (LineOnly.onCsv s f).otherLineKept
theorem onTimers (s : State) (f : SupTimers → SupTimers) : LineSet l s (s.onTimers l f) := onCsv ..
theorem onSelector (s : State) (f : Selector → Selector) : LineSet l s (s.onSelector l f) where
  others := (LineOnly.onSelector s f).otherLineKept
theorem onTx (s : State) (f : Transmitter → Transmitter) : LineSet l s (s.onTx l f) where
  others := (LineOnly.onTx s f).otherLineKept
  cfg := by rw [State.onTx_unit_same]
  acc := by rw [State.onTx_unit_same]
  stats := by rw [State.onTx_unit_same]
  age := by rw [State.onTx_unit_same]
theorem onRx (s : State) {f : Receiver → Receiver} (h : (f (s.unit l).rx).age = (s.unit l).rx.age) :
    LineSet l s (s.onRx l f) where
  others := (LineOnly.onRx s f).otherLineKept
  cfg := by rw [State.onRx_unit_same]
  acc := by rw [State.onRx_unit_same]
  stats := by rw [State.onRx_unit_same]
  age := by rw [State.onRx_unit_same]; exact h
theorem onRecords (s : State) (f : Nat → Rec → Rec) : LineSet l s (s.onRecords f) where
  others := (LineOnly.store (.onRecords s f)).otherLineKept

/-- A change of line l's shift records. -/
theorem shifts (s : State) (tx rx : ShiftRecord) :
    LineSet l s { s with ctr := { s.ctr with tx := s.ctr.tx.set l tx, rx := s.ctr.rx.set l rx } } where
  others := fun k n => ⟨rfl, rfl, rfl, rfl, Pair.get_set_ne _ _ n, Pair.get_set_ne _ _ n, rfl⟩

theorem forgetShifts (s : State) (l : LineId) : LineSet l s (s.forgetShifts l) := shifts ..

theorem abandonTx (s : State) (l : LineId) : LineSet l s (s.abandonTx l) := by
  unfold State.abandonTx
  split
  · exact .refl l s
  · refine (onTx s fun t => { t with state := .idle, pin := t.ordered }).trans ?_
    have := shifts (l := l) (s.onTx l fun t => { t with state := .idle, pin := t.ordered }) .unknown (s.ctr.rx.get l)
    rwa [show (s.onTx l _).ctr.rx = s.ctr.rx from rfl, Pair.set_get] at this

end LineSet

theorem evalLow_stm (s : State) : (evalLow s).stm = { s.stm with low := (evalLow s).stm.low } := by
  unfold evalLow
  dsimp only
  split <;> rfl

theorem setReservation_stm (s : State) (l : LineId) (n : Nat) : (setReservation s l n).stm =
    { s.stm with reservation := s.stm.reservation.set l n, low := (setReservation s l n).stm.low } := by
  unfold setReservation
  dsimp only
  split
  · rw [unreservedRose, evalLow_stm]
  · rw [evalLow_stm]

theorem setReservation_lineSet (s : State) (l : LineId) (n : Nat) : LineSet l s (setReservation s l n) := by
  have step : StoreStep s (setReservation s l n) := setReservation_step ..
  exact {
    others := (LineOnly.store (setReservation_step ..)).otherLineKept
    tbu := step.tbu, prc := step.prc, puc := step.puc, mtc := step.mtc, identity := step.identity, xcfg := step.xcfg
    cells := by rw [setReservation_stm]
    free := by rw [setReservation_stm]
    pending := step.pending
    cfg := by rw [step.unit], acc := by rw [step.unit], stats := by rw [step.unit], age := by rw [step.unit] }

/-! ## DISABLED (R34, R38) -/

theorem enterDisabled_lineSet (s : State) (l : LineId) : LineSet l s (enterDisabled s l) := by
  unfold enterDisabled
  exact .trans (.trans (.trans (.trans (.abandonTx ..) (.forgetShifts ..)) (.onSelector ..)) (.onRx _ rfl)) (.onCsv ..)

theorem abandonTx_idle (s : State) (l : LineId) : ((s.abandonTx l).unit l).tx.state = .idle := by
  unfold State.abandonTx
  split
  · assumption
  · cases l <;> rfl

theorem forgetShifts_unknown (s : State) (l : LineId) :
    (s.forgetShifts l).ctr.tx.get l = .unknown ∧ (s.forgetShifts l).ctr.rx.get l = .unknown :=
  ⟨Pair.get_set_same .., Pair.get_set_same ..⟩

/-- A line in DISABLED: its receiver is off, its transmitter idle, its shift records UNKNOWN. -/
theorem enterDisabled_line (s : State) (l : LineId) : ((enterDisabled s l).csv l).state = .disabled ∧
    ((enterDisabled s l).unit l).rx.mode = .off ∧ ((enterDisabled s l).unit l).tx.state = .idle ∧
    (enterDisabled s l).ctr.tx.get l = .unknown ∧ (enterDisabled s l).ctr.rx.get l = .unknown := by
  have unknown := forgetShifts_unknown (s.abandonTx l) l
  have idle : (((s.abandonTx l).forgetShifts l).unit l).tx.state = .idle := abandonTx_idle s l
  unfold enterDisabled
  generalize (s.abandonTx l).forgetShifts l = u at unknown idle ⊢
  refine ⟨enterSup_state .., ?_, ?_, unknown⟩
  · cases l <;> rfl
  · cases l <;> exact idle

/-! ## FREE (R34, R101) -/

theorem enterIncoming_awake (h : s.tbu.state ≠ .standby) (l : LineId) :
    LineSet l s (enterIncoming s l) ∧ (enterIncoming s l).unit l = s.unit l ∧
      ((enterIncoming s l).csv l).state = .incoming := by
  unfold enterIncoming
  dsimp only
  rw [requestWake_awake (by exact h)]
  refine ⟨.trans (.onCsv ..) (.onTimers ..), rfl, ?_⟩
  rw [State.onTimers_csv_same]
  exact enterSup_state ..

/-- A line in FREE, or in INCOMING at once under a mark: space is ordered, and the receiver is in CONDITION. -/
theorem enterFree_line (h : s.tbu.state ≠ .standby) (l : LineId) :
    let t := enterFree s l
    LineSet l s t ∧ (t.unit l).tx.ordered = .space ∧ (t.unit l).rx.mode = .condition ∧
      (t.csv l).state = if (t.unit l).rx.known = .mark then .incoming else .free := by
  have conditioned : LineSet l s (enterCondition (s.enterSup l .free) l) := by
    refine .trans (.onCsv ..) (.onRx _ ?_)
    split <;> rfl
  have mode := (congrArg Receiver.mode (order_rx (enterCondition (s.enterSup l .free) l) l .space)).trans
    (enterCondition_mode ..)
  have freed : LineSet l s ((enterCondition (s.enterSup l .free) l).order l .space) := conditioned.trans (.onTx ..)
  have state : (((enterCondition (s.enterSup l .free) l).order l .space).csv l).state = .free := enterSup_state ..
  have ordered := order_ordered (enterCondition (s.enterSup l .free) l) l .space
  unfold enterFree
  generalize (enterCondition (s.enterSup l .free) l).order l .space = u at mode freed state ordered ⊢
  dsimp only
  obtain ⟨set, unit, incoming⟩ := enterIncoming_awake (s := u) (by rwa [freed.tbu]) l
  split
  · next known =>
    rw [unit]
    exact ⟨freed.trans set, ordered, mode, incoming.trans (if_pos known).symm⟩
  · exact ⟨freed, ordered, mode, state⟩

/-! ## RUNNING (R34, R92, R117) -/

/-- A line on its way into RUNNING, before its receiver frames: the connection is counted, nothing is reserved, the shift
records are UNKNOWN, no record is charged, and mark is ordered. -/
def runningBegun (s : State) (l : LineId) : State :=
  let s := (s.enterSup l .running).onCsv l fun c =>
    { c with callCount := nextCall c.callCount, direction := .none, remaining := .unlimited, ending := false
             abActive := false }
  let s := (setReservation s l 0).forgetShifts l
  (dropCharges (s.onSelector l fun x => { x with deferral := false }) l).order l .mark

theorem runningBegun_lineSet (s : State) (l : LineId) : LineSet l s (runningBegun s l) := by
  unfold runningBegun
  refine .trans (.trans (.trans (.trans (.trans ?_ (setReservation_lineSet ..)) (.forgetShifts ..)) (.onSelector ..))
    (.onRecords ..)) (.onTx ..)
  exact (LineSet.onCsv ..).trans (.onCsv ..)

/-- What the entry into RUNNING makes of the line's connection, its shift records and the records (R92, R117). -/
theorem runningBegun_line (s : State) (l : LineId) :
    let t := runningBegun s l
    (t.csv l).state = .running ∧ (t.csv l).callCount = nextCall (s.csv l).callCount ∧ (t.csv l).direction = .none ∧
      (t.csv l).remaining = .unlimited ∧ (t.unit l).tx.ordered = .mark ∧ t.stm.reservation.get l = 0 ∧
      t.ctr.tx.get l = .unknown ∧ t.ctr.rx.get l = .unknown ∧
      ∀ i, t.record i = (s.record i).map fun r => { r with charged := r.charged.set l false } := by
  unfold runningBegun
  dsimp only
  have counted := State.onCsv_csv_same (s.enterSup l .running) l fun c =>
    { c with callCount := nextCall c.callCount, direction := .none, remaining := .unlimited, ending := false
             abActive := false }
  have stm : ((s.enterSup l .running).onCsv l fun c =>
    { c with callCount := nextCall c.callCount, direction := .none, remaining := .unlimited, ending := false
             abActive := false }).stm = s.stm := rfl
  generalize State.onCsv _ l _ = u at counted stm ⊢
  have csv : (setReservation u l 0).csv l = u.csv l := StoreStep.csv (setReservation_step ..) l
  have stored := setReservation_stm u l 0
  generalize setReservation u l 0 = v at csv stored ⊢
  have unknown := forgetShifts_unknown v l
  have same : ((dropCharges ((v.forgetShifts l).onSelector l fun x => { x with deferral := false }) l).order l .mark).csv l =
    v.csv l := rfl
  rw [same, csv, counted, State.enterSup, State.onCsv_csv_same]
  refine ⟨rfl, rfl, rfl, rfl, order_ordered .., ?_, unknown.1, unknown.2, fun i => ?_⟩
  · show v.stm.reservation.get l = 0
    rw [stored]
    exact Pair.get_set_same ..
  · refine (dropCharges_record ((v.forgetShifts l).onSelector l _) l i).trans ?_
    have recs : v.stm.recs = s.stm.recs := by rw [stored, ← stm]
    show ((v.stm.recs[i]?).join).map _ = _
    rw [recs]
    rfl

theorem enterRunning_running (h : s.running = true) (l : LineId) : enterRunning s l =
    if (((runningBegun s l).onRx l Receiver.frame).unit l).rx.inSpace then
      ((runningBegun s l).onRx l Receiver.frame).onTimers l fun t => { t with fault := some 1000 }
    else (runningBegun s l).onRx l Receiver.frame := by
  have runs : (runningBegun s l).running = true := by
    rw [State.running, (runningBegun_lineSet s l).tbu]; exact h
  have begun : enterRunning s l = (let t := (runningBegun s l).onRx l fun r =>
      if (runningBegun s l).running then r.frame else r.watch
    if (t.unit l).rx.inSpace then t.onTimers l fun t => { t with fault := some 1000 } else t) := rfl
  rw [begun, runs]
  rfl

/-- A line in RUNNING in a part that runs: its receiver frames. -/
theorem enterRunning_line (h : s.running = true) (l : LineId) :
    let t := enterRunning s l
    LineSet l s t ∧ (t.csv l).state = .running ∧ (t.unit l).tx.ordered = .mark ∧ (t.unit l).rx.mode = .framing ∧
      (t.csv l).callCount = nextCall (s.csv l).callCount ∧ (t.csv l).direction = .none ∧
      (t.csv l).remaining = .unlimited ∧ t.stm.reservation.get l = 0 ∧
      t.ctr.tx.get l = .unknown ∧ t.ctr.rx.get l = .unknown ∧
      ∀ i, t.record i = (s.record i).map fun r => { r with charged := r.charged.set l false } := by
  rw [enterRunning_running h]
  dsimp only
  have begun := runningBegun_lineSet s l
  obtain ⟨state, count, direction, remaining, ordered, rest⟩ := runningBegun_line s l
  generalize runningBegun s l = u at begun state count direction remaining ordered rest ⊢
  have framed : LineSet l u (u.onRx l Receiver.frame) := .onRx _ (by unfold Receiver.frame; split <;> rfl)
  have unit := State.onRx_unit_same u l Receiver.frame
  split
  · rw [State.onTimers_csv_same]
    refine ⟨begun.trans (framed.trans (.onTimers ..)), state, ?_, ?_, count, direction, remaining, rest⟩
    · exact (congrArg (·.tx.ordered) unit).trans ordered
    · exact (congrArg (·.rx.mode) unit).trans (Receiver.frame_mode _)
  · refine ⟨begun.trans framed, state, ?_, ?_, count, direction, remaining, rest⟩
    · exact (congrArg (·.tx.ordered) unit).trans ordered
    · exact (congrArg (·.rx.mode) unit).trans (Receiver.frame_mode _)

/-! ## The change of state of SET_LINE (R34) -/

theorem configurable_iff (x : SupState) : x.configurable = true ↔ x = .disabled ∨ x = .free ∨ x = .fault := by
  cases x <;> simp [SupState.configurable]

section
variable {c : LineConfig}

theorem setLineState_stays (h : (s.csv l).state = .disabled ∧ c.enable = false ∨
    (s.csv l).state = .free ∧ c.enable = true ∧ c.lineType = .switched ∨
    (s.csv l).state = .fault ∧ c.enable = true ∧ c.lineType = .privateLine) : setLineState s l c = s := by
  obtain ⟨state, off⟩ | ⟨state, on, type⟩ | ⟨state, on, type⟩ := h
  · rw [setLineState, state, off]
  · rw [setLineState, state, on, type]
  · rw [setLineState, state, on, type]

theorem setLineState_disabled (before : (s.csv l).state = .free ∨ (s.csv l).state = .fault) (off : c.enable = false) :
    setLineState s l c = enterDisabled s l := by
  obtain state | state := before <;> rw [setLineState, state, off]

theorem setLineState_free (before : (s.csv l).state = .disabled ∨ (s.csv l).state = .fault) (on : c.enable = true)
    (type : c.lineType = .switched) : setLineState s l c = enterFree s l := by
  obtain state | state := before <;> rw [setLineState, state, on, type]

theorem setLineState_running (before : (s.csv l).state = .disabled ∨ (s.csv l).state = .free) (on : c.enable = true)
    (type : c.lineType = .privateLine) : setLineState s l c = enterRunning s l := by
  obtain state | state := before <;> rw [setLineState, state, on, type]

/-- With ENABLE off the line ends in DISABLED (R34, R38). -/
theorem setLineState_off (before : (s.csv l).state = .disabled ∨ (s.csv l).state = .free ∨ (s.csv l).state = .fault)
    (off : c.enable = false) :
    let t := setLineState s l c
    (t.csv l).state = .disabled ∧ ((s.csv l).state ≠ .disabled → (t.unit l).rx.mode = .off ∧ (t.unit l).tx.state = .idle ∧
      t.ctr.tx.get l = .unknown ∧ t.ctr.rx.get l = .unknown) := by
  obtain disabled | enabled := before
  · rw [setLineState_stays (.inl ⟨disabled, off⟩)]
    exact ⟨disabled, fun ne => absurd disabled ne⟩
  · rw [setLineState_disabled enabled off]
    obtain ⟨state, rest⟩ := enterDisabled_line s l
    exact ⟨state, fun _ => rest⟩

/-- A switched line stays in FREE or enters it (R34, R101). -/
theorem setLineState_switched (awake : s.tbu.state ≠ .standby)
    (before : (s.csv l).state = .disabled ∨ (s.csv l).state = .free ∨ (s.csv l).state = .fault)
    (on : c.enable = true) (type : c.lineType = .switched) :
    let t := setLineState s l c
    ((s.csv l).state = .free → t = s) ∧ ((s.csv l).state ≠ .free → (t.unit l).tx.ordered = .space ∧
      (t.unit l).rx.mode = .condition ∧ (t.csv l).state = if (t.unit l).rx.known = .mark then .incoming else .free) := by
  refine ⟨fun free => setLineState_stays (.inr (.inl ⟨free, on, type⟩)), fun ne => ?_⟩
  rw [setLineState_free (before.imp_right (Or.resolve_left · ne)) on type]
  exact (enterFree_line awake l).2

/-- A PRIVATE line stays in FAULT or enters RUNNING (R34, R92, R117). -/
theorem setLineState_privateLine (runs : s.running = true)
    (before : (s.csv l).state = .disabled ∨ (s.csv l).state = .free ∨ (s.csv l).state = .fault)
    (on : c.enable = true) (type : c.lineType = .privateLine) :
    let t := setLineState s l c
    ((s.csv l).state = .fault → t = s) ∧ ((s.csv l).state ≠ .fault →
      (t.csv l).state = .running ∧ (t.unit l).tx.ordered = .mark ∧ (t.unit l).rx.mode = .framing ∧
      (t.csv l).callCount = nextCall (s.csv l).callCount ∧ (t.csv l).direction = .none ∧
      (t.csv l).remaining = .unlimited ∧ t.stm.reservation.get l = 0 ∧
      t.ctr.tx.get l = .unknown ∧ t.ctr.rx.get l = .unknown ∧
      ∀ i, t.record i = (s.record i).map fun r => { r with charged := r.charged.set l false }) := by
  refine ⟨fun fault => setLineState_stays (.inr (.inr ⟨fault, on, type⟩)), fun ne => ?_⟩
  rw [setLineState_running (before.imp_right (Or.resolve_right · ne)) on type]
  exact (enterRunning_line runs l).2

theorem awake_of_running (h : s.running = true) : s.tbu.state ≠ .standby := fun e => by
  rw [State.running, e] at h; cases h

theorem setLineState_lineSet (h : s.running = true) (l : LineId) (c : LineConfig) : LineSet l s (setLineState s l c) := by
  have awake := awake_of_running h
  unfold setLineState
  split
  case h_2 | h_3 => exact enterDisabled_lineSet ..
  case h_4 | h_5 => exact (enterFree_line awake l).1
  case h_7 | h_8 => exact (enterRunning_line h l).1
  all_goals exact .refl l s

end

/-! ## The command (R25, R33) -/

/-- Line l with this configuration record, its increment and error recomputed. -/
def configured (s : State) (l : LineId) (c : LineConfig) : State := (s.onUnit l fun u => { u with cfg := c }).recompute l

theorem recompute_inc (s : State) (l : LineId) :
    (s.recompute l).tbu.inc.get l = increment (s.unit l).cfg.rate s.tbu.believedF ∧
      (s.recompute l).tbu.rateError.get l =
        rateErrorOf (s.unit l).cfg.rate s.tbu.believedF ((s.recompute l).tbu.inc.get l) := by
  have inc : (s.recompute l).tbu.inc.get l = increment (s.unit l).cfg.rate s.tbu.believedF := Pair.get_set_same ..
  rw [inc]
  exact ⟨rfl, Pair.get_set_same ..⟩

theorem configured_line (s : State) (l : LineId) (c : LineConfig) :
    let u := configured s l c
    OtherLineKept s u l ∧ u.unit l = { s.unit l with cfg := c } ∧
      u.tbu = { s.tbu with inc := u.tbu.inc, rateError := u.tbu.rateError } ∧
      u.tbu.inc.get l = increment c.rate s.tbu.believedF ∧
      u.tbu.rateError.get l = rateErrorOf c.rate s.tbu.believedF (u.tbu.inc.get l) := by
  have unit := State.onUnit_unit_same s l fun u => { u with cfg := c }
  have rates := recompute_inc (s.onUnit l fun u => { u with cfg := c }) l
  rw [unit] at rates
  exact ⟨fun k n => ⟨(recompute_unit ..).trans (State.onUnit_unit_ne s _ n), rfl, rfl, rfl, rfl, rfl,
    Pair.get_set_ne _ _ n⟩, (recompute_unit ..).trans unit, rfl, rates⟩

theorem cmdSetLine_taken {p : List Byte} {c : LineConfig} (read : readSetLine p = some (l, c))
    (h : (s.csv l).state = .disabled ∨ (s.csv l).state = .free ∨ (s.csv l).state = .fault) :
    cmdSetLine p s = .ok (setLineState (configured s l c) l c) [] := by
  rw [cmdSetLine, withArgs, read]
  exact if_pos ((configurable_iff _).mpr h)

theorem cmdSetLine_wrongState {p : List Byte} {c : LineConfig} (read : readSetLine p = some (l, c))
    (h : ¬ ((s.csv l).state = .disabled ∨ (s.csv l).state = .free ∨ (s.csv l).state = .fault)) :
    cmdSetLine p s = .refuse s .wrongState := by
  rw [cmdSetLine, withArgs, read]
  exact if_neg (mt (configurable_iff _).mp h)

theorem cmdSetLine_badArgument {p : List Byte} (read : readSetLine p = none) (s : State) :
    cmdSetLine p s = .refuse s .badArgument := by
  rw [cmdSetLine, withArgs, read]

end Sys2Proof.Machine
end

section
/-! PROOF. The obligation on SET_LINE. -/

open Sys2Proof Sys2Proof.Machine

/-- Settles O24: what the payload reads as, the record with the increments, and the line's entry into its new state. -/
theorem setLineReplacesTheRecord : Obligations.SetLineReplacesTheRecord := by
  refine ⟨fun line ty en st du us al rate turn s ready rateFits turnFits bad => ?_,
    fun l c s ready _ rate1 rate2 turn1 turn2 al1 al2 => ?_⟩
  · have unread : readSetLine ([line, ty, en] ++ e2 rate ++ [st, du, us] ++ e2 turn ++ [al]) = none := by
      rw [Option.eq_none_iff_forall_ne_some]
      rintro ⟨l, c⟩ read
      have ranges := readSetLine_ranges read
      rw [u16_e2 rateFits, u16_e2 turnFits] at ranges
      exact bad ranges
    exact congrArg Host.Outcome.next
      (consoleRow_refused _ _ _ _ ready (by simp [e2]) _ (cmdSetLine_badArgument unread _))
  · have read := readSetLine_code l rate1 rate2 turn1 turn2 al1 al2
    have short : (e1 (lineCode l) ++ eLineConfig c).length ≤ 248 := by simp [eLineConfig, e1, e2, eBool]
    refine ⟨fun inUse => ?_, fun before => ?_⟩
    · exact congrArg Host.Outcome.next (consoleRow_refused _ _ _ _ ready short _ (cmdSetLine_wrongState read inUse))
    · refine ⟨_, congrArg Host.Outcome.next (consoleRow_ok ready short (cmdSetLine_taken read before)), rfl, ?_⟩
      generalize 3 + (e1 (lineCode l) ++ eLineConfig c).length = n
      have runs : (configured (s.zeros n) l c).running = true := ready.2.2
      have awake : (configured (s.zeros n) l c).tbu.state ≠ .standby := awake_of_running ready.2.2
      obtain ⟨others, unit, tbu, inc, error⟩ := configured_line (s.zeros n) l c
      have set := setLineState_lineSet runs l c
      refine ⟨set.cfg.trans (congrArg LineUnit.cfg unit), set.acc.trans (congrArg LineUnit.acc unit :),
        set.stats.trans (congrArg LineUnit.stats unit :), set.age.trans (congrArg (·.rx.age) unit :), ?_,
        (congrArg (·.inc.get l) set.tbu).trans inc, ?_, others.trans set.others, set.prc, set.puc, set.mtc, set.identity,
        set.xcfg, set.cells, set.free, set.pending, setLineState_off before, fun on type => ?_, fun on type => ?_⟩
      · have kept := set.tbu
        generalize setLineState (configured (s.zeros n) l c) l c = t at kept ⊢
        show t.tbu = { s.tbu with inc := t.tbu.inc, rateError := t.tbu.rateError }
        rw [kept]
        exact tbu
      · have kept := set.tbu
        generalize setLineState (configured (s.zeros n) l c) l c = t at kept ⊢
        show t.tbu.rateError.get l = rateErrorOf c.rate s.tbu.believedF (t.tbu.inc.get l)
        rw [kept]
        exact error
      · obtain ⟨stays, enters⟩ := setLineState_switched awake before on type
        exact ⟨fun free => ⟨congrArg (·.csv l) (stays free), (congrArg (fun t => (t.unit l).rx) (stays free)).trans
          (congrArg LineUnit.rx unit)⟩, enters⟩
      · obtain ⟨stays, enters⟩ := setLineState_privateLine runs before on type
        exact ⟨fun fault => ⟨(congrArg (·.csv l) (stays fault) :), (congrArg State.ctr (stays fault) :)⟩, enters⟩

end

section
/-! SUPPORT. The payloads of the status commands (R15, R48, R69, R71, R97, R143, R160, R174, R182, R184). -/

namespace Sys2Proof.Machine

open Sys2Proof

variable {s u : State} {c : Command} {body : List Byte → State → Reply} {p q : List Byte}

/-! ## A command that answers OK -/

/-- A command that answers OK: the state it makes, with that response ready (R183, R185). -/
theorem consoleRow_reports {n : Nat} (h : Ready s) (size : p.length = n) (fits : n ≤ 248)
    (e : body p (s.zeros (3 + n)) = .ok (u.zeros (3 + n)) q) :
    (.next (consoleRow c body p s) : Host.Outcome State Fault Refusal) = .next (answered n .ok q u) := by
  subst size
  exact congrArg Host.Outcome.next (consoleRow_ok h fits e)

/-- A command whose byte is outside its range (R183, R184). -/
theorem consoleRow_refuses {b : Byte} (h : Ready s) (e : body [b] (s.zeros 4) = .refuse (s.zeros 4) .badArgument) :
    (.next (consoleRow c body [b] s) : Host.Outcome State Fault Refusal) = .next (refused 1 .badArgument s) :=
  congrArg Host.Outcome.next (consoleRow_refused c body [b] s h (Nat.le_of_ble_eq_true rfl) .badArgument e)

theorem withArgs_some {α : Type} {read : List Byte → Option α} {a : α} (h : read p = some a) (f : α → Reply) :
    withArgs read p s f = f a := by rw [withArgs, h]

theorem withArgs_none {α : Type} {read : List Byte → Option α} (h : read p = none) (f : α → Reply) :
    withArgs read p s f = .refuse s .badArgument := by rw [withArgs, h]

/-- A byte that is no line (R184). -/
theorem readOneLine_none {b : Byte} (h : 2 ≤ b.toNat) : readOneLine [b] = none := by
  have zero : b ≠ 0 := by rintro rfl; exact absurd h (by decide)
  have one : b ≠ 1 := by rintro rfl; exact absurd h (by decide)
  rw [readOneLine, readLine, if_neg zero, if_neg one]

theorem readOneLine_e1 (l : LineId) : readOneLine (e1 (lineCode l)) = some l := readLine_code l

theorem readOneIndex_none {b : Byte} (h : 48 ≤ b.toNat) : readOneIndex [b] = none := if_neg (by omega)

theorem readOneIndex_e1 {i : Nat} (h : i < 48) : readOneIndex (e1 i) = some i := by
  have same : (BitVec.ofNat 8 i).toNat = i := by rw [BitVec.toNat_ofNat]; omega
  rw [e1, readOneIndex, readIndex, same]
  exact inRange_some (Nat.zero_le i) (by omega)

/-! ## Fields -/

theorem zeros_record (s : State) (n i : Nat) : (s.zeros n).record i = s.record i := rfl

theorem level_code (x : Level) : e1 (Level.code x) = [if x = .mark then 1 else 0] := by cases x <;> rfl

theorem eOpt_ite (x : Prop) [Decidable x] (n : Nat) :
    eOpt e1 (if x then some n else none) = if x then [1] ++ e1 n else [0] := by split <;> rfl

/-- The fill acceptance that is left: its blocks, where it is limited (log entry 8). -/
theorem eOpt_amount (x : Acceptance) : eOpt e2 x.amount = match x with | .unlimited => [0] | .blocks n => [1] ++ e2 n := by
  cases x <;> rfl

theorem runOut_eq (x : MotorState) : x.runOut = decide (x = .starting ∨ x = .running ∨ x = .low) := by cases x <;> rfl

theorem lowOut_eq (x : MotorState) : x.lowOut = decide (x = .low) := by cases x <;> rfl

/-- The stamps present are sent in the order of the queues. -/
theorem eStamps_eq (x : Four (Option Nat)) : eStamps x =
    eSet [x.print.isSome, x.punch.isSome, x.sendA.isSome, x.sendB.isSome] ++
      ((x.print.map e4).getD [] ++ (x.punch.map e4).getD [] ++ (x.sendA.map e4).getD [] ++ (x.sendB.map e4).getD []) := by
  obtain ⟨print, punch, sendA, sendB⟩ := x
  rw [eStamps]
  congr 1
  simp only [List.flatMap_cons, List.flatMap_nil, List.append_nil, List.append_assoc]
  congr 1
  · cases print <;> rfl
  congr 1
  · cases punch <;> rfl
  congr 1
  · cases sendA <;> rfl
  · cases sendB <;> rfl

/-! ## The timer of CALL_STATUS (R97, log entry 9) -/

/-- The timers of a supervisor that CALL_STATUS may show, those that run. -/
def SupTimers.runs (w : SupTimers) : List Nat :=
  [w.recognize, w.clearRecognize, w.confirm, w.clearConfirm, w.guard, w.callConfirm, w.proceed, w.connect, w.quiet,
    w.capture, w.idle, w.fault, w.recovery].filterMap id

theorem shown_none {w : SupTimers} (h : w.runs = []) : w.shown = none := by
  unfold SupTimers.runs at h
  unfold SupTimers.shown
  dsimp only
  rw [h]

theorem shown_mem {w : SupTimers} (h : w.runs ≠ []) : ∃ n ∈ w.runs, w.shown = some n := by
  unfold SupTimers.shown
  dsimp only
  split
  · next none => exact absurd none h
  · next n one => exact ⟨n, by rw [SupTimers.runs, one]; exact List.mem_singleton.mpr rfl, rfl⟩
  · next n m more several =>
    rw [show w.runs = n :: m :: more from several]
    have inside (k : Nat) : k % (more.length + 2) < (n :: m :: more).length := Nat.mod_lt k (Nat.succ_pos _)
    exact ⟨_, List.getElem_mem (inside _), List.getElem?_eq_getElem (inside _)⟩

/-! ## The mechanisms' states (R148, R166) -/

theorem printCode_printState (s : State) : (printState s).printCode = if s.prc.fault then 0
    else if s.prc.op.isSome ∨ s.prc.abandoned.isSome then 1 else if s.prc.hold then 2
    else if s.mtc.print.state ≠ .running then 3
    else if s.prc.heatHold = true ∧ (nextPrintOp s).map PrintOp.kind = some .strike then 4 else 5 := by
  unfold printState
  simp only [Bool.or_eq_true, apply_ite MechState.printCode]
  congr 4
  split
  · next strike =>
    rw [apply_ite MechState.printCode, strike]
    simp only [Option.map_some, PrintOp.kind, and_true]
    rfl
  all_goals
    next other =>
      rw [other]
      exact (if_neg (by simp [PrintOp.kind])).symm

theorem punchCode_punchState (s : State) : (punchState s).punchCode = if s.puc.fault then 0
    else if s.puc.op.isSome ∨ s.puc.abandoned.isSome then 1 else if s.puc.hold ∨ s.puc.tapeHold then 2
    else if s.mtc.punch.state ≠ .running then 3 else 4 := by
  unfold punchState
  simp only [Bool.or_eq_true, apply_ite MechState.punchCode]
  rfl

/-- The repair step in progress on a frame, 0 for none (log entry 8). -/
def PunchFrame.step (y : PunchFrame) : Nat :=
  match y.steps with
  | [] => 0
  | .back :: _ => 1
  | .erase :: _ => 2
  | .figs :: _ => 3
  | .again :: _ => 4

theorem PunchFrame.step_eq (y : PunchFrame) : (y.steps.head?.map RepairStep.code).getD 0 = y.step := by
  unfold PunchFrame.step
  split <;> next steps => rw [steps]; rfl

theorem ePunchGrant_eq (s : State) : ePunchGrant s = fun y => e1 y.index ++ e1 y.phase.code
    ++ e2 (((s.record y.index).map fun r => r.cursor.punch).getD 0) ++ e1 ((y.frame.map (·.retry)).getD 0)
    ++ e1 ((y.frame.map PunchFrame.step).getD 0) := by
  funext y
  rw [ePunchGrant, List.append_assoc]
  cases y.frame with
  | none => rfl
  | some f => rw [ePunchFrame, f.step_eq]; rfl

/-! ## The records counted by STORE_STATUS (R71) -/

theorem flatMap_filterMap {α β γ : Type} (xs : List α) (f : α → Option β) (g : β → List γ) :
    (xs.filterMap f).flatMap g = xs.flatMap fun a => ((f a).map g).getD [] := by
  induction xs with
  | nil => rfl
  | cons x xs ih =>
    rw [List.filterMap_cons, List.flatMap_cons, ← ih]
    cases f x <;> rfl

/-- The entries of a table are its records with their indices. -/
theorem entriesFrom_eq (n : Nat) (xs : List (Option Rec)) :
    entriesFrom n xs = (List.range xs.length).filterMap fun i => (xs[i]?).join.map fun r => (n + i, r) := by
  induction xs generalizing n with
  | nil => rfl
  | cons x xs ih =>
    have later : entriesFrom (n + 1) xs =
        ((List.range xs.length).map Nat.succ).filterMap fun i => ((x :: xs)[i]?).join.map fun r => (n + i, r) := by
      rw [ih, List.filterMap_map]
      refine List.filterMap_congr fun i _ => ?_
      rw [Function.comp_apply, List.getElem?_cons_succ, Nat.succ_eq_add_one, Nat.add_right_comm, Nat.add_assoc]
    rw [List.length_cons, List.range_succ_eq_map, List.filterMap_cons, ← later]
    cases x <;> rfl

theorem entries_eq (h : s.stm.recs.length = 48) :
    s.entries = (List.range 48).filterMap fun i => (s.record i).map fun r => (i, r) := by
  rw [State.entries, entriesFrom_eq, h]
  simp only [Nat.zero_add]
  rfl

/-- The indices of the records in a state, or of those that are FREE. -/
def recordsIn (s : State) (x : Option RecState) : List Nat :=
  (List.range 48).filter fun i => decide ((s.record i).map (·.state) = x)

theorem recordCount_eq (h : s.stm.recs.length = 48) (x : RecState) : RecState.count s x = (recordsIn s (some x)).length := by
  rw [RecState.count, entries_eq h, List.countP_filterMap, recordsIn, ← List.countP_eq_length_filter]
  refine List.countP_congr fun i _ => ?_
  cases s.record i <;> simp

theorem freeCount_eq (h : s.stm.recs.length = 48) : Config.records - s.entries.length = (recordsIn s none).length := by
  have all := List.length_eq_countP_add_countP (fun i => (s.record i).isSome) (l := List.range 48)
  rw [entries_eq h, List.length_filterMap_eq_countP, recordsIn, ← List.countP_eq_length_filter]
  rw [List.length_range] at all
  have used : ∀ i, ((s.record i).map fun r => (i, r)).isSome = (s.record i).isSome := fun i => Option.isSome_map
  have free : ∀ i, decide ((s.record i).map (·.state) = none) = decide ¬ (s.record i).isSome = true := fun i => by
    cases s.record i <;> rfl
  simp only [used, free, Config.records]
  omega

theorem openRecords_length (h : s.stm.recs.length = 48) : (s.entries.filter fun e => decide (e.2.state = .opened)).length =
    (recordsIn s (some .opened)).length := List.countP_eq_length_filter.symm.trans (recordCount_eq h .opened)

/-- The OPEN records, each with its origin, in index order (log entry 47). -/
theorem openRecords_eq (h : s.stm.recs.length = 48) :
    (s.entries.filter fun e => decide (e.2.state = .opened)).flatMap (fun e => e1 e.1 ++ e1 e.2.origin.code) =
      (recordsIn s (some .opened)).flatMap fun i => e1 i ++ e1 (((s.record i).map (·.origin.code)).getD 0) := by
  rw [entries_eq h, List.filter_filterMap, flatMap_filterMap, recordsIn, ← List.filterMap_eq_filter, flatMap_filterMap]
  refine List.flatMap_congr fun i _ => ?_
  cases found : s.record i with
  | none => simp [Option.guard, found]
  | some r => by_cases opened : r.state = .opened <;> simp [Option.guard, Option.filter, found, opened]

end Sys2Proof.Machine
end

section
/-! PROOF. The obligation on the status commands. -/

open Sys2Proof Sys2Proof.Machine

/-- Settles O43: each status command reads its fields from the state; what a field needs beyond its definition (a sum of
records, a mechanism's state, the shown timer, the repair step, the stamps) has its own lemma. -/
theorem statusCommandsReport : Obligations.StatusCommandsReport := by
  intro s ready
  have one : 1 ≤ 248 := by decide
  have noArgs : readNone [] = some () := rfl
  refine ⟨?_, fun l => ⟨?_, ?_⟩, fun l => ?_, ?_, ?_, ?_, ?_, fun full => ?_, fun i inTable free => ?_,
    fun i r inTable held => ?_, fun b outside => ⟨?_, ?_, ?_⟩, fun b outside => ?_⟩
  · exact consoleRow_reports ready rfl (Nat.zero_le _) rfl
  · refine consoleRow_reports ready rfl one ?_
    rw [cmdLineStatus, withArgs_some (readOneLine_e1 l)]
    dsimp only
    rw [level_code, level_code, eOpt_ite]
    rfl
  · refine consoleRow_reports ready rfl one ?_
    rw [cmdLineStatistics, withArgs_some (readOneLine_e1 l)]
    rfl
  · refine ⟨(s.csv l).timers.shown, shown_none, shown_mem, consoleRow_reports ready rfl one ?_⟩
    rw [cmdCallStatus, withArgs_some (readOneLine_e1 l)]
    dsimp only
    rw [eOpt_amount]
    rfl
  · refine consoleRow_reports ready rfl (Nat.zero_le _) ?_
    rw [← printCode_printState s]
    rfl
  · refine consoleRow_reports ready rfl (Nat.zero_le _) ?_
    rw [← punchCode_punchState s, cmdPunchStatus, withArgs_some noArgs]
    dsimp only
    rw [ePunchGrant_eq]
    rfl
  · refine consoleRow_reports ready rfl (Nat.zero_le _) ?_
    simp only [← runOut_eq, ← lowOut_eq]
    rfl
  · exact consoleRow_reports ready rfl (Nat.zero_le _) rfl
  · refine consoleRow_reports ready rfl (Nat.zero_le _) ?_
    have full : (s.zeros (3 + 0)).stm.recs.length = 48 := full
    rw [cmdStoreStatus, withArgs_some noArgs]
    dsimp only
    rw [openRecords_eq full, openRecords_length full, freeCount_eq full, recordCount_eq full, recordCount_eq full,
      recordCount_eq full]
    rfl
  · refine consoleRow_reports ready rfl one ?_
    rw [cmdMsgInfo, withArgs_some (readOneIndex_e1 inTable), zeros_record, free]
    rfl
  · refine consoleRow_reports ready rfl one ?_
    rw [cmdMsgInfo, withArgs_some (readOneIndex_e1 inTable), zeros_record, held]
    dsimp only
    exact congrArg (Reply.ok _) ((congrArg (_ ++ ·) (eStamps_eq r.stamp)).trans (List.append_assoc ..).symm)
  · exact consoleRow_refuses ready (withArgs_none (readOneLine_none outside) _)
  · exact consoleRow_refuses ready (withArgs_none (readOneLine_none outside) _)
  · exact consoleRow_refuses ready (withArgs_none (readOneLine_none outside) _)
  · exact consoleRow_refuses ready (withArgs_none (readOneIndex_none outside) _)

end

section
/-! SUPPORT. A character on the transmitter, line tick by line tick (R37). -/

namespace Sys2Proof.Machine

open Sys2Proof

variable {s : State} {l : LineId} {c : Comb} {stop n : Nat}

theorem txLevel_start (h : n < 64) : txLevel c n = .space := if_pos h

theorem txLevel_unit {k : Nat} (unit : k < 5) (low : 64 * (k + 1) ≤ n) (high : n < 64 * (k + 2)) :
    txLevel c n = if c.getLsbD k then .mark else .space := by
  have index : n / 64 - 1 = k := by omega
  rw [txLevel, if_neg (by omega), if_pos (by omega), index]

theorem txLevel_stop (h : 384 ≤ n) : txLevel c n = .mark := by
  rw [txLevel, if_neg (by omega), if_neg (by omega)]

/-- The line's transmitter is at tick n of a character, with that tick's condition on its pin (R37). -/
def SendingAt (s : State) (l : LineId) (c : Comb) (stop n : Nat) : Prop :=
  s.running = true ∧ (s.unit l).tx.state = .sending c stop n ∧ (s.unit l).tx.pin = txLevel c n

theorem SendingAt.lineTick (at' : SendingAt s l c stop n) (more : n < 384 + stop) (lv : Level) :
    SendingAt (lineTick l lv s) l c stop (n + 1) := by
  obtain ⟨runs, state, -⟩ := at'
  rw [lineTick_running runs]
  refine ⟨runs, ?_, ?_⟩ <;> rw [State.onUnit_unit_same] <;> dsimp only <;> rw [Transmitter.tick_sending state more]

theorem SendingAt.lineTicks (at' : SendingAt s l c stop 0) (lvs : List Level) (fit : lvs.length ≤ 384 + stop) :
    SendingAt (lvs.foldl (fun s lv => Machine.lineTick l lv s) s) l c stop lvs.length := by
  induction lvs using List.reverseRecOn with
  | nil => exact at'
  | append_singleton lvs lv ih =>
    rw [List.length_append, List.length_singleton] at fit ⊢
    rw [List.foldl_append]
    exact (ih (by omega)).lineTick (by omega) lv

end Sys2Proof.Machine
end

section
/-! PROOF. The obligation on a character's waveform. -/

open Sys2Proof Sys2Proof.Machine

/-- Settles O26, by induction on the line ticks. -/
theorem characterWaveform : Obligations.CharacterWaveform := by
  intro c stop lvs l s runs state pin fit
  obtain ⟨-, now, level⟩ := SendingAt.lineTicks ⟨runs, state, pin⟩ lvs fit
  refine ⟨now, fun h => ?_, fun k unit low high => ?_, fun h => ?_⟩ <;> rw [level]
  · exact txLevel_start h
  · exact txLevel_unit unit low high
  · exact txLevel_stop h

end

section
/-! SUPPORT. The start element and its check, where they are due and where they are not (R41, R43). -/

namespace Sys2Proof.Machine

open Sys2Proof

variable {s : State} {l : LineId} {f : Frame}

theorem State.onRx_congr {g h : Receiver → Receiver} (same : g (s.unit l).rx = h (s.unit l).rx) :
    s.onRx l g = s.onRx l h := by
  rw [State.onRx, State.onUnit, same]
  rfl

theorem State.onRx_self {g : Receiver → Receiver} (same : g (s.unit l).rx = (s.unit l).rx) : s.onRx l g = s := by
  have kept : s.lu.set l (s.unit l) = s.lu := Pair.set_get ..
  rw [State.onRx, State.onUnit, same, State.setUnit, kept]

theorem rxStartElement_due {resume : Bool} (mode : (s.unit l).rx.mode = .framing)
    (sub : (s.unit l).rx.sub = .hunting resume true) :
    exec (.rxStartElement l) s = .next (s.onRx l fun r => { r with sub := .character ⟨0, false, [], 0⟩ }) := by
  refine congrArg Host.Outcome.next (State.onRx_congr ?_)
  rw [mode, sub]

theorem rxStartElement_not (h : ¬ ((s.unit l).rx.mode = .framing ∧ ∃ resume, (s.unit l).rx.sub = .hunting resume true)) :
    exec (.rxStartElement l) s = .next s := by
  refine congrArg Host.Outcome.next (State.onRx_self ?_)
  split
  · next resume mode sub => exact absurd ⟨mode, resume, sub⟩ h
  all_goals rfl

theorem startCheck_due (hand : (s.unit l).rx.frameInHand = some f) (pos : f.pos = 32) (unchecked : f.started = false) :
    startCheck l s = if (s.unit l).rx.last = .space
      then s.onRx l fun r => { r with sub := .character { f with started := true } }
      else (s.onRx l fun r => { r with sub := huntOrBlank s l false }).onStats l fun x =>
        { x with falseStart := bump x.falseStart } := by
  simp only [startCheck, hand, pos, unchecked, and_self, if_true]

theorem startCheck_not (h : ¬ ((s.unit l).rx.mode = .framing ∧
    ∃ f, (s.unit l).rx.sub = .character f ∧ f.pos = 32 ∧ f.started = false)) : startCheck l s = s := by
  unfold startCheck
  split
  · rfl
  · next f hand =>
    obtain ⟨mode, sub⟩ := (frameInHand_iff ..).mp hand
    exact if_neg fun due => h ⟨mode, f, sub, due⟩

end Sys2Proof.Machine
end

section
/-! PROOF. The obligations on the start element and on the conditions read from the ages. -/

open Sys2Proof Sys2Proof.Machine

/-- Settles O29: each row by whether it is due, and the check by the level sampled. -/
theorem startElementAndItsCheck : Obligations.StartElementAndItsCheck := by
  refine fun l s => ⟨fun resume => rxStartElement_due, rxStartElement_not, fun f mode sub pos unchecked => ?_,
    fun h => congrArg Host.Outcome.next (startCheck_not h)⟩
  have due := startCheck_due ((frameInHand_iff ..).mpr ⟨mode, sub⟩) pos unchecked
  refine ⟨fun space => congrArg Host.Outcome.next (due.trans (if_pos space)), fun mark => ⟨_, rfl, ?_⟩⟩
  have waits : (s.unit l).rx.last ≠ .space := by simp [mark]
  rw [due, if_neg waits]
  refine ⟨rfl, fun k other => ?_, ?_⟩
  · rw [State.onStats_unit_ne _ _ other, State.onRx_unit_ne _ _ other]
  · rw [State.onStats_unit_same, State.onRx_unit_same, huntOrBlank_false]
    rfl

/-- Settles O32: the rows store nothing, and the two conditions are what the ages say. -/
theorem derivedConditionsStoreNothing : Obligations.DerivedConditionsStoreNothing := by
  refine ⟨fun l s => ⟨rfl, ?_⟩, fun s => ⟨rfl, ?_⟩⟩
  · rw [receiveBusy, Bool.or_eq_true, decide_eq_true_eq, inCharacter]
    refine or_congr_left ?_
    cases (s.unit l).rx.sub <;> simp
  · rw [inputIdle, Bool.and_eq_true, List.isEmpty_iff, decide_eq_true_eq]
    rfl

end

section
/-! SUPPORT. The end of a character on the transmitter: the selector told, and what has ended on it taken, one end at a time
(R36, R43, R62, R63, R92, R104, R113, R114, R123, R127, R129). -/

namespace Sys2Proof.Machine

open Sys2Proof

variable {s t u v w : State} {l : LineId} {g : SendGrant} {r q : Rec} {i : Nat} {d : Deliv}

/-! ## The transmitter is freed (R36, R43) -/

/-- Line l's character is over: its transmitter is IDLE on the ordered condition, a BLANKED receiver hunts again, and the
selector is told (R36, R43, R88). -/
def txFreed (l : LineId) (s : State) : State :=
  ((s.onTx l fun t => { t with state := .idle, pin := t.ordered }).onSelector l
    fun x => { x with flight := none }).onRx l Receiver.unblank

theorem txCharacterEnd_due {c : Comb} {stop pos : Nat} (sends : (s.unit l).tx.state = .sending c stop pos)
    (due : 384 + stop ≤ pos) : txCharacterEnd l s = settleLine (txFreed l s) l := by
  rw [txCharacterEnd, sends]
  exact if_pos due

theorem txCharacterEnd_not (h : ∀ c stop pos, (s.unit l).tx.state = .sending c stop pos → pos < 384 + stop) :
    txCharacterEnd l s = s := by
  unfold txCharacterEnd
  split
  · rfl
  · next c stop pos sends => exact if_neg (Nat.not_le.mpr (h c stop pos sends))

theorem Receiver.unblank_eq (r : Receiver) : r.unblank = { r with
    sub := if r.sub = .blanked then .hunting false (decide (r.last = .space)) else r.sub } := by
  obtain ⟨mode, sub, pin, last, known, seen, age⟩ := r
  cases sub <;> simp [Receiver.unblank]

theorem txFreed_selector (l : LineId) (s : State) : (txFreed l s).selector l = { s.selector l with flight := none } :=
  State.onSelector_selector_same (s.onTx l _) l fun x => { x with flight := none }

theorem txFreed_other {k : LineId} (h : k ≠ l) (s : State) :
    (txFreed l s).unit k = s.unit k ∧ (txFreed l s).selector k = s.selector k := by
  refine ⟨?_, State.onSelector_selector_ne (s.onTx l _) (fun x => { x with flight := none }) h⟩
  rw [txFreed, State.onRx_unit_ne _ _ h, onSelector_unit, State.onTx_unit_ne _ _ h]

theorem txFreed_unit (l : LineId) (s : State) : (txFreed l s).unit l = { s.unit l with
    tx := { (s.unit l).tx with state := .idle, pin := (s.unit l).tx.ordered }
    rx := { (s.unit l).rx with sub := (if (s.unit l).rx.sub = .blanked
      then .hunting false (decide ((s.unit l).rx.last = .space)) else (s.unit l).rx.sub) } } := by
  rw [txFreed, State.onRx_unit_same, onSelector_unit, State.onTx_unit_same, Receiver.unblank_eq]

/-! ## What the end of a grant makes of its record (R62, R63, R64) -/

/-- The record that deliverer d leaves. -/
def Rec.left (r : Rec) (d : Deliv) : Rec := { r with grants := r.grants.set d false, stops := r.stops.set d false }

theorem endGrant_leaves (stm : v.stm = { s.stm with recs := v.stm.recs }) (others : ∀ j, j ≠ i → v.record j = s.record j)
    (record : v.record i = some q) : RecordLeft s (endGrant v d i) i (q.left d) := by
  refine recordLeft_of ?_ (fun j n => (onRecord_ne v _ n).trans (others j n)) (onRecord_same record _)
  rw [onRecord_stm, stm]

theorem settleSequence_stm (s : State) : (settleSequence s).stm = s.stm := by
  unfold settleSequence
  split <;> rfl

theorem completeDelivery_leaves (record : s.record i = some r) : RecordLeft s (completeDelivery s d i) i
    ({ r with dests := r.dests.off d, stamp := r.stamp.set d none }.left d) := by
  let off (r : Rec) : Rec := { r with dests := r.dests.off d }
  let out (r : Rec) : Rec := { r with stamp := r.stamp.set d none }
  have records (x : State) (j : Nat) : (settleSequence x).record j = x.record j := by
    rw [State.record, settleSequence_stm]; rfl
  refine endGrant_leaves (v := settleSequence ((s.onRecord i off).onRecord i out)) ?_ (fun j n => ?_) ?_
  · rw [settleSequence_stm, onRecord_stm, onRecord_stm]
  · rw [records, onRecord_ne _ _ n, onRecord_ne _ _ n]
  · rw [records]
    exact onRecord_same (onRecord_same record off) out

theorem endGrant_opened (record : s.record i = some r) (opened : r.state = .opened) :
    endGrant s d i = s.setRecord i (some (r.left d)) := by
  have held := onRecord_same record fun r => r.left d
  have still : releaseIfDone (s.onRecord i fun r => r.left d) i = s.onRecord i fun r => r.left d := by
    rw [releaseIfDone, held]
    dsimp only [Rec.left]
    rw [opened]
  exact still.trans (State.onRecord_eq record _)

theorem lineReady_iff (s : State) (l : LineId) : lineReady s l = true ↔ (s.csv l).state = .running ∨
    ((s.csv l).state = .connected ∧ ((s.csv l).exch.sub = .done ∨ (s.csv l).exch.sub = .plain)) := by
  unfold lineReady
  cases (s.csv l).state <;> simp
  cases (s.csv l).exch.sub <;> simp [ExchSub.isOver]

/-! ## The step that follows (section 5.6, log entry 17) -/

theorem sendSweep_settles (n : Nat) (s : State) (l : LineId) : Settled (oneLine l) s (settle (sendSweep n s l)) := by
  have a : KeptBut True (oneLine l) (Granted (oneLine l) s) s (sendSweep n s l) := sendSweep_kept _ fun _ h => h
  obtain ⟨u, b, e⟩ := settle_parts (c := True) (a.granted fun _ h => h)
  rw [e]
  exact (a.trans b).settled_of (e ▸ (sendSweep_stands ..).yields (settle_yields _))

/-- What the selector's first step makes of the line then settles. -/
theorem settleLine_after (step : sendStep s l = some w) : Settled (oneLine l) w (settleLine s l) := by
  have swept : settleLine s l = settle (sendSweep 8999 w l) := by
    rw [settleLine, sweepFuel, sendSweep, step]
  rw [swept]
  exact sendSweep_settles ..

section Free
variable (free : (s.selector l).flight = none) (owed : (s.selector l).companion = none)
include free owed

theorem sendStep_stops (grant : (s.selector l).grant = some g) (asked : stopAsked s (sendOf l) g.index = true) :
    sendStep s l = some (stopSend s l g) := by
  simp [sendStep, recordUnderWay, free, owed, grant, asked]

variable (going : Unstopped s l)
include going

theorem sendStep_seqEnd {k : SeqKind} {qs : List TxSeq} (front : (s.selector l).seqs = ⟨k, []⟩ :: qs) :
    sendStep s l = some (seqDone (s.setSelector l { s.selector l with seqs := qs }) l k) := by
  cases grant : (s.selector l).grant with
  | none => simp [sendStep, free, owed, grant, front]
  | some g => simp [sendStep, free, owed, grant, front, going g grant]

variable (waits : ∀ q qs, (s.selector l).seqs = q :: qs → q.items ≠ [])

omit free owed going in
include waits in
theorem seqs_wait : (s.selector l).seqs = [] ∨ ∃ k i is qs, (s.selector l).seqs = ⟨k, i :: is⟩ :: qs := by
  cases seqs : (s.selector l).seqs with
  | nil => exact .inl rfl
  | cons q qs =>
    obtain ⟨k, _ | ⟨i, is⟩⟩ := q
    · exact absurd rfl (waits _ _ seqs)
    · exact .inr ⟨k, i, is, qs, rfl⟩

include waits

theorem sendStep_answerEnd {forced : Bool} (ended : (s.selector l).answerback = some ⟨[], forced⟩) :
    sendStep s l = some (answerbackEnd s l) := by
  rcases seqs_wait waits with seqs | ⟨k, i, is, qs, seqs⟩ <;> cases grant : (s.selector l).grant with
  | none => simp [sendStep, free, owed, grant, ended, seqs]
  | some g => simp [sendStep, free, owed, grant, ended, seqs, going g grant]

variable (spoken : ∀ a, (s.selector l).answerback = some a → a.rest ≠ [])

omit free owed going waits in
include spoken in
theorem answerback_waits_on : (s.selector l).answerback = none ∨
    ∃ c cs forced, (s.selector l).answerback = some ⟨c :: cs, forced⟩ := by
  cases answerback : (s.selector l).answerback with
  | none => exact .inl rfl
  | some a =>
    obtain ⟨_ | ⟨c, cs⟩, forced⟩ := a
    · exact absurd rfl (spoken _ answerback)
    · exact .inr ⟨c, cs, forced, rfl⟩

include spoken

theorem sendStep_cutoffEnd (ended : (s.selector l).cutoff = some []) :
    sendStep s l = some (s.setSelector l { s.selector l with cutoff := none }) := by
  rcases seqs_wait waits with seqs | ⟨k, i, is, qs, seqs⟩ <;>
    rcases answerback_waits_on spoken with answer | ⟨c, cs, forced, answer⟩ <;> cases grant : (s.selector l).grant with
  | none => simp [sendStep, free, owed, grant, ended, seqs, answer]
  | some g => simp [sendStep, free, owed, grant, ended, seqs, answer, going g grant]

variable (handed : (s.selector l).cutoff ≠ some []) (grant : (s.selector l).grant = some g) (led : g.lead = [])
include handed grant led

theorem sendStep_delivers (ended : g.tail = some []) : sendStep s l =
    some (completeDelivery (s.setSelector l { s.selector l with grant := none }) (sendOf l) g.index) := by
  rcases seqs_wait waits with seqs | ⟨k, i, is, qs, seqs⟩ <;>
    rcases answerback_waits_on spoken with answer | ⟨c, cs, forced, answer⟩ <;>
    simp [sendStep, free, owed, grant, handed, seqs, answer, going g grant, led, ended]

variable (text : g.tail = none) (record : s.record g.index = some r) (ended : r.length ≤ r.cursor.get (sendOf l))
include text record ended

theorem sendStep_openEnd (opened : r.state = .opened) : sendStep s l = some
    ((s.setSelector l { s.selector l with grant := none }).setRecord g.index (some (r.left (sendOf l)))) := by
  have leaves : endGrant (s.setSelector l { s.selector l with grant := none }) (sendOf l) g.index =
      (s.setSelector l { s.selector l with grant := none }).setRecord g.index (some (r.left (sendOf l))) :=
    endGrant_opened record opened
  rw [← leaves]
  rcases seqs_wait waits with seqs | ⟨k, i, is, qs, seqs⟩ <;>
    rcases answerback_waits_on spoken with answer | ⟨c, cs, forced, answer⟩ <;>
    simp [sendStep, free, owed, grant, handed, seqs, answer, going g grant, led, text, record, ended, opened]

theorem sendStep_textEnd (shut : r.state ≠ .opened) : sendStep s l =
    some (s.setSelector l { s.selector l with grant := some { g with tail := some (closing s l) } }) := by
  rcases seqs_wait waits with seqs | ⟨k, i, is, qs, seqs⟩ <;>
    rcases answerback_waits_on spoken with answer | ⟨c, cs, forced, answer⟩ <;>
    simp [sendStep, State.onSend, State.onSelector, free, owed, grant, handed, seqs, answer, going g grant, led, text,
      record, ended, shut]

end Free

/-! ## What each end makes of the supervisor (R104, R108, R113, R114, R123, R127, R129) -/

section SeqDone
variable {x : Supervisor} {k : SeqKind} (csv : s.csv l = x)
include csv

theorem seqDone_selection (state : x.state = .selecting) : seqDone s l .selection = s.setCsv l { x with
    state := .awaitConnect, phase := .progress false, captured := [], exch := { x.exch with sub := .offerWait }
    timers := { SupTimers.stopped with
      prepPrint := x.timers.prepPrint, prepPunch := x.timers.prepPunch
      clearRecognize := x.timers.clearRecognize, connect := some (1000 * x.values.connectS) } } := by
  subst csv
  rw [seqDone, if_pos state, enterAwaitConnect]
  cases l <;> rfl

theorem seqDone_wru (phase : x.phase = .asking) : seqDone s l .wru = s.setCsv l { x with
    phase := .capturing, captured := [], timers := { x.timers with capture := some 500 } } := by
  subst csv
  exact if_pos phase

theorem seqDone_page (kind : k = .offer ∨ k = .page) (paging : x.exch.sub.isPaging = true)
    (last : ∀ q ∈ (s.selector l).seqs, q.kind ≠ .offer ∧ q.kind ≠ .page) : seqDone s l k = s.setCsv l { x with
      exch := { x.exch with pageTimer := some s.xcfg.pageTimer.ms } } := by
  subst csv
  have quiet : sendingPage s l = false := by
    rw [sendingPage, List.any_eq_false]
    simpa using last
  rcases kind with rfl | rfl <;> rw [seqDone, if_pos paging, startPageTimer, quiet] <;> rfl

/-- The exchange is DONE, and a progress phase without a character gives way to the supervisor's who-are-you (R114, R129). -/
theorem seqDone_close (sub : x.exch.sub = .closing) : ∃ e rem, ExchangeAgreed x e rem ∧
    let z := (s.setCsv l { x with exch := e, remaining := rem }).latch (stateEvent l)
    seqDone s l .close = if x.state = .awaitConnect ∧ x.phase = .progress false then placeWru z l else z := by
  subst csv
  refine ⟨_, _, ⟨rfl, rfl⟩, ?_⟩
  rw [seqDone, if_pos sub, exchangeDone, endSilentProgress]
  cases l <;> rfl

theorem seqDone_nothing (selection : k = .selection → x.state ≠ .selecting) (wru : k = .wru → x.phase ≠ .asking)
    (page : k = .offer ∨ k = .page → x.exch.sub.isPaging = false) (close : k = .close → x.exch.sub ≠ .closing) :
    seqDone s l k = s := by
  subst csv
  cases k
  case selection => exact if_neg (selection rfl)
  case wru => exact if_neg (wru rfl)
  case offer => exact if_neg (by simp [page])
  case page => exact if_neg (by simp [page])
  case close => exact if_neg (close rfl)

end SeqDone

theorem answerbackEnd_eq (s : State) (l : LineId) :
    let w := (s.setSelector l { s.selector l with answerback := none }).setCsv l { s.csv l with abActive := false }
    answerbackEnd s l = if offerWaiting s l then placeOffer w l else w := by
  have same : offerWaiting ((s.onSelector l fun x => { x with answerback := none }).onCsv l
      fun c => { c with abActive := false }) l = offerWaiting s l := by cases l <;> rfl
  rw [answerbackEnd, same]
  rfl

/-! ## The ends, settled -/

/-- The front sequence has left the selector, and the rest stand. -/
def frontEnded (s : State) (l : LineId) (qs : List TxSeq) : State := s.setSelector l { s.selector l with seqs := qs }

theorem frontEnded_selector (s : State) (l : LineId) (qs : List TxSeq) :
    (frontEnded s l qs).selector l = { s.selector l with seqs := qs } := State.setSelector_selector_same ..

variable (free : (s.selector l).flight = none) (owed : (s.selector l).companion = none)
include free owed

/-- The end of the front sequence is the supervisor's or the exchange engine's to act on (R108, R113, R114, R123, R127,
R129). -/
theorem settleLine_seqEnd (going : Unstopped s l) {k : SeqKind} {qs : List TxSeq}
    (front : (s.selector l).seqs = ⟨k, []⟩ :: qs) :
    Settled (oneLine l) (seqDone (frontEnded s l qs) l k) (settleLine s l) :=
  settleLine_after (sendStep_seqEnd free owed going front)

variable (grant : (s.selector l).grant = some g) (record : s.record g.index = some r)
include grant record

/-- A stop asked ends the grant, and a begun message on a ready line is owed its cut-off (R63, R92, log entry 49). -/
theorem settleLine_stops (asked : r.stops.get (sendOf l) = true) : ∃ z, Settled (oneLine l) z (settleLine s l) ∧
    z.lu = s.lu ∧ z.sup = s.sup ∧ z.selector l = { s.selector l with
      grant := none, cutoff := if g.handed && lineReady s l then some (closing s l) else (s.selector l).cutoff } ∧
    RecordLeft s z g.index (r.left (sendOf l)) := by
  have stop : stopAsked s (sendOf l) g.index = true := by rw [stopAsked, record]; exact asked
  have only := endGrant_storeOnly (s.onSelector l fun x => { x with
    grant := none, cutoff := if g.handed && lineReady s l then some (closing s l) else x.cutoff }) (sendOf l) g.index
  exact ⟨_, settleLine_after (sendStep_stops free owed grant stop), only.lu, only.sup, stopSend_selector s l g,
    endGrant_leaves rfl (fun _ _ => rfl) record⟩

end Sys2Proof.Machine
end

section
/-! PROOF. The obligation on the end of a character. -/

open Sys2Proof Sys2Proof.Machine

/-- Settles O28: with the transmitter free, what has ended first is what the selector's first step takes. -/
theorem txCharacterEndFreesTheTransmitter : Obligations.TxCharacterEndFreesTheTransmitter := by
  refine fun l s => ⟨fun h => congrArg Host.Outcome.next (txCharacterEnd_not h), fun c stop pos sends due => ?_⟩
  have sel := txFreed_selector l s
  have free : ((txFreed l s).selector l).flight = none := by rw [sel]
  have settled := settleLine_settled (txFreed l s) l
  refine ⟨txFreed l s, _, congrArg Host.Outcome.next (txCharacterEnd_due sends due), settled, rfl,
    fun k h => txFreed_other h s, sel, txFreed_unit l s, by rw [settled.kept.unit], by rw [settled.kept.unit], ?_⟩
  dsimp only
  intro owed stops
  have going : Unstopped (txFreed l s) l := unstopped_of stops
  refine ⟨fun k qs front => ?_, fun waits => ⟨fun forced ended => ?_, fun spoken =>
    ⟨fun ended => ?_, fun g r handed grant led record => ⟨fun ended => ?_, fun text ended => ?_⟩⟩⟩,
    fun g r owed grant record asked => ?_⟩
  · have ends := settleLine_seqEnd free owed going front
    have csv : (frontEnded (txFreed l s) l qs).csv l = s.csv l := rfl
    refine ⟨fun kind state => ?_, fun kind phase => ?_, fun kind paging last => ?_, fun kind closing => ?_,
      fun selection wru page close => ?_⟩
    · rw [kind, seqDone_selection csv state] at ends
      exact ends
    · rw [kind, seqDone_wru csv phase] at ends
      exact ends
    · rw [seqDone_page csv kind paging (by rw [frontEnded_selector]; exact last)] at ends
      exact ends
    · obtain ⟨e, rem, agreed, done⟩ := seqDone_close csv closing
      rw [kind, done] at ends
      refine ⟨e, rem, agreed, fun other => ?_, fun state phase => ?_⟩
      · rw [if_neg other] at ends
        exact ends
      · rw [if_pos ⟨state, phase⟩] at ends
        exact ends
    · rw [seqDone_nothing csv selection wru page close] at ends
      exact ends
  · have step := sendStep_answerEnd free owed going waits ended
    rw [answerbackEnd_eq] at step
    exact settleLine_after step
  · exact settleLine_after (sendStep_cutoffEnd free owed going waits spoken ended)
  · have only := completeDelivery_storeOnly
      ((txFreed l s).setSelector l { (txFreed l s).selector l with grant := none }) (sendOf l) g.index
    refine ⟨_, settleLine_after (sendStep_delivers free owed going waits spoken handed grant led ended), ?_, only.lu,
      only.sup, completeDelivery_leaves record⟩
    rw [(only.line l).2.2.1]
    exact State.setSelector_selector_same ..
  · exact ⟨fun opened => settleLine_after
        (sendStep_openEnd free owed going waits spoken handed grant led text record ended opened),
      fun shut => settleLine_after
        (sendStep_textEnd free owed going waits spoken handed grant led text record ended shut)⟩
  · obtain ⟨z, settles, lu, sup, selector, leaves⟩ := settleLine_stops free owed grant record asked
    have due_iff : (g.handed && lineReady (txFreed l s) l) = true ↔ g.handed = true ∧ ((s.csv l).state = .running ∨
        ((s.csv l).state = .connected ∧ ((s.csv l).exch.sub = .done ∨ (s.csv l).exch.sub = .plain))) := by
      rw [Bool.and_eq_true, lineReady_iff]
      rfl
    refine ⟨z, settles, lu, sup, fun due => ?_, fun none => ?_, leaves⟩
    · rw [selector, if_pos (due_iff.mpr due)]
      rfl
    · rw [selector, if_neg (none ∘ due_iff.mp)]

end

section
/-! SUPPORT. The choice of a record to send, and the grant it starts (R89 to R92). -/

namespace Sys2Proof.Machine

open Sys2Proof

variable {s : State} {l : LineId} {i : Nat} {r : Rec}

/-! ## The first record of a queue with a property (R77) -/

theorem Ahead.total {j : Nat} (differ : i ≠ j) {d : Deliv} {q : Rec} (h : ¬ Ahead d (j, q) (i, r)) : Ahead d (i, r) (j, q) := by
  unfold Ahead at *
  dsimp only at *
  generalize (r.stamp.get d).getD 0 = x at *
  generalize (q.stamp.get d).getD 0 = y at *
  generalize r.urgent = a at *
  generalize q.urgent = b at *
  cases a <;> cases b <;> simp at h ⊢
  all_goals omega

theorem find_first_iff {d : Deliv} {p : Nat × Rec → Bool} {P : Rec → Prop} {xs : List (Nat × Rec)}
    (order : InOrder d xs) (mem : ∀ j q, ((j, q) ∈ xs ∧ p (j, q) = true) ↔ s.record j = some q ∧ P q) :
    xs.find? p = some (i, r) ↔ FirstInQueue s d P i r := by
  constructor
  · intro found
    obtain ⟨record, holds⟩ := (mem i r).mp ⟨List.mem_of_find?_eq_some found, List.find?_some found⟩
    refine ⟨record, holds, fun j q at' has => ?_⟩
    by_cases same : j = i
    · exact .inl same
    · obtain ⟨inQueue, passes⟩ := (mem j q).mpr ⟨at', has⟩
      rcases find_inOrder order found inQueue passes with e | e
      · exact .inl (congrArg Prod.fst e)
      · exact .inr (Ahead.total (Ne.symm same) e)
  · rintro ⟨record, holds, first⟩
    obtain ⟨inQueue, passes⟩ := (mem i r).mpr ⟨record, holds⟩
    cases found : xs.find? p with
    | none => exact absurd passes (List.find?_eq_none.mp found _ inQueue)
    | some e =>
      obtain ⟨j, q⟩ := e
      obtain ⟨at', has⟩ := (mem j q).mp ⟨List.mem_of_find?_eq_some found, List.find?_some found⟩
      have same : j = i := by
        rcases find_inOrder order found inQueue passes with e | e
        · exact (congrArg Prod.fst e).symm
        · exact (first j q at' has).resolve_right e
      subst same
      rw [Option.some.inj (at'.symm.trans record)]

theorem find_none_iff {p : Nat × Rec → Bool} {P : Rec → Prop} {xs : List (Nat × Rec)}
    (mem : ∀ j q, ((j, q) ∈ xs ∧ p (j, q) = true) ↔ s.record j = some q ∧ P q) :
    xs.find? p = none ↔ ∀ j q, s.record j = some q → ¬ P q := by
  rw [List.find?_eq_none]
  exact ⟨fun none j q at' has => none _ ((mem j q).mpr ⟨at', has⟩).1 ((mem j q).mpr ⟨at', has⟩).2,
    fun none e inQueue passes => none e.1 e.2 ((mem ..).mp ⟨inQueue, passes⟩).1 ((mem ..).mp ⟨inQueue, passes⟩).2⟩

/-! ## The candidates (R89, R91) -/

/-- A live record of the line with work in SEND_x (R89). -/
def LiveWork (l : LineId) (r : Rec) : Prop := (r.stamp.get (sendOf l)).isSome = true ∧ r.live l = true ∧
  (r.state = .closed ∨ (r.state = .opened ∧ r.cursor.get (sendOf l) < r.length))

/-- A stored record in SEND_x (R91). -/
def StoredIn (l : LineId) (r : Rec) : Prop :=
  (r.stamp.get (sendOf l)).isSome = true ∧ r.state = .closed ∧ r.live l = false

/-- A record's blocks are within the remaining acceptance (R91). -/
def FitsIn (a : Acceptance) (r : Rec) : Prop := ∀ n, a = .blocks n → blocksFor r.length ≤ n

theorem fits_iff (a : Acceptance) (r : Rec) : fits a r = true ↔ FitsIn a r := by
  cases a <;> simp [fits, FitsIn]

theorem liveWork_iff (l : LineId) (j : Nat) (q : Rec) :
    ((j, q) ∈ queueOf s (sendOf l) ∧ liveWork l q = true) ↔ s.record j = some q ∧ LiveWork l q := by
  rw [mem_queueOf, liveWork, LiveWork, Rec.queued]
  cases q.state <;> simp [and_assoc]

theorem mem_storedQueue (l : LineId) (j : Nat) (q : Rec) :
    (j, q) ∈ storedQueue s l ↔ s.record j = some q ∧ StoredIn l q := by
  rw [storedQueue, List.mem_filter, mem_queueOf, StoredIn, Rec.queued]
  simp [and_assoc]

theorem storedQueue_inOrder (s : State) (l : LineId) : InOrder (sendOf l) (storedQueue s l) :=
  (queueOf_inOrder ..).filter _

theorem firstLive_some : firstLive s l = some (i, r) ↔ FirstInQueue s (sendOf l) (LiveWork l) i r :=
  find_first_iff (queueOf_inOrder ..) (liveWork_iff l)

theorem firstLive_none : firstLive s l = none ↔ ∀ j q, s.record j = some q → ¬ LiveWork l q :=
  find_none_iff (liveWork_iff l)

theorem storedFit_iff (a : Acceptance) (j : Nat) (q : Rec) :
    ((j, q) ∈ storedQueue s l ∧ fits a q = true) ↔ s.record j = some q ∧ StoredIn l q ∧ FitsIn a q := by
  rw [mem_storedQueue, fits_iff, and_assoc]

theorem firstFit_some : firstFit s l = some (i, r) ↔
    FirstInQueue s (sendOf l) (fun q => StoredIn l q ∧ FitsIn (s.csv l).remaining q) i r :=
  find_first_iff (storedQueue_inOrder ..) (storedFit_iff _)

theorem firstFit_none :
    firstFit s l = none ↔ ∀ j q, s.record j = some q → ¬ (StoredIn l q ∧ FitsIn (s.csv l).remaining q) :=
  find_none_iff (storedFit_iff _)

theorem storedQueue_first : (storedQueue s l).find? (fun _ => true) = some (i, r) ↔
    FirstInQueue s (sendOf l) (StoredIn l) i r :=
  find_first_iff (storedQueue_inOrder ..) fun j q => by rw [mem_storedQueue]; simp

theorem passesOver_nothing (none : ∀ j q, s.record j = some q → ¬ StoredIn l q) : passesOver s l = false := by
  have empty : storedQueue s l = [] := List.eq_nil_iff_forall_not_mem.mpr fun ⟨j, q⟩ mem =>
    none j q ((mem_storedQueue ..).mp mem).1 ((mem_storedQueue ..).mp mem).2
  rw [passesOver, empty]

theorem passesOver_unfit (record : s.record i = some r) (stored : StoredIn l r)
    (none : ∀ j q, s.record j = some q → StoredIn l q → ¬ FitsIn (s.csv l).remaining q) : passesOver s l = true := by
  have mem := (mem_storedQueue (s := s) ..).mpr ⟨record, stored⟩
  rw [passesOver]
  cases queue : storedQueue s l with
  | nil => rw [queue] at mem; cases mem
  | cons e es =>
    obtain ⟨at', has⟩ := (mem_storedQueue (s := s) (l := l) e.1 e.2).mp (queue ▸ List.mem_cons_self)
    have unfit := none _ _ at' has
    rw [← fits_iff] at unfit
    simpa using unfit

theorem passesOver_of_fit (fit : firstFit s l = some (i, r)) :
    passesOver s l = false ↔ FirstInQueue s (sendOf l) (StoredIn l) i r := by
  rw [← storedQueue_first, passesOver]
  rw [firstFit] at fit
  cases queue : storedQueue s l with
  | nil => rw [queue] at fit; cases fit
  | cons e es =>
    rw [queue, List.find?_cons] at fit
    rw [List.find?_cons]
    dsimp only
    constructor
    · intro taken
      rw [Bool.not_eq_false'] at taken
      rwa [taken] at fit
    · intro first
      rw [Bool.not_eq_false']
      cases taken : fits (s.csv l).remaining e.2 with
      | true => rfl
      | false =>
        rw [taken] at fit
        rw [Option.some.inj first] at taken
        exact absurd (List.find?_some fit) (by simp [taken])

/-! ## What bars a choice -/

theorem choiceOpen_iff : choiceOpen s l = true ↔
    ¬ ((s.selector l).grant ≠ none ∨ (s.selector l).cutoff ≠ none ∨ (s.csv l).ending = true ∨
      ¬ ((s.csv l).state = .running ∨
        ((s.csv l).state = .connected ∧ ((s.csv l).exch.sub = .done ∨ (s.csv l).exch.sub = .plain)))) := by
  rw [← lineReady_iff, choiceOpen]
  simp only [Bool.and_eq_true, Option.isNone_iff_eq_none, Bool.not_eq_true', not_or, not_not, ne_eq]
  rw [Bool.not_eq_true]
  tauto

theorem storedAllowed_iff (ready : lineReady s l = true) : storedAllowed s l = true ↔
    (s.csv l).state = .running ∨ (s.csv l).direction = .outgoing ∨ (s.framingOf l).sendOnIncoming = true := by
  simp [storedAllowed, ready, or_assoc]

theorem KbMode.line_iff (m : KbMode) (l : LineId) :
    m.line = some l ↔ m = (match l with | .A => .directA | .B => .directB) := by
  cases m <;> cases l <;> simp [KbMode.line]

theorem inputIdle_iff (s : State) : inputIdle s = true ↔ s.kbs.fifo = [] ∧ 2000 ≤ s.kbs.inputAge := by
  rw [inputIdle, Bool.and_eq_true, List.isEmpty_iff, decide_eq_true_eq]
  rfl

theorem storedHeldBack_iff : storedHeldBack s l = true ↔
    (s.kbs.mode = (match l with | .A => .directA | .B => .directB) ∧ ¬ (s.kbs.fifo = [] ∧ 2000 ≤ s.kbs.inputAge)) ∨
      (((s.unit l).cfg.duplex = .half ∨ (s.csv l).exch.half = true) ∧ receiveBusy s l = true) := by
  rw [← inputIdle_iff, ← KbMode.line_iff]
  simp [storedHeldBack, halfDuplex]

/-! ## The row (R89 to R92) -/

theorem sendGrant_closed (closed : ¬ choiceOpen s l = true) : sendGrant l s = s := if_neg closed

theorem sendGrant_live (opened : choiceOpen s l = true) (live : firstLive s l = some (i, r)) :
    sendGrant l s = settleLine (grantLive s l i r) l := by
  rw [sendGrant, if_pos opened, live]

theorem sendGrant_barred (opened : choiceOpen s l = true) (live : firstLive s l = none)
    (barred : ¬ (storedAllowed s l = true ∧ storedHeldBack s l = false)) : sendGrant l s = s := by
  rw [sendGrant, if_pos opened, live]
  exact if_neg (by simpa using barred)

theorem defer_framing (s : State) (l : LineId) : firstFit (defer s l) l = firstFit s l := by
  unfold defer
  split
  · cases l <;> rfl
  · rfl

theorem sendGrant_stored_fits (opened : choiceOpen s l = true) (live : firstLive s l = none)
    (allowed : storedAllowed s l = true) (free : storedHeldBack s l = false) (fit : firstFit s l = some (i, r)) :
    sendGrant l s = settleLine (grantStored (defer s l) l i r) l := by
  rw [sendGrant, if_pos opened, live]
  dsimp only
  rw [if_pos (by rw [allowed, free]; rfl), defer_framing, fit]

theorem sendGrant_stored_none (opened : choiceOpen s l = true) (live : firstLive s l = none)
    (allowed : storedAllowed s l = true) (free : storedHeldBack s l = false) (fit : firstFit s l = none) :
    sendGrant l s = defer s l := by
  rw [sendGrant, if_pos opened, live]
  dsimp only
  rw [if_pos (by rw [allowed, free]; rfl), defer_framing, fit]

/-- The state with the line's deferral flag set, SEND_DEFERRED latched where it was not (R91). -/
def deferredFrom (s : State) (l : LineId) : State := { s with
  fqm := { s.fqm with sel := s.fqm.sel.set l { s.selector l with deferral := true } }
  cpe := { s.cpe with latches := if (s.selector l).deferral then s.cpe.latches
    else s.cpe.latches ||| BitVec.twoPow 17 11 } }

theorem defer_over (passes : passesOver s l = true) : defer s l = deferredFrom s l := by
  rw [defer, deferredFrom, passes]
  cases h : (s.selector l).deferral
  · rfl
  · have same : s.fqm.sel.set l { s.selector l with deferral := true } = s.fqm.sel := by
      rw [← h]
      exact Pair.set_get ..
    rw [same]
    rfl

theorem defer_none (passes : passesOver s l = false) : defer s l = s := by
  rw [defer, passes]
  rfl

/-- A record's index granted to the line's selector, the acceptance charged. -/
def grantedTo (s : State) (l : LineId) (g : SendGrant) (r : Rec) (a : Acceptance) : State :=
  ((s.setRecord g.index (some r)).setCsv l { s.csv l with remaining := a }).setSelector l
    { s.selector l with grant := some g }

/-- An acceptance with n blocks less, floored at 0 (R92). -/
def Acceptance.less : Acceptance → Nat → Acceptance
  | .unlimited, _ => .unlimited
  | .blocks m, n => .blocks (m - n)

theorem chargeOne_eq (s : State) (l : LineId) :
    chargeOne s l = s.setCsv l { s.csv l with remaining := (s.csv l).remaining.less 1 } := by
  unfold chargeOne State.onCsv
  dsimp only
  cases (s.csv l).remaining <;> rfl

theorem Acceptance.less_zero (a : Acceptance) : a.less 0 = a := by
  cases a <;> rfl

theorem grantLive_eq (record : s.record i = some r) : grantLive s l i r =
    grantedTo s l ⟨i, true, [], none, false⟩
      { r with grants := r.grants.set (sendOf l) true, charged := r.charged.set l true }
      ((s.csv l).remaining.less (if r.charged.get l then 0 else 1)) := by
  have started : startGrant s (sendOf l) i = s.setRecord i (some { r with grants := r.grants.set (sendOf l) true }) :=
    State.onRecord_eq record _
  unfold grantLive grantedTo
  rw [started]
  dsimp only
  cases h : r.charged.get l
  · have again : (s.setRecord i (some { r with grants := r.grants.set (sendOf l) true })).record i =
        some { r with grants := r.grants.set (sendOf l) true } := by
      rw [State.record_setRecord, if_pos ⟨rfl, State.record_lt record⟩]
    rw [if_neg Bool.false_ne_true, if_neg Bool.false_ne_true, State.onRecord_eq again, State.setRecord_twice, chargeOne_eq]
    cases l <;> rfl
  · have charged : r.charged.set l true = r.charged := by rw [← h]; exact Pair.set_get ..
    rw [if_pos rfl, if_pos rfl, charged, Acceptance.less_zero]
    cases l <;> rfl

theorem grantStored_eq (record : s.record i = some r) : grantStored s l i r =
    grantedTo s l ⟨i, false, leadOf s l r, none, false⟩ { r with grants := r.grants.set (sendOf l) true }
      ((s.csv l).remaining.less (blocksFor r.length)) := by
  have started : startGrant s (sendOf l) i = s.setRecord i (some { r with grants := r.grants.set (sendOf l) true }) :=
    State.onRecord_eq record _
  unfold grantStored grantedTo
  rw [started]
  have csv : (s.setRecord i (some { r with grants := r.grants.set (sendOf l) true })).csv l = s.csv l := rfl
  simp only [State.onCsv, csv]
  cases (s.csv l).remaining <;> cases l <;> rfl

theorem grantedTo_rest (s : State) (l : LineId) (g : SendGrant) (r : Rec) (a : Acceptance) :
    grantedTo s l g r a = { s with
      stm := { s.stm with recs := (grantedTo s l g r a).stm.recs }
      fqm := { s.fqm with sel := s.fqm.sel.set l { s.selector l with grant := some g } }
      sup := s.sup.set l { s.csv l with remaining := a } } := by
  cases l <;> rfl

theorem grantedTo_csv (s : State) (l : LineId) (g : SendGrant) (r : Rec) (a : Acceptance) :
    (grantedTo s l g r a).csv l = { s.csv l with remaining := a } := by
  cases l <;> rfl

theorem grantedTo_selector (s : State) (l : LineId) (g : SendGrant) (r : Rec) (a : Acceptance) :
    (grantedTo s l g r a).selector l = { s.selector l with grant := some g } := by
  cases l <;> rfl

theorem grantedTo_record {g : SendGrant} (record : s.record g.index = some r) (q : Rec) (a : Acceptance) :
    (grantedTo s l g q a).record g.index = some q := by
  change (s.setRecord g.index (some q)).record g.index = some q
  rw [State.record_setRecord, if_pos ⟨rfl, State.record_lt record⟩]

theorem grantedTo_record_ne (s : State) (l : LineId) (g : SendGrant) (q : Rec) (a : Acceptance) {j : Nat}
    (other : j ≠ g.index) : (grantedTo s l g q a).record j = s.record j :=
  State.record_setRecord_ne _ _ other.symm

theorem deferredFrom_selector (s : State) (l : LineId) :
    (deferredFrom s l).selector l = { s.selector l with deferral := true } := by
  cases l <;> rfl


/-- A grant of record i on the line makes u of s: the record is q, the selector x, the remaining acceptance a, and of the
rest at most the latches differ (R89, R90). -/
structure GrantStarted (l : LineId) (s u : State) (i : Nat) (x : Selector) (q : Rec) (a : Acceptance) : Prop where
  others : u = { s with
    stm := { s.stm with recs := u.stm.recs }
    fqm := { s.fqm with sel := s.fqm.sel.set l (u.selector l) }
    sup := s.sup.set l (u.csv l)
    cpe := { s.cpe with latches := u.cpe.latches } }
  records : ∀ j, j ≠ i → u.record j = s.record j
  selector : u.selector l = x
  record : u.record i = some q
  csv : u.csv l = { s.csv l with remaining := a }

theorem grantedTo_started {g : SendGrant} (record : s.record g.index = some r) (q : Rec) (a : Acceptance) :
    GrantStarted l s (grantedTo s l g q a) g.index { s.selector l with grant := some g } q a where
  others := by
    rw [grantedTo_selector, grantedTo_csv]
    exact grantedTo_rest ..
  records := fun j other => grantedTo_record_ne _ _ _ _ _ other
  selector := grantedTo_selector ..
  record := grantedTo_record record _ _
  csv := grantedTo_csv ..

theorem grantedTo_started_deferred {g : SendGrant} (record : s.record g.index = some r) (q : Rec) (a : Acceptance) :
    GrantStarted l s (grantedTo (deferredFrom s l) l g q a) g.index
      { s.selector l with grant := some g, deferral := true } q a := by
  have selector : (grantedTo (deferredFrom s l) l g q a).selector l =
      { s.selector l with grant := some g, deferral := true } := by
    rw [grantedTo_selector, deferredFrom_selector]
  have csv : (grantedTo (deferredFrom s l) l g q a).csv l = { s.csv l with remaining := a } := grantedTo_csv ..
  have found : (deferredFrom s l).record g.index = some r := record
  refine ⟨?_, fun j other => grantedTo_record_ne _ _ _ _ _ other, selector, grantedTo_record found _ _, csv⟩
  rw [selector, csv]
  cases l <;> rfl

/-- SEND_GRANT with a live record first in queue order (R89, R92). -/
theorem sendGrant_grants_live (opened : choiceOpen s l = true)
    (first : FirstInQueue s (sendOf l) (LiveWork l) i r) :
    ∃ u t, exec (.sendGrant l) s = .next t ∧ Settled (oneLine l) u t ∧
      GrantStarted l s u i { s.selector l with grant := some ⟨i, true, [], none, false⟩ }
        { r with grants := r.grants.set (sendOf l) true, charged := r.charged.set l true }
        ((s.csv l).remaining.less (if r.charged.get l then 0 else 1)) := by
  refine ⟨_, _, congrArg Host.Outcome.next (sendGrant_live opened (firstLive_some.mpr first)), settleLine_settled .., ?_⟩
  rw [grantLive_eq first.1]
  exact grantedTo_started (g := ⟨i, true, [], none, false⟩) first.1 _ _

theorem grantStored_started (record : s.record i = some r) :
    GrantStarted l s (grantStored s l i r) i
      { s.selector l with grant := some ⟨i, false, leadOf s l r, none, false⟩ }
      { r with grants := r.grants.set (sendOf l) true } ((s.csv l).remaining.less (blocksFor r.length)) := by
  rw [grantStored_eq record]
  exact grantedTo_started (g := ⟨i, false, leadOf s l r, none, false⟩) record _ _

theorem leadOf_deferredFrom : leadOf (deferredFrom s l) l r = leadOf s l r := by
  cases l <;> rfl

theorem grantStored_started_deferred (record : s.record i = some r) :
    GrantStarted l s (grantStored (deferredFrom s l) l i r) i
      { s.selector l with grant := some ⟨i, false, leadOf s l r, none, false⟩, deferral := true }
      { r with grants := r.grants.set (sendOf l) true } ((s.csv l).remaining.less (blocksFor r.length)) := by
  rw [grantStored_eq (s := deferredFrom s l) record, leadOf_deferredFrom]
  exact grantedTo_started_deferred (g := ⟨i, false, leadOf s l r, none, false⟩) record _ _

/-- SEND_GRANT with no live work, sending allowed and not held back, and a stored record that fits (R90, R91, R92). -/
theorem sendGrant_grants_stored (opened : choiceOpen s l = true) (live : ∀ j q, s.record j = some q → ¬ LiveWork l q)
    (allowed : storedAllowed s l = true) (free : storedHeldBack s l = false)
    (first : FirstInQueue s (sendOf l) (fun q => StoredIn l q ∧ FitsIn (s.csv l).remaining q) i r) :
    ∃ u t, exec (.sendGrant l) s = .next t ∧ Settled (oneLine l) u t ∧
      GrantStarted l s u i
        { s.selector l with
          grant := some ⟨i, false, leadOf s l r, none, false⟩, deferral := (u.selector l).deferral }
        { r with grants := r.grants.set (sendOf l) true } ((s.csv l).remaining.less (blocksFor r.length)) ∧
      (FirstInQueue s (sendOf l) (StoredIn l) i r →
        (u.selector l).deferral = (s.selector l).deferral ∧ u.cpe.latches = s.cpe.latches) ∧
      (¬ FirstInQueue s (sendOf l) (StoredIn l) i r →
        (u.selector l).deferral = true ∧ u.cpe = (deferredFrom s l).cpe) := by
  have fit := firstFit_some.mpr first
  have row := sendGrant_stored_fits opened (firstLive_none.mpr live) allowed free fit
  refine ⟨_, _, congrArg Host.Outcome.next row, settleLine_settled .., ?_⟩
  rw [← passesOver_of_fit fit]
  dsimp only
  cases passes : passesOver s l
  · have started := grantStored_started (l := l) first.1
    rw [defer_none passes]
    have deferral := congrArg Selector.deferral started.selector
    refine ⟨?_, fun _ => ⟨deferral, ?_⟩, fun no => absurd rfl no⟩
    · rw [deferral]
      exact started
    · rw [grantStored_eq first.1]
      rfl
  · have started := grantStored_started_deferred (l := l) first.1
    rw [defer_over passes]
    have deferral := congrArg Selector.deferral started.selector
    refine ⟨?_, fun no => absurd no Bool.noConfusion, fun _ => ⟨deferral, ?_⟩⟩
    · rw [deferral]
      exact started
    · rw [grantStored_eq (s := deferredFrom s l) first.1]
      rfl

/-- SEND_GRANT with no live work and no stored record that fits (R91). -/
theorem sendGrant_grants_none (opened : choiceOpen s l = true) (live : ∀ j q, s.record j = some q → ¬ LiveWork l q)
    (allowed : storedAllowed s l = true) (free : storedHeldBack s l = false)
    (none : ∀ j q, s.record j = some q → StoredIn l q → ¬ FitsIn (s.csv l).remaining q) :
    sendGrant l s = defer s l :=
  sendGrant_stored_none opened (firstLive_none.mpr live) allowed free
    (firstFit_none.mpr fun j q record both => none j q record both.1 both.2)

end Sys2Proof.Machine
end

section
/-! SUPPORT. What appending a line's characters to its open record does (R52, R58). -/

namespace Sys2Proof.Machine

open Sys2Proof

variable {s t u v : State} {l : LineId} {i n k : Nat} {r : Rec} {xs ys : List RxChar} {x : RxChar}

/-! ## Blocks (R58) -/

theorem newBlocks_one (r : Rec) : newBlocks r 1 = if 0 < r.length ∧ r.length % 32 = 0 then 1 else 0 := by
  unfold newBlocks blocksFor
  split <;> omega

theorem newBlocks_zero (r : Rec) : newBlocks r 0 = 0 := Nat.sub_self _

theorem newBlocks_add {q : Rec} (length : q.length = r.length + n) :
    newBlocks r (n + k) = newBlocks r n + newBlocks q k := by
  unfold newBlocks blocksFor
  omega

theorem newBlocks_inBlock (room : r.length = 0 ∨ r.length % 32 ≠ 0) (fit : r.length % 32 + n ≤ 32) :
    newBlocks r n = 0 := by
  unfold newBlocks blocksFor
  omega

theorem blocksFor_newBlocks (r : Rec) (n : Nat) : blocksFor r.length + newBlocks r n = blocksFor (r.length + n) := by
  unfold newBlocks blocksFor
  omega

/-! ## Blocks drawn for a line's writer (R52, R54) -/

/-- n blocks have been drawn for the line's writer: the low condition is evaluated when one came from the unreserved. -/
structure Drawn (l : LineId) (n : Nat) (s u : State) : Prop where
  kept : n ≤ s.stm.reservation.get l → u.stm.low = s.stm.low ∧ u.cpe.latches = s.cpe.latches
  evaluated : s.stm.reservation.get l < n → u.stm.low = decide (unreserved u.stm < s.stm.cfg.storeLow)
  told : s.stm.low = false → u.stm.low = true → Latched u .storeLow
  latched : ∀ k, s.cpe.latches.getLsbD k = true → u.cpe.latches.getLsbD k = true

theorem evalLow_eq (s : State) : evalLow s = { s with
    stm := { s.stm with low := decide (unreserved s.stm < s.stm.cfg.storeLow) }
    cpe := { s.cpe with latches := (evalLow s).cpe.latches } } := by
  unfold evalLow
  dsimp only
  split <;> rfl

theorem evalLow_told (low : s.stm.low = false) (now : (evalLow s).stm.low = true) : Latched (evalLow s) .storeLow := by
  rw [evalLow_eq] at now
  unfold evalLow
  rw [low]
  dsimp only at now ⊢
  rw [now]
  exact latch_latched s .storeLow

theorem lineMayTake_iff {b : Nat} {more : List Nat} (free : s.stm.free = b :: more) :
    LineMayTake s l ↔ 0 < s.stm.reservation.get l ∨ 0 < unreserved s.stm := by
  rw [LineMayTake, unreserved, Nat.sub_pos_iff_lt, free]
  exact and_iff_right (List.cons_ne_nil b more)

theorem takeBlock_refused (none : ¬ LineMayTake s l) : takeBlock s (.line l) = Option.none := by
  unfold takeBlock
  cases free : s.stm.free with
  | nil => rfl
  | cons b more =>
    rw [lineMayTake_iff free, not_or] at none
    dsimp only
    rw [if_neg none.1, if_neg none.2]

/-- The state with this free list. -/
def State.withFree (s : State) (free : List Nat) : State := { s with stm := { s.stm with free := free } }

/-- A block taken for a line's writer, its reservation drawn on first (R52). -/
theorem takeBlock_taken {b : Nat} {more : List Nat} (free : s.stm.free = b :: more) (may : LineMayTake s l) :
    ∃ t, takeBlock s (.line l) = some (b, t) ∧ Drawn l 1 s t ∧
      t = { s with stm := { s.stm.without l 1 with low := t.stm.low }
                   cpe := { s.cpe with latches := t.cpe.latches } } := by
  unfold takeBlock
  rw [free]
  dsimp only
  by_cases reserved : 0 < s.stm.reservation.get l
  · rw [if_pos reserved]
    refine ⟨_, rfl, ⟨fun _ => ⟨rfl, rfl⟩, fun more => by omega, fun low now => ?_, fun _ h => h⟩, ?_⟩
    · rw [show s.stm.low = true from now] at low
      cases low
    · rw [Store.without, free]
      rfl
  · have open' := ((lineMayTake_iff free).mp may).resolve_left reserved
    have zero : s.stm.reservation.get l = 0 := by omega
    have same : s.stm.reservation.set l (s.stm.reservation.get l - 1) = s.stm.reservation := by
      have whole := Pair.set_get s.stm.reservation l
      rw [zero] at whole ⊢
      exact whole
    rw [if_neg reserved, if_pos open']
    refine ⟨_, rfl, ⟨fun more => by omega, fun _ => ?_, evalLow_told (s := s.withFree more),
      (evalLow_storeOnly (fun _ => False) (s.withFree more)).latched⟩, ?_⟩
    · rw [evalLow_eq]
      rfl
    · rw [evalLow_eq, Store.without, same, free]
      rfl

theorem Drawn.refl (l : LineId) (s : State) : Drawn l 0 s s :=
  ⟨fun _ => ⟨rfl, rfl⟩, fun h => absurd h (Nat.not_lt_zero _), fun low now => by simp [low] at now, fun _ h => h⟩

theorem Drawn.trans (a : Drawn l n s t) (b : Drawn l k t u) (cfg : t.stm.cfg = s.stm.cfg)
    (reservation : t.stm.reservation.get l = s.stm.reservation.get l - n)
    (still : k = 0 → unreserved u.stm = unreserved t.stm) : Drawn l (n + k) s u where
  kept := fun fit => by
    obtain ⟨low, latches⟩ := a.kept (by omega)
    obtain ⟨low', latches'⟩ := b.kept (by omega)
    exact ⟨low'.trans low, latches'.trans latches⟩
  evaluated := fun over' => by
    rw [← cfg]
    by_cases more : t.stm.reservation.get l < k
    · exact b.evaluated more
    · obtain ⟨low, -⟩ := b.kept (by omega)
      rw [low, still (by omega), a.evaluated (by omega), cfg]
  told := fun low now => by
    cases between : t.stm.low with
    | false => exact b.told between now
    | true => exact b.latched _ (a.told low between)
  latched := fun k h => b.latched k (a.latched k h)

/-! ## Characters written to a record's cells (R58) -/

/-- The cells with characters written at a record's character n and after. -/
def writeChars (m : List Host.Cell) (q : Rec) : Nat → List RxChar → List Host.Cell
  | _, [] => m
  | n, x :: xs => writeChars (Memory.write m (cellAddr q n) (x.chr.setWidth 8)) q (n + 1) xs

theorem writeChars_append (m : List Host.Cell) (q : Rec) (n : Nat) (xs ys : List RxChar) :
    writeChars m q n (xs ++ ys) = writeChars (writeChars m q n xs) q (n + xs.length) ys := by
  induction xs generalizing m n with
  | nil => rfl
  | cons x xs ih =>
    rw [List.cons_append, writeChars, ih, writeChars, List.length_cons, Nat.add_right_comm, Nat.add_assoc]

theorem writeChars_congr {q p : Rec} (m : List Host.Cell) (n : Nat) (xs : List RxChar)
    (same : ∀ k < xs.length, cellAddr q (n + k) = cellAddr p (n + k)) : writeChars m q n xs = writeChars m p n xs := by
  induction xs generalizing m n with
  | nil => rfl
  | cons x xs ih =>
    have first : cellAddr q n = cellAddr p n := same 0 (Nat.succ_pos _)
    rw [writeChars, writeChars, first]
    refine ih _ _ fun k fit => ?_
    have next := same (k + 1) (Nat.succ_lt_succ fit)
    rwa [show n + (k + 1) = n + 1 + k by omega] at next

theorem writeChars_wf {m : List Host.Cell} (canonical : Memory.wf m = true) (q : Rec) (n : Nat) (xs : List RxChar) :
    Memory.wf (writeChars m q n xs) = true := by
  induction xs generalizing m n with
  | nil => exact canonical
  | cons x xs ih => exact ih (Memory.write_wf _ canonical _ _) _

/-- A cell that no character is written to reads as before. -/
theorem writeChars_other {m : List Host.Cell} (canonical : Memory.wf m = true) {q : Rec} {n a : Nat} {xs : List RxChar}
    (other : ∀ k < xs.length, a ≠ cellAddr q (n + k)) : Memory.read (writeChars m q n xs) a = Memory.read m a := by
  induction xs generalizing m n with
  | nil => rfl
  | cons x xs ih =>
    have first : a ≠ cellAddr q n := other 0 (Nat.succ_pos _)
    rw [writeChars, ih (Memory.write_wf _ canonical _ _) fun k fit => ?_, Memory.read_write _ canonical, if_neg first]
    have next := other (k + 1) (Nat.succ_lt_succ fit)
    rwa [show n + (k + 1) = n + 1 + k by omega] at next

/-- The cells of n characters of a record from its character m on are different ones. -/
def CellsApart (q : Rec) (m n : Nat) : Prop := ∀ j k, j < k → k < n → cellAddr q (m + j) ≠ cellAddr q (m + k)

theorem writeChars_at {m : List Host.Cell} (canonical : Memory.wf m = true) {q : Rec} {n k : Nat} {xs : List RxChar}
    (apart : CellsApart q n xs.length) {y : RxChar} (at' : xs[k]? = some y) :
    Memory.read (writeChars m q n xs) (cellAddr q (n + k)) = y.chr.setWidth 8 := by
  induction xs generalizing m n k with
  | nil => simp at at'
  | cons x xs ih =>
    have wf := Memory.write_wf m canonical (cellAddr q n) (x.chr.setWidth 8)
    have later : CellsApart q (n + 1) xs.length := fun a b less fit => by
      have := apart (a + 1) (b + 1) (Nat.succ_lt_succ less) (Nat.succ_lt_succ fit)
      rwa [show n + (a + 1) = n + 1 + a by omega, show n + (b + 1) = n + 1 + b by omega] at this
    cases k with
    | zero =>
      obtain rfl := Option.some.inj at'
      rw [writeChars, writeChars_other wf fun k fit => ?_, Memory.read_write _ canonical]
      · exact if_pos rfl
      have := apart 0 (k + 1) (Nat.succ_pos _) (Nat.succ_lt_succ fit)
      rwa [show n + (k + 1) = n + 1 + k by omega] at this
    | succ k =>
      rw [writeChars, show n + (k + 1) = n + 1 + k by omega]
      exact ih wf later at'

theorem setWidth_back (c : Chr) : (c.setWidth 8).setWidth 7 = c := by
  simp

theorem cellAddr_chain {q p : Rec} (chain : q.chain = p.chain) (n : Nat) : cellAddr q n = cellAddr p n := by
  rw [cellAddr, cellAddr, chain]

/-- A record's cells are different where its chain's blocks are. -/
theorem cellAddr_injective {q : Rec} (nodup : q.chain.Nodup) {a b : Nat} (fitA : a < 32 * q.chain.length)
    (fitB : b < 32 * q.chain.length) (same : cellAddr q a = cellAddr q b) : a = b := by
  have inA : a / 32 < q.chain.length := by omega
  have inB : b / 32 < q.chain.length := by omega
  rw [cellAddr, cellAddr, List.getElem?_eq_getElem inA, List.getElem?_eq_getElem inB, Option.getD_some,
    Option.getD_some] at same
  have block : q.chain[a / 32] = q.chain[b / 32] := by omega
  have index := (nodup.getElem_inj_iff).mp block
  omega

theorem cellsApart_of_nodup {q : Rec} (nodup : q.chain.Nodup) {m n : Nat} (fit : m + n ≤ 32 * q.chain.length) :
    CellsApart q m n := fun j k less more same => by
  have := cellAddr_injective nodup (by omega) (by omega) same
  omega

theorem cellsApart_inBlock {q : Rec} {m n : Nat} (fit : m % 32 + n ≤ 32) : CellsApart q m n :=
  fun j k less more same => by
    unfold cellAddr at same
    rw [show (m + j) / 32 = (m + k) / 32 by omega] at same
    omega

/-! ## The append (R52, R58) -/

/-- The state with characters appended to record i, which was r, at this low condition and these latches: the characters'
blocks drawn, their cells written and the record longer. -/
def appendedAs (s : State) (l : LineId) (i : Nat) (r : Rec) (xs : List RxChar) (low : Bool) (latches : BitVec 17) : State :=
  { s with
    stm := { s.stm.without l (newBlocks r xs.length) with
      recs := s.stm.recs.set i (some (r.longer s.stm.free xs))
      cells := writeChars s.stm.cells (r.longer s.stm.free xs) r.length xs
      low := low }
    cpe := { s.cpe with latches := latches } }

/-- The characters have been appended to record i, which was r, the low condition being evaluated as blocks were drawn. -/
structure Appended (l : LineId) (i : Nat) (r : Rec) (xs : List RxChar) (s u : State) : Prop where
  state : u = appendedAs s l i r xs u.stm.low u.cpe.latches
  drawn : Drawn l (newBlocks r xs.length) s u

theorem Appended.record (a : Appended l i r xs s u) (record : s.record i = some r) :
    u.record i = some (r.longer s.stm.free xs) := by
  rw [a.state]
  exact (State.record_setRecord s i i _).trans (if_pos ⟨rfl, State.record_lt record⟩)

theorem Appended.others (a : Appended l i r xs s u) {j : Nat} (other : j ≠ i) : u.record j = s.record j := by
  rw [a.state]
  exact State.record_setRecord_ne s _ other.symm

theorem without_zero (m : Store) (l : LineId) : m.without l 0 = m := by
  rw [Store.without, Nat.sub_zero, Pair.set_get]
  rfl

theorem longer_nil (r : Rec) (free : List Nat) : r.longer free [] = r := by
  simp [Rec.longer, newBlocks_zero]

theorem Appended.nil (l : LineId) (record : s.record i = some r) : Appended l i r [] s s where
  state := by
    rw [appendedAs, longer_nil, List.length_nil, newBlocks_zero, without_zero]
    change s = s.setRecord i (some r)
    rw [State.setRecord_same record]
  drawn := by
    rw [List.length_nil, newBlocks_zero]
    exact .refl l s

/-- The chain can hold the record's text as it stands, or no block is needed for n characters more. -/
def ChainStands (r : Rec) (n : Nat) : Prop := newBlocks r n = 0 ∨ r.chain.length = blocksFor r.length

/-- One character appended in a block that has room, or in a block that can be taken (R58). -/
theorem appendRaw_appends (record : s.record i = some r)
    (may : 0 < r.length → r.length % 32 = 0 → LineMayTake s l) :
    ∃ u, appendRaw s (.line l) i x.chr x.errored = some u ∧ Appended l i r [x] s u := by
  unfold appendRaw
  rw [record]
  dsimp only
  have flags (q : Rec) : (q.flags.errored || x.errored) = (q.flags.errored || [x].any (·.errored)) := by simp
  by_cases full : 0 < r.length ∧ r.length % 32 = 0
  · have one : newBlocks r [x].length = 1 := by rw [List.length_singleton, newBlocks_one, if_pos full]
    have taking := may full.1 full.2
    obtain ⟨b, more, free⟩ := List.exists_cons_of_ne_nil taking.1
    obtain ⟨t, taken, drawn, rest⟩ := takeBlock_taken free taking
    rw [if_pos full, taken]
    refine ⟨_, rfl, ?_, ?_⟩
    · dsimp only [appendedAs, writeChars, Rec.longer]
      rw [one, free, rest, flags]
      rfl
    · rw [one]
      exact ⟨drawn.kept, drawn.evaluated, drawn.told, drawn.latched⟩
  · have none : newBlocks r [x].length = 0 := by rw [List.length_singleton, newBlocks_one, if_neg full]
    rw [if_neg full]
    refine ⟨_, rfl, ?_, ?_⟩
    · dsimp only [appendedAs, writeChars, Rec.longer]
      rw [none, without_zero, flags, List.take_zero, List.append_nil]
      rfl
    · rw [none]
      exact ⟨(Drawn.refl l s).kept, (Drawn.refl l s).evaluated, (Drawn.refl l s).told, fun _ h => h⟩

/-- The append fails where a block is needed and none can be taken (R52, R58). -/
theorem appendRaw_fails (record : s.record i = some r) (some' : 0 < r.length) (full : r.length % 32 = 0)
    (none : ¬ LineMayTake s l) (c : Chr) (e : Bool) : appendRaw s (.line l) i c e = Option.none := by
  unfold appendRaw
  rw [record]
  dsimp only
  rw [if_pos ⟨some', full⟩, takeBlock_refused none]

theorem longer_append (r : Rec) (free : List Nat) (xs ys : List RxChar) :
    (r.longer free xs).longer (free.drop (newBlocks r xs.length)) ys = r.longer free (xs ++ ys) := by
  have add := newBlocks_add (r := r) (n := xs.length) (k := ys.length) (q := r.longer free xs) rfl
  simp only [Rec.longer, List.length_append, List.any_append, ← Bool.or_assoc, ← Nat.add_assoc] at add ⊢
  rw [add, List.take_add, List.append_assoc]

theorem cellAddr_append {q p : Rec} {bs : List Nat} (chain : q.chain = p.chain ++ bs)
    (within : n < 32 * p.chain.length) : cellAddr q n = cellAddr p n := by
  rw [cellAddr, cellAddr, chain, List.getElem?_append_left (by omega)]

theorem longer_chain_length (chain : r.chain.length = blocksFor r.length) {free : List Nat}
    (room : newBlocks r xs.length ≤ free.length) :
    (r.longer free xs).chain.length = blocksFor (r.length + xs.length) := by
  rw [Rec.longer, List.length_append, List.length_take, Nat.min_eq_left room, chain, blocksFor_newBlocks]

theorem le_blocksFor (n : Nat) : n ≤ 32 * blocksFor n := by
  unfold blocksFor
  omega

/-- The cells of a record's text stay where they are when the record grows. -/
theorem cellAddr_longer (stands : ChainStands r (xs.length + ys.length)) {free : List Nat}
    (within : n < r.length + xs.length) (room : newBlocks r xs.length ≤ free.length) :
    cellAddr (r.longer free (xs ++ ys)) n = cellAddr (r.longer free xs) n := by
  rcases stands with none | chain
  · have add := newBlocks_add (r := r) (n := xs.length) (k := ys.length) (q := r.longer free xs) rfl
    have here : newBlocks r xs.length = 0 := by omega
    refine cellAddr_chain ?_ n
    rw [Rec.longer, Rec.longer, List.length_append, none, here]
  · have fit := le_blocksFor (r.length + xs.length)
    rw [← longer_chain_length chain room] at fit
    rw [← longer_append]
    exact cellAddr_append rfl (by omega)

theorem appendedAs_twice (stands : ChainStands r (xs.length + ys.length)) (room : newBlocks r xs.length ≤ s.stm.free.length)
    (a c : Bool) (b d : BitVec 17) :
    appendedAs (appendedAs s l i r xs a b) l i (r.longer s.stm.free xs) ys c d = appendedAs s l i r (xs ++ ys) c d := by
  have add := newBlocks_add (r := r) (n := xs.length) (k := ys.length) (q := r.longer s.stm.free xs) rfl
  have cells : writeChars (writeChars s.stm.cells (r.longer s.stm.free xs) r.length xs)
      (r.longer s.stm.free (xs ++ ys)) (r.length + xs.length) ys =
      writeChars s.stm.cells (r.longer s.stm.free (xs ++ ys)) r.length (xs ++ ys) := by
    rw [writeChars_append, writeChars_congr (q := r.longer s.stm.free xs) (p := r.longer s.stm.free (xs ++ ys))]
    exact fun k fit => (cellAddr_longer stands (by omega) room).symm
  have length : (r.longer s.stm.free xs).length = r.length + xs.length := rfl
  dsimp only [appendedAs, Store.without]
  rw [longer_append, length, cells, List.length_append, add]
  simp only [Pair.get_set_same, List.drop_drop, List.set_set, Nat.sub_sub]
  cases l <;> rfl

theorem unreserved_still (m : Store) (l : LineId) : unreserved (m.without l 0) = unreserved m := by
  rw [without_zero]

/-- Appending one run of characters and then another is appending both. -/
theorem Appended.trans (a : Appended l i r xs s t) (b : Appended l i (r.longer s.stm.free xs) ys t u)
    (stands : ChainStands r (xs.length + ys.length)) (room : newBlocks r xs.length ≤ s.stm.free.length) :
    Appended l i r (xs ++ ys) s u where
  state := by
    have state := b.state
    rw [a.state, appendedAs_twice stands room] at state
    exact state
  drawn := by
    rw [List.length_append, newBlocks_add (q := r.longer s.stm.free xs) rfl]
    refine a.drawn.trans b.drawn ?_ ?_ fun none => ?_
    · rw [a.state]
      rfl
    · rw [a.state]
      exact Pair.get_set_same ..
    · rw [b.state, appendedAs, none, without_zero]
      rfl

/-! ## The line's writer (R52, R58, R59, R60) -/

/-- The line's writer is linked to record i, which is r, with no discard episode. -/
structure Writing (s : State) (l : LineId) (i : Nat) (r : Rec) : Prop where
  episode : s.stm.episode.get l = false
  link : s.stm.lineLink.get l = some i
  record : s.record i = some r

theorem Appended.writing (a : Appended l i r xs s u) (w : Writing s l i r) :
    Writing u l i (r.longer s.stm.free xs) where
  episode := by rw [a.state]; exact w.episode
  link := by rw [a.state]; exact w.link
  record := a.record w.record

theorem Appended.cfg (a : Appended l i r xs s u) : u.stm.cfg = s.stm.cfg := by
  rw [a.state]
  rfl

theorem atLimit_iff (record : s.record i = some r) : atLimit s i = true ↔ s.stm.cfg.maxMsgLen ≤ r.length := by
  rw [atLimit, record]
  exact decide_eq_true_iff

theorem offerChar_stores {w : Writer} (link : writerLink s w = some i) (below : ¬ atLimit s i = true) {c : Chr} {e : Bool}
    (room : appendAndSplit s w i c e = some u) (fresh : OpenSpec) : offerChar s w fresh c e = ⟨u, true, false⟩ := by
  unfold offerChar
  simp only [link, if_neg below, room]

theorem offerChar_refuses {w : Writer} (link : writerLink s w = some i) (below : ¬ atLimit s i = true) {c : Chr}
    {e : Bool} (full : appendAndSplit s w i c e = none) (fresh : OpenSpec) :
    offerChar s w fresh c e = ⟨s, false, false⟩ := by
  unfold offerChar
  simp only [link, if_neg below, full]

theorem storeLineChar_offers (episode : s.stm.episode.get l = false) : storeLineChar s l x =
    if (offerChar s (.line l) (lineSpec s l) x.chr x.errored).stored then
      (offerChar s (.line l) (lineSpec s l) x.chr x.errored).st
    else beginEpisode (offerChar s (.line l) (lineSpec s l) x.chr x.errored).st l true := by
  rw [storeLineChar, episode]
  rfl

/-- Offering a character to an open record below the limit, a block being there for it. -/
theorem storeLineChar_appends (w : Writing s l i r) (below : r.length < s.stm.cfg.maxMsgLen)
    (may : 0 < r.length → r.length % 32 = 0 → LineMayTake s l) :
    ∃ u, Appended l i r [x] s u ∧
      storeLineChar s l x = if s.stm.cfg.maxMsgLen ≤ r.length + 1 then splitRecord u (.line l) i else u := by
  obtain ⟨u, raw, appended⟩ := appendRaw_appends (x := x) w.record may
  refine ⟨u, appended, ?_⟩
  have free : ¬ atLimit s i = true := by rw [atLimit_iff w.record]; omega
  have limit : atLimit u i = true ↔ s.stm.cfg.maxMsgLen ≤ r.length + 1 := by
    rw [atLimit_iff (appended.record w.record), appended.cfg]
    exact .rfl
  have whole : appendAndSplit s (.line l) i x.chr x.errored =
      some (if s.stm.cfg.maxMsgLen ≤ r.length + 1 then splitRecord u (.line l) i else u) := by
    unfold appendAndSplit
    rw [raw]
    simp only [limit]
  rw [storeLineChar_offers w.episode, offerChar_stores (w := .line l) w.link free whole]
  rfl

/-- Offering a character for which no block can be taken: a discard episode begins (R60). -/
theorem storeLineChar_refused (w : Writing s l i r) (below : r.length < s.stm.cfg.maxMsgLen) (some' : 0 < r.length)
    (full : r.length % 32 = 0) (none : ¬ LineMayTake s l) : storeLineChar s l x = beginEpisode s l true := by
  have free : ¬ atLimit s i = true := by rw [atLimit_iff w.record]; omega
  have whole : appendAndSplit s (.line l) i x.chr x.errored = Option.none := by
    unfold appendAndSplit
    rw [appendRaw_fails w.record some' full none]
  rw [storeLineChar_offers w.episode, offerChar_refuses (w := .line l) w.link free whole]
  rfl

/-- The state with n characters more discarded on the line (R60). -/
def dropped (s : State) (l : LineId) (n : Nat) : State :=
  { s with stm := { s.stm with discarded := s.stm.discarded.set l (min (s.stm.discarded.get l + n) 65535) } }

theorem dropped_twice (s : State) (l : LineId) (n k : Nat) : dropped (dropped s l n) l k = dropped s l (n + k) := by
  have count : min (min (s.stm.discarded.get l + n) 65535 + k) 65535 = min (s.stm.discarded.get l + (n + k)) 65535 := by
    omega
  unfold dropped
  rw [Pair.get_set_same, count]
  cases l <;> rfl

/-- In an episode characters are counted and dropped (R60). -/
theorem storeLineChar_counts (episode : s.stm.episode.get l = true) : storeLineChar s l x = dropped s l 1 :=
  if_pos episode

theorem storeLineChars_cons (s : State) (l : LineId) (x : RxChar) (xs : List RxChar) :
    storeLineChars s l (x :: xs) = storeLineChars (storeLineChar s l x) l xs := rfl

theorem storeLineChars_append (s : State) (l : LineId) (xs ys : List RxChar) :
    storeLineChars s l (xs ++ ys) = storeLineChars (storeLineChars s l xs) l ys := List.foldl_append ..

theorem storeLineChars_counts (episode : s.stm.episode.get l = true) (some' : xs ≠ []) :
    storeLineChars s l xs = dropped s l xs.length := by
  induction xs generalizing s with
  | nil => exact absurd rfl some'
  | cons x xs ih =>
    rw [storeLineChars_cons, storeLineChar_counts episode, List.length_cons, Nat.add_comm]
    by_cases more : xs = []
    · rw [more]
      rfl
    · rw [ih (s := dropped s l 1) episode more, dropped_twice]

/-- The blocks that n more characters take can be drawn for the line's writer. -/
def RoomFor (s : State) (l : LineId) (r : Rec) (n : Nat) : Prop :=
  newBlocks r n ≤ s.stm.free.length ∧ newBlocks r n - s.stm.reservation.get l ≤ unreserved s.stm

theorem RoomFor.may (room : RoomFor s l r (n + 1)) (some' : 0 < r.length) (full : r.length % 32 = 0) :
    LineMayTake s l := by
  obtain ⟨free, draw⟩ := room
  have one : 0 < newBlocks r (n + 1) := by
    unfold newBlocks blocksFor
    omega
  have more : s.stm.free ≠ [] := List.ne_nil_of_length_pos (by omega)
  obtain ⟨b, bs, e⟩ := List.exists_cons_of_ne_nil more
  exact (lineMayTake_iff e).mpr (by omega)

theorem RoomFor.after (room : RoomFor s l r (n + k)) (a : Appended l i r xs s u) (length : xs.length = n) :
    RoomFor u l (r.longer s.stm.free xs) k := by
  obtain ⟨free, draw⟩ := room
  rw [newBlocks_add (q := r.longer s.stm.free xs) (by rw [← length]; rfl)] at free draw
  unfold RoomFor unreserved at *
  rw [a.state, appendedAs, Store.without, length]
  dsimp only
  rw [Pair.get_set_same, List.length_drop]
  cases l <;> simp only [Pair.get, Pair.set] at * <;> omega

theorem ChainStands.after (stands : ChainStands r (n + k)) {free : List Nat} (length : xs.length = n)
    (room : newBlocks r n ≤ free.length) : ChainStands (r.longer free xs) k := by
  subst length
  rcases stands with none | chain
  · have add := newBlocks_add (r := r) (n := xs.length) (k := k) (q := r.longer free xs) rfl
    exact .inl (by omega)
  · exact .inr (longer_chain_length chain room)

theorem newBlocks_mono (r : Rec) (more : n ≤ k) : newBlocks r n ≤ newBlocks r k := by
  unfold newBlocks blocksFor
  omega

/-- Characters appended to an open record that stays below the limit (R58). -/
theorem storeLineChars_appends (w : Writing s l i r) (below : r.length + xs.length < s.stm.cfg.maxMsgLen)
    (stands : ChainStands r xs.length) (room : RoomFor s l r xs.length) :
    Appended l i r xs s (storeLineChars s l xs) := by
  induction xs generalizing s r with
  | nil => exact .nil l w.record
  | cons x xs ih =>
    rw [List.length_cons] at below
    obtain ⟨t, first, step⟩ := storeLineChar_appends (x := x) w (by omega) room.may
    rw [storeLineChars_cons, step, if_neg (by omega)]
    rw [List.length_cons, Nat.add_comm] at stands room
    have free : newBlocks r 1 ≤ s.stm.free.length := (newBlocks_mono r (by omega)).trans room.1
    refine first.trans (ih (first.writing w) ?_ (stands.after rfl free) (room.after first rfl)) stands free
    rw [first.cfg]
    change r.length + 1 + xs.length < _
    omega

/-- Characters appended to an open record, the last of them reaching the limit (R59). -/
theorem storeLineChars_splits (w : Writing s l i r) (some' : xs ≠ [])
    (limit : r.length + xs.length = s.stm.cfg.maxMsgLen) (stands : ChainStands r xs.length)
    (room : RoomFor s l r xs.length) :
    ∃ u, Appended l i r xs s u ∧ storeLineChars s l xs = splitRecord u (.line l) i := by
  obtain ⟨ys, x, rfl⟩ : ∃ ys x, xs = ys ++ [x] :=
    ⟨xs.dropLast, xs.getLast some', (List.dropLast_append_getLast some').symm⟩
  rw [List.length_append, List.length_singleton] at *
  have free : newBlocks r ys.length ≤ s.stm.free.length := (newBlocks_mono r (by omega)).trans room.1
  have room' : RoomFor s l r ys.length := by
    have := newBlocks_mono r (Nat.le_add_right ys.length 1)
    exact ⟨free, by have := room.2; omega⟩
  have stands' : ChainStands r ys.length := stands.imp_left fun none => by
    have := newBlocks_mono r (Nat.le_add_right ys.length 1)
    omega
  have first := storeLineChars_appends w (by omega) stands' room'
  obtain ⟨u, last, step⟩ := storeLineChar_appends (x := x) (first.writing w)
    (by rw [first.cfg]; change r.length + ys.length < _; omega) (room.after first rfl).may
  refine ⟨u, first.trans last stands free, ?_⟩
  rw [storeLineChars_append, storeLineChars_cons, step, if_pos]
  · rfl
  · rw [first.cfg]
    exact limit.ge

/-! ## The close and the split (R59, R61, R78) -/

/-- The link to record i ended. -/
def unlinkedFrom (i : Nat) (x : Option Nat) : Option Nat := if x = some i then none else x

/-- The store with record i's links ended. -/
def Store.unlinked (m : Store) (i : Nat) : Store :=
  { m with lineLink := ⟨unlinkedFrom i m.lineLink.a, unlinkedFrom i m.lineLink.b⟩, kbLink := unlinkedFrom i m.kbLink }

/-- Record i closes, being r: its links end, it joins its SEND queues, and its events are latched (R61, R78). -/
structure Closes (i : Nat) (r : Rec) (s u : State) : Prop where
  state : u = { s with
    stm := { s.stm.unlinked i with recs := s.stm.recs.set i (some (closedAs s.fqm.seq r)) }
    fqm := { s.fqm with seq := (joins (closeQueues r.dests) r.stamp s.fqm.seq).2 }
    cpe := { s.cpe with latches := u.cpe.latches } }
  arrived : r.origin ≠ .console → Latched u .msgArrived
  hold : r.dests.hold = true → Latched u .holdReady
  latched : ∀ k, s.cpe.latches.getLsbD k = true → u.cpe.latches.getLsbD k = true

theorem closeRecord_closes (record : s.record i = some r) (opened : r.state = .opened)
    (pending : r.dests.isEmpty = false) : Closes i r s (closeRecord s i true) := by
  have step := (closeRecord_step (framing := false) s i true).latched
  have whole := closeRecord_eq record opened pending true
  dsimp only at whole
  rw [whole] at step ⊢
  simp only [Bool.true_and, decide_eq_true_eq] at step ⊢
  refine ⟨?_, fun line => ?_, fun hold => ?_, step⟩
  · split <;> split <;> rfl
  · rw [if_pos line]
    have mark := latch_latched (stamped (unlink s i) i { r with state := .closed }
      (joins (closeQueues r.dests) r.stamp s.fqm.seq)) .msgArrived
    split
    · exact latch_mono _ .holdReady _ mark
    · exact mark
  · rw [if_pos hold]
    exact latch_latched ..

theorem Closes.record (c : Closes i r s u) (within : i < s.stm.recs.length) :
    u.record i = some (closedAs s.fqm.seq r) := by
  rw [c.state]
  exact (State.record_setRecord s i i _).trans (if_pos ⟨rfl, within⟩)

theorem Closes.others (c : Closes i r s u) {j : Nat} (other : j ≠ i) : u.record j = s.record j := by
  rw [c.state]
  exact State.record_setRecord_ne s _ other.symm

theorem unlinked_link {m : Store} (link : m.lineLink.get l = some i) : (m.unlinked i).lineLink.get l = none := by
  cases l <;> exact if_pos link

theorem Closes.link (c : Closes i r s u) (link : s.stm.lineLink.get l = some i) : u.stm.lineLink.get l = none := by
  rw [c.state]
  exact unlinked_link link

/-- The line's writer is owed a continuation, or nothing (R59). -/
def owing (s : State) (l : LineId) (spec : Option OpenSpec) : State :=
  { s with stm := { s.stm with lineOwed := s.stm.lineOwed.set l spec } }

/-- The line's message is over: no episode, and nothing owed (R59, R60). -/
def messageOver (s : State) (l : LineId) : State :=
  { s with stm := { s.stm with episode := s.stm.episode.set l false, lineOwed := s.stm.lineOwed.set l none } }

theorem closeLineMessage_closes (link : s.stm.lineLink.get l = some i) (record : s.record i = some r)
    (opened : r.state = .opened) (pending : r.dests.isEmpty = false) :
    ∃ v, Closes i r s v ∧ closeLineMessage s l = messageOver v l := by
  refine ⟨_, closeRecord_closes record opened pending, ?_⟩
  rw [closeLineMessage, link]
  rfl

theorem closeLineMessage_unlinked (link : s.stm.lineLink.get l = none) : closeLineMessage s l = messageOver s l := by
  rw [closeLineMessage, link]
  rfl

/-- The record with SPLIT set (R59). -/
def Rec.splitOff (r : Rec) : Rec := { r with flags := { r.flags with split := true } }

theorem splitRecord_closes (record : s.record i = some r) (opened : r.state = .opened)
    (pending : r.dests.isEmpty = false) : ∃ v, Closes i r.splitOff s v ∧
      splitRecord s (.line l) i = owing v l (some (continuationOf r)) := by
  have at' : (s.setRecord i (some r.splitOff)).record i = some r.splitOff := by
    rw [State.record_setRecord, if_pos ⟨rfl, State.record_lt record⟩]
  have closes := closeRecord_closes at' opened pending
  refine ⟨_, ⟨?_, closes.arrived, closes.hold, closes.latched⟩, ?_⟩
  · refine closes.state.trans ?_
    dsimp only [State.setRecord, Store.unlinked]
    rw [List.set_set]
  · rw [splitRecord, record]
    rfl

/-! ## The discard episode (R60) -/

/-- An episode begun on a line whose writer is linked to record i, the failing character counted. -/
theorem beginEpisode_linked (w : Writing s l i r) : beginEpisode s l true =
    { s with
      stm := { s.stm with
        recs := s.stm.recs.set i (some { r with flags := { r.flags with truncated := true } })
        episode := s.stm.episode.set l true
        discarded := s.stm.discarded.set l (min (s.stm.discarded.get l + 1) 65535) }
      cpe := { s.cpe with latches := s.cpe.latches ||| BitVec.twoPow 17 8 } } := by
  unfold beginEpisode
  dsimp only
  rw [w.link]
  dsimp only
  rw [State.onRecord_eq (r := r) (by exact w.record)]
  rfl

theorem beginEpisode_unlinked (link : s.stm.lineLink.get l = none) (counted : Bool) : beginEpisode s l counted =
    { s with
      stm := { s.stm with
        episode := s.stm.episode.set l true
        discarded := s.stm.discarded.set l
          (if counted then min (s.stm.discarded.get l + 1) 65535 else s.stm.discarded.get l) }
      cpe := { s.cpe with latches := s.cpe.latches ||| BitVec.twoPow 17 8 } } := by
  unfold beginEpisode
  dsimp only
  rw [link]
  rfl

/-! ## A record at the limit (R59) -/

theorem offerChar_atLimit {w : Writer} (link : writerLink s w = some i) (limit : atLimit s i = true)
    (unlinks : writerLink (splitRecord s w i) w = none) (fresh : OpenSpec) (c : Chr) (e : Bool) :
    offerChar s w fresh c e = offerChar (splitRecord s w i) w fresh c e := by
  unfold offerChar
  simp only [link, unlinks, if_pos limit]

theorem splitRecord_unlinks (link : s.stm.lineLink.get l = some i) (record : s.record i = some r)
    (opened : r.state = .opened) (pending : r.dests.isEmpty = false) :
    (splitRecord s (.line l) i).stm.lineLink.get l = none := by
  obtain ⟨v, closes, e⟩ := splitRecord_closes (l := l) record opened pending
  rw [e]
  exact closes.link link

theorem lineSpec_step (step : StoreStep s t false) : lineSpec t l = lineSpec s l := by
  have csv : t.csv l = s.csv l := by rw [State.csv, step.sup, State.csv]
  unfold lineSpec routeOf
  rw [csv, step.fqm]

/-- A record found at or above the limit splits before the character is offered (R59). -/
theorem storeLineChar_atLimit (w : Writing s l i r) (limit : s.stm.cfg.maxMsgLen ≤ r.length) (opened : r.state = .opened)
    (pending : r.dests.isEmpty = false) : storeLineChar s l x = storeLineChar (splitRecord s (.line l) i) l x := by
  have unlinks := splitRecord_unlinks w.link w.record opened pending
  have quiet : (splitRecord s (.line l) i).stm.episode.get l = false := by
    obtain ⟨v, closes, e⟩ := splitRecord_closes (l := l) w.record opened pending
    rw [e, owing, closes.state]
    exact w.episode
  rw [storeLineChar_offers w.episode, storeLineChar_offers quiet, lineSpec_step (splitRecord_step ..),
    offerChar_atLimit (w := .line l) w.link ((atLimit_iff w.record).mpr limit) unlinks]

/-! ## Every block in one place (R51) -/

theorem freeAndChain_nodup (conserved : BlocksConserved s) (record : s.record i = some r) :
    (s.stm.free ++ r.chain).Nodup := by
  have all : (s.stm.free ++ chains s).Nodup := conserved.nodup_iff.mpr List.nodup_range
  obtain ⟨free, held, apart⟩ := List.nodup_append'.mp all
  have within : ∀ b ∈ r.chain, b ∈ chains s := fun b mem =>
    List.mem_flatMap.mpr ⟨(i, r), (mem_entries ..).mpr record, mem⟩
  refine List.nodup_append'.mpr ⟨free, ?_, fun b mem mem' => apart mem (within b mem')⟩
  exact (List.nodup_flatMap.mp held).1 (i, r) ((mem_entries ..).mpr record)

theorem chain_elsewhere (conserved : BlocksConserved s) (record : s.record i = some r) {j : Nat} {q : Rec}
    (other : j ≠ i) (record' : s.record j = some q) {b : Nat} (mem : b ∈ q.chain) : b ∉ s.stm.free ++ r.chain := by
  have all : (s.stm.free ++ chains s).Nodup := conserved.nodup_iff.mpr List.nodup_range
  obtain ⟨-, held, apart⟩ := List.nodup_append'.mp all
  have here : (j, q) ∈ s.entries := (mem_entries ..).mpr record'
  rw [List.mem_append, not_or]
  refine ⟨fun free => apart free (List.mem_flatMap.mpr ⟨_, here, mem⟩), fun own => ?_⟩
  have pairs := (List.nodup_flatMap.mp held).2
  have symmetric : Std.Symm (Function.onFun List.Disjoint fun e : Nat × Rec => e.2.chain) := ⟨fun _ _ h => h.symm⟩
  exact (pairs.forall here ((mem_entries ..).mpr record) fun e => other (congrArg Prod.fst e)) mem own

theorem longer_nodup (conserved : BlocksConserved s) (record : s.record i = some r) (xs : List RxChar) :
    (r.longer s.stm.free xs).chain.Nodup := by
  have all := (List.perm_append_comm.nodup_iff).mp (freeAndChain_nodup conserved record)
  exact all.sublist ((List.Sublist.refl _).append (List.take_sublist ..))

/-! ## The text that has been appended (R58) -/

theorem cellAddr_block {q : Rec} (within : n < 32 * q.chain.length) :
    ∃ b ∈ q.chain, cellAddr q n = 32 * b + n % 32 := by
  have inside : n / 32 < q.chain.length := by omega
  exact ⟨_, List.getElem_mem inside, by rw [cellAddr, List.getElem?_eq_getElem inside, Option.getD_some]⟩

theorem textAppended (canonical : CellsCanonical s) (conserved : BlocksConserved s) (record : s.record i = some r)
    (chain : r.chain.length = blocksFor r.length) (room : newBlocks r xs.length ≤ s.stm.free.length)
    (cells : u.stm.cells = writeChars s.stm.cells (r.longer s.stm.free xs) r.length xs) :
    TextAppended s u i r (r.longer s.stm.free xs) xs := by
  have nodup := longer_nodup conserved record xs
  have old := le_blocksFor r.length
  have new := le_blocksFor (r.length + xs.length)
  rw [← chain] at old
  rw [← longer_chain_length chain room] at new
  constructor
  · intro k fit
    have same : cellAddr (r.longer s.stm.free xs) k = cellAddr r k := cellAddr_append rfl (by omega)
    have untouched : Memory.read u.stm.cells (cellAddr r k) = Memory.read s.stm.cells (cellAddr r k) := by
      rw [cells, ← same]
      refine writeChars_other canonical fun j more e => ?_
      have := cellAddr_injective nodup (by omega) (by omega) e
      omega
    rw [readChar, readChar, same, untouched]
  · intro k y at'
    rw [readChar, cells, writeChars_at canonical (cellsApart_of_nodup nodup new) at', setWidth_back]
  · intro j q other record' n within
    obtain ⟨b, mem, addr⟩ := cellAddr_block within
    have elsewhere := chain_elsewhere conserved record other record' mem
    have untouched : Memory.read u.stm.cells (cellAddr q n) = Memory.read s.stm.cells (cellAddr q n) := by
      rw [cells]
      refine writeChars_other canonical fun k fit e => ?_
      obtain ⟨c, mem', addr'⟩ := cellAddr_block (q := r.longer s.stm.free xs) (n := r.length + k) (by omega)
      rw [addr, addr'] at e
      have same : b = c := by omega
      subst same
      refine elsewhere (List.mem_append.mpr ?_)
      rcases List.mem_append.mp mem' with own | taken
      · exact .inr own
      · exact .inl (List.mem_of_mem_take taken)
    rw [readChar, readChar, untouched]

end Sys2Proof.Machine
end

section
/-! SUPPORT. What the end of a line's message does (R59, R60, R86). -/

namespace Sys2Proof.Machine

open Sys2Proof

variable {s t u v : State} {l : LineId} {i n k : Nat} {r : Rec} {xs ys : List RxChar} {x : RxChar}

/-- Record i, linked to the line's writer and OPEN with something pending and not the console's, will latch MSG_ARRIVED when
it closes, or has. -/
def Arrives (s : State) (l : LineId) (i : Nat) : Prop :=
  Latched s .msgArrived ∨ (s.stm.lineLink.get l = some i ∧
    ∃ r, s.record i = some r ∧ r.state = .opened ∧ r.dests.isEmpty = false ∧ r.origin ≠ .console)

theorem splitRecord_arrived (record : s.record i = some r) (opened : r.state = .opened)
    (pending : r.dests.isEmpty = false) (line : r.origin ≠ .console) :
    Latched (splitRecord s (.line l) i) .msgArrived := by
  obtain ⟨v, closes, e⟩ := splitRecord_closes (l := l) record opened pending
  rw [e]
  exact closes.arrived line

theorem storeLineChar_arrives (a : Arrives s l i) : Arrives (storeLineChar s l x) l i := by
  have kept := (storeLineChar_step (framing := false) s l x).latched
  rcases a with told | ⟨link, r, record, opened, pending, line⟩
  · exact .inl (kept _ told)
  cases episode : s.stm.episode.get l with
  | true =>
    rw [storeLineChar_counts episode]
    exact .inr ⟨link, r, record, opened, pending, line⟩
  | false =>
    have w : Writing s l i r := ⟨episode, link, record⟩
    by_cases limit : s.stm.cfg.maxMsgLen ≤ r.length
    · rw [storeLineChar_atLimit w limit opened pending]
      exact .inl ((storeLineChar_step (framing := false) _ l x).latched _ (splitRecord_arrived record opened pending line))
    · by_cases refused : 0 < r.length ∧ r.length % 32 = 0 ∧ ¬ LineMayTake s l
      · obtain ⟨some', full, none⟩ := refused
        rw [storeLineChar_refused w (by omega) some' full none, beginEpisode_linked w]
        refine .inr ⟨link, { r with flags := { r.flags with truncated := true } }, ?_, opened, pending, line⟩
        exact (State.record_setRecord s i i _).trans (if_pos ⟨rfl, State.record_lt record⟩)
      · obtain ⟨u, appended, step⟩ := storeLineChar_appends (x := x) w (by omega)
          (fun some' full => not_not.mp fun none => refused ⟨some', full, none⟩)
        have record' := appended.record record
        rw [step]
        split
        · exact .inl (splitRecord_arrived record' opened pending line)
        · exact .inr ⟨(appended.writing w).link, _, record', opened, pending, line⟩

theorem storeLineChars_arrives (a : Arrives s l i) (xs : List RxChar) : Arrives (storeLineChars s l xs) l i := by
  induction xs generalizing s with
  | nil => exact a
  | cons x xs ih => exact ih (storeLineChar_arrives a)

theorem closeLineMessage_arrives (a : Arrives s l i) : Latched (closeLineMessage s l) .msgArrived := by
  rcases a with told | ⟨link, r, record, opened, pending, line⟩
  · exact (closeLineMessage_step (framing := false) s l).latched _ told
  · obtain ⟨v, closes, e⟩ := closeLineMessage_closes link record opened pending
    rw [e]
    exact closes.arrived line

/-- The line's message ended: what the framer held is released, the record closes, and the framer is IDLE (R86). -/
theorem framerEnd_ends (begun : (s.framerOf l).phase ≠ .idle) : framerEnd s l =
    (closeLineMessage (storeLineChars s l (s.framerOf l).held) l).setFramer l .idle := by
  unfold framerEnd
  cases phase : (s.framerOf l).phase with
  | idle => exact absurd phase begun
  | head => simp only [phase]
  | text => simp only [phase]

theorem closeLineMessage_over (s : State) (l : LineId) : (closeLineMessage s l).stm.episode.get l = false ∧
    (closeLineMessage s l).stm.lineOwed.get l = none :=
  ⟨Pair.get_set_same .., Pair.get_set_same ..⟩

/-- A close at the end of the message leaves record i closed, and the text as it is. -/
theorem closeLineMessage_record (link : s.stm.lineLink.get l = some i) (record : s.record i = some r)
    (opened : r.state = .opened) (pending : r.dests.isEmpty = false) :
    (closeLineMessage s l).record i = some (closedAs s.fqm.seq r) ∧ (closeLineMessage s l).stm.cells = s.stm.cells ∧
      (closeLineMessage s l).stm.discarded = s.stm.discarded := by
  obtain ⟨v, closes, e⟩ := closeLineMessage_closes link record opened pending
  have at' := closes.record (State.record_lt record)
  rw [e, messageOver]
  refine ⟨at', ?_, ?_⟩ <;> rw [closes.state] <;> rfl

theorem counted_one {d n : Nat} (some' : 0 < n) : min (min (d + 1) 65535 + (n - 1)) 65535 = min (d + n) 65535 := by
  omega

theorem beginEpisode_latched (s : State) (l : LineId) (counted : Bool) :
    Latched (beginEpisode s l counted) .storeFull := latch_latched ..

theorem beginEpisode_record (w : Writing s l i r) :
    (beginEpisode s l true).record i = some { r with flags := { r.flags with truncated := true } } := by
  rw [beginEpisode_linked w]
  exact (State.record_setRecord s i i _).trans (if_pos ⟨rfl, State.record_lt w.record⟩)

/-- Characters offered where no block can be taken for the first: an episode begins, and the others are counted in it. -/
theorem storeLineChars_refused (w : Writing s l i r) (below : r.length < s.stm.cfg.maxMsgLen) (text : 0 < r.length)
    (full : r.length % 32 = 0) (none : ¬ LineMayTake s l) (some' : xs ≠ []) :
    storeLineChars s l xs = dropped (beginEpisode s l true) l (xs.length - 1) := by
  obtain ⟨x, ys, rfl⟩ := List.exists_cons_of_ne_nil some'
  rw [storeLineChars_cons, storeLineChar_refused w below text full none, List.length_cons, Nat.add_sub_cancel]
  by_cases more : ys = []
  · rw [more, beginEpisode_linked w, dropped]
    dsimp only [storeLineChars, List.foldl_nil, List.length_nil]
    rw [Pair.get_set_same, show min (min (s.stm.discarded.get l + 1) 65535 + 0) 65535 =
      min (s.stm.discarded.get l + 1) 65535 by omega]
    cases l <;> rfl
  · refine storeLineChars_counts ?_ more
    rw [beginEpisode_linked w]
    exact Pair.get_set_same ..

theorem framerEnd_messageEnded (s : State) (l : LineId) : MessageEnded s (framerEnd s l) l := by
  intro i r begun link record opened pending _ _ held q
  have ends := framerEnd_ends begun
  refine ⟨fun line => ?_, fun episode => ?_, fun episode canonical conserved room => ⟨fun short => ?_, fun some' limit => ?_⟩,
    fun episode some' below text full none => ?_⟩
  · rw [ends]
    exact closeLineMessage_arrives (storeLineChars_arrives (.inr ⟨link, r, record, opened, pending, line⟩) _)
  · rw [ends]
    by_cases nothing : held = []
    · rw [show (s.framerOf l).held = [] from nothing]
      obtain ⟨closed, cells, -⟩ := closeLineMessage_record link record opened pending
      exact ⟨closed, cells, fun some' => absurd nothing some'⟩
    · rw [storeLineChars_counts episode nothing]
      obtain ⟨closed, cells, discarded⟩ :=
        closeLineMessage_record (s := dropped s l (s.framerOf l).held.length) link record opened pending
      refine ⟨closed, cells, fun _ => ?_⟩
      change (closeLineMessage _ l).stm.discarded.get l = _
      rw [discarded]
      exact Pair.get_set_same ..
  · obtain ⟨chain, free, draw⟩ := room
    have w : Writing s l i r := ⟨episode, link, record⟩
    have appended : Appended l i r held s (storeLineChars s l held) := by
      by_cases nothing : held = []
      · rw [nothing]
        exact .nil l record
      · exact storeLineChars_appends w (short.resolve_left nothing) (.inr chain) ⟨free, draw⟩
    obtain ⟨-, link', record'⟩ := appended.writing w
    obtain ⟨closed, cells, -⟩ := closeLineMessage_record link' record' opened pending
    have seq : (storeLineChars s l held).fqm.seq = s.fqm.seq := by rw [appended.state]; rfl
    rw [ends]
    refine ⟨?_, textAppended canonical conserved record chain free ?_⟩
    · rw [← seq]
      exact closed
    · refine cells.trans ?_
      rw [appended.state]
      rfl
  · obtain ⟨chain, free, draw⟩ := room
    have w : Writing s l i r := ⟨episode, link, record⟩
    obtain ⟨u, appended, split⟩ := storeLineChars_splits w some' limit (.inr chain) ⟨free, draw⟩
    obtain ⟨-, link', record'⟩ := appended.writing w
    obtain ⟨v, closes, e⟩ := splitRecord_closes (l := l) record' opened pending
    have closed := closes.record (State.record_lt record')
    have seq : u.fqm.seq = s.fqm.seq := by rw [appended.state]; rfl
    have cells : v.stm.cells = writeChars s.stm.cells q r.length held := by
      rw [closes.state, appended.state]
      rfl
    rw [ends, split, e, closeLineMessage_unlinked (s := owing v l _) (closes.link link')]
    refine ⟨textAppended canonical conserved record chain free cells, ?_⟩
    rw [← seq]
    exact closed
  · have w : Writing s l i r := ⟨episode, link, record⟩
    have stored := storeLineChars_refused w below text full none some'
    have record' := beginEpisode_record w
    obtain ⟨closed, cells, discarded⟩ :=
      closeLineMessage_record (s := dropped (beginEpisode s l true) l (held.length - 1)) (i := i)
        (by rw [beginEpisode_linked w]; exact link) record' opened pending
    have seq : (beginEpisode s l true).fqm.seq = s.fqm.seq := by rw [beginEpisode_linked w]
    rw [ends, stored]
    refine ⟨cells.trans ?_, ?_, ?_, ?_⟩
    · rw [beginEpisode_linked w]
      rfl
    · exact (closeLineMessage_step (framing := false) _ l).latched _ (beginEpisode_latched s l true)
    · refine (congrArg (Pair.get · l) discarded).trans ?_
      have some'' := List.length_pos_of_ne_nil some'
      rw [beginEpisode_linked w, dropped]
      dsimp only
      rw [Pair.get_set_same, Pair.get_set_same]
      exact counted_one some''
    · rw [← seq]
      exact closed

end Sys2Proof.Machine
end

section
/-! PROOF. The obligation on SEND_GRANT and the message gap (R86, R89 to R92). -/

namespace Sys2Proof.Machine

open Sys2Proof

variable {s : State} {l : LineId} {i : Nat} {r : Rec}

theorem messageGapExpiry_not (h : ¬ ((s.csv l).state = .running ∧ (s.framerOf l).gap = some 0)) :
    messageGapExpiry l s = s := by
  simp only [messageGapExpiry, isDue_iff]
  exact if_neg h

theorem messageGapExpiry_ends (running : (s.csv l).state = .running) (due : (s.framerOf l).gap = some 0) :
    messageGapExpiry l s = settleLine (framerEnd s l) l := by
  simp only [messageGapExpiry, isDue_iff]
  exact if_pos ⟨running, due⟩

/-- A message that ends with nothing held closes its record at once (R61, R86). -/
theorem framerEnd_closes (begun : (s.framerOf l).phase ≠ .idle) (held : (s.framerOf l).held = [])
    (link : s.stm.lineLink.get l = some i) (record : s.record i = some r) (opened : r.state = .opened)
    (pending : r.dests.isEmpty = false) :
    ∃ v, Closes i r s v ∧ framerEnd s l = (messageOver v l).setFramer l .idle := by
  obtain ⟨v, closes, e⟩ := closeLineMessage_closes link record opened pending
  refine ⟨v, closes, ?_⟩
  rw [framerEnd_ends begun, held]
  exact congrArg (State.setFramer · l .idle) e

end Sys2Proof.Machine

open Sys2Proof Sys2Proof.Machine

/-- Settles O50: the two queues' first records are the finds of the model's walks, and the gap ends the message. -/
theorem sendGrantChoosesLiveThenStored : Obligations.SendGrantChoosesLiveThenStored := by
  intro l s
  refine ⟨storedHeldBack_iff, ?_⟩
  intro sel d live stored fit closed others deferred
  have opens (h : ¬ closed) : choiceOpen s l = true := choiceOpen_iff.mpr h
  have allows (h : ¬ closed) : storedAllowed s l = true ↔
      (s.csv l).state = .running ∨ (s.csv l).direction = .outgoing ∨ (s.framingOf l).sendOnIncoming = true := by
    have ready := opens h
    simp only [choiceOpen, Bool.and_eq_true] at ready
    exact storedAllowed_iff ready.1.2
  refine ⟨fun h => congrArg Host.Outcome.next (sendGrant_closed fun o => choiceOpen_iff.mp o h), fun h => ⟨?_, ?_, ?_⟩,
    fun h => congrArg Host.Outcome.next (messageGapExpiry_not h), ?_⟩
  · intro i r first
    obtain ⟨u, t, run, settled, started⟩ := sendGrant_grants_live (opens h) first
    refine ⟨u, t, run, settled, ⟨started.others, started.records⟩, started.selector, started.record, ?_⟩
    rw [started.csv]
    cases (s.csv l).remaining <;> cases r.charged.get l <;> rfl
  · intro none free may
    refine ⟨fun nothing => ?_, fun some' misfit => ?_, fun i r first => ?_⟩
    · have row := sendGrant_grants_none (opens h) none ((allows h).mpr may) free
        fun j q record has => absurd has (nothing j q record)
      rw [defer_none (passesOver_nothing nothing)] at row
      exact congrArg Host.Outcome.next row
    · obtain ⟨i, r, record, has⟩ := some'
      have row := sendGrant_grants_none (opens h) none ((allows h).mpr may) free misfit
      rw [defer_over (passesOver_unfit record has misfit)] at row
      exact congrArg Host.Outcome.next row
    · obtain ⟨u, t, run, settled, started, noDefer, defers⟩ :=
        sendGrant_grants_stored (opens h) none ((allows h).mpr may) free first
      refine ⟨u, t, run, settled, ⟨started.others, started.records⟩, started.selector, noDefer, defers, started.record, ?_⟩
      rw [started.csv]
      cases (s.csv l).remaining <;> rfl
  · intro none barred
    refine congrArg Host.Outcome.next (sendGrant_barred (opens h) (firstLive_none.mpr none) fun ⟨may, free⟩ => ?_)
    rcases barred with held | no
    · rw [held] at free
      cases free
    · exact no ((allows h).mp may)
  · intro running due begun
    have step := framerEnd_step s l
    have ends := framerEnd_ends begun
    obtain ⟨episode, owed⟩ := closeLineMessage_over (storeLineChars s l (s.framerOf l).held) l
    refine ⟨framerEnd s l, _, congrArg Host.Outcome.next (messageGapExpiry_ends running due), settleLine_settled .., ?_, ?_,
      ?_, step.lu, step.sup, step.ctr, step.tbu, framerEnd_messageEnded s l, ?_⟩
    · rw [ends]
      exact State.setFramer_framerOf_same ..
    · rw [ends]
      exact episode
    · rw [ends]
      exact owed
    · intro i r held link record opened pending
      obtain ⟨v, closes, e⟩ := framerEnd_closes begun held link record opened pending
      rw [e]
      refine ⟨?_, closes.link link, fun j other => closes.others other, closes.arrived,
        closes.record (State.record_lt record), ?_⟩
      · exact (congrArg (·.stm.cells) closes.state).trans rfl
      · exact (congrArg (·.fqm.seq) closes.state).trans rfl

end

section
/-! SUPPORT. The store at RESTART (R73). -/

namespace Sys2Proof.Machine

open Sys2Proof

variable {s t : State} {i : Nat} {r : Rec}

/-! ## One index after another -/

/-- Folding steps that each change their own record only: record i is what its own step makes of it. -/
theorem foldl_record {f : State → Nat → State} (own : ∀ t j, j ≠ i → (f t j).record i = t.record i) {xs : List Nat}
    (nodup : xs.Nodup) (mem : i ∈ xs) (s : State) :
    ∃ t, t.record i = s.record i ∧ (xs.foldl f s).record i = (f t i).record i := by
  have others (ys : List Nat) (out : i ∉ ys) (u : State) : (ys.foldl f u).record i = u.record i := by
    induction ys generalizing u with
    | nil => rfl
    | cons y ys ih =>
      obtain ⟨first, rest⟩ := not_or.mp (mt List.mem_cons.mpr out)
      rw [List.foldl_cons, ih rest, own u y (Ne.symm first)]
  induction xs generalizing s with
  | nil => cases mem
  | cons x xs ih =>
    obtain ⟨out, nodup⟩ := List.nodup_cons.mp nodup
    rw [List.foldl_cons]
    by_cases here : x = i
    · subst here
      exact ⟨s, rfl, others xs out _⟩
    · obtain ⟨t, before, after⟩ := ih nodup ((List.mem_cons.mp mem).resolve_left (Ne.symm here)) (f s x)
      exact ⟨t, before.trans (own s x here), after⟩

theorem foldl_storeOnly {f : State → Nat → State} (only : ∀ t j, StoreOnly (fun _ => True) t (f t j)) (xs : List Nat)
    (s : State) : StoreOnly (fun _ => True) s (xs.foldl f s) := by
  induction xs generalizing s with
  | nil => exact .refl ..
  | cons x xs ih => exact (only s x).trans (ih _)

/-! ## The SEND queues joined (R78) -/

theorem joinSends_storeOnly (s : State) (i : Nat) : StoreOnly (· = i) s (joinSends s i) := by
  have join (c : Bool) (t : State) (d : Deliv) : StoreOnly (· = i) t (if c then enqueue t d i else t) := by
    split
    · exact enqueue_storeOnly ..
    · exact .refl ..
  unfold joinSends
  split
  · exact .refl ..
  · split
    · exact .trans (join _ _ _) (join _ _ _)
    all_goals exact .refl ..

theorem joinSends_free (free : s.record i = none) : joinSends s i = s := by
  rw [joinSends, free]

theorem joinSends_held (record : s.record i = some r) (other : r.state ≠ .closed) : joinSends s i = s := by
  rw [joinSends, record]
  cases state : r.state with
  | closed => exact absurd state other
  | opened => simp only [state]
  | cancelled => simp only [state]

theorem joinSends_closed (record : s.record i = some r) (closed : r.state = .closed) :
    joinSends s i = stamped s i r (joins (closeQueues r.dests) r.stamp s.fqm.seq) := by
  rw [← enqueue_all _ record, joinSends, record]
  simp only [closed]
  obtain ⟨⟨_, _, a, b⟩, _⟩ := r.dests
  cases a <;> cases b <;> rfl

/-- The stamps after joins: what was in a queue stays, and each queue joined has a stamp. -/
theorem joins_stamps (ds : List Deliv) (x : Four (Option Nat)) (n : Nat) (d : Deliv) :
    (d ∉ ds → (joins ds x n).1.get d = x.get d) ∧ (d ∈ ds → ((joins ds x n).1.get d).isSome = true) ∧
      ∀ k, x.get d = some k → (joins ds x n).1.get d = some k := by
  have set_same (y : Four (Option Nat)) (v : Option Nat) : (y.set d v).get d = v := by cases d <;> rfl
  have set_other (y : Four (Option Nat)) (e : Deliv) (v : Option Nat) (h : d ≠ e) : (y.set e v).get d = y.get d := by
    cases d <;> cases e <;> simp_all [Four.get, Four.set]
  induction ds generalizing x n with
  | nil => exact ⟨fun _ => rfl, fun h => absurd h List.not_mem_nil, fun _ h => h⟩
  | cons e ds ih =>
    rw [joins]
    split
    · next there =>
      obtain ⟨out, inside, kept⟩ := ih x n
      refine ⟨fun h => out (List.not_mem_of_not_mem_cons h), fun h => ?_, kept⟩
      rcases List.mem_cons.mp h with rfl | h
      · obtain ⟨k, at'⟩ := Option.isSome_iff_exists.mp there
        rw [kept k at']
        rfl
      · exact inside h
    · next absent =>
      obtain ⟨out, inside, kept⟩ := ih (x.set e (some n)) (min (n + 1) 4294967295)
      refine ⟨fun h => ?_, fun h => ?_, fun k at' => ?_⟩
      · obtain ⟨first, rest⟩ := not_or.mp (mt List.mem_cons.mpr h)
        rw [out rest, set_other _ _ _ first]
      · rcases List.mem_cons.mp h with rfl | h
        · rw [kept n (set_same ..)]
          rfl
        · exact inside h
      · refine kept k ?_
        by_cases same : d = e
        · subst same
          exact absurd (by rw [at']; rfl) absent
        · rw [set_other _ _ _ same, at']

/-- What RESTART makes of a record that is not released: restarted, its SEND queues joined (R73, R78). -/
structure RecordRestarted (r q : Rec) : Prop where
  rest : q = { restartRecord r with stamp := ⟨r.stamp.print, r.stamp.punch, q.stamp.sendA, q.stamp.sendB⟩ }
  joinsA : r.dests.out.sendA = true → q.stamp.sendA.isSome = true
  joinsB : r.dests.out.sendB = true → q.stamp.sendB.isSome = true
  keptA : ∀ n, r.stamp.sendA = some n → q.stamp.sendA = some n
  keptB : ∀ n, r.stamp.sendB = some n → q.stamp.sendB = some n

theorem closeQueues_mem (d : DestSet) : (Deliv.sendA ∈ closeQueues d ↔ d.out.sendA = true) ∧
    (Deliv.sendB ∈ closeQueues d ↔ d.out.sendB = true) ∧ Deliv.print ∉ closeQueues d ∧ Deliv.punch ∉ closeQueues d := by
  simp [closeQueues, Four.get]

theorem recordRestarted (r : Rec) (n : Nat) :
    RecordRestarted r { restartRecord r with stamp := (joins (closeQueues r.dests) r.stamp n).1 } := by
  obtain ⟨a, b, print, punch⟩ := closeQueues_mem r.dests
  have stamps := joins_stamps (closeQueues r.dests) r.stamp n
  obtain ⟨-, inA, keptA⟩ := stamps .sendA
  obtain ⟨-, inB, keptB⟩ := stamps .sendB
  have p := (stamps .print).1 print
  have u := (stamps .punch).1 punch
  refine ⟨?_, fun h => inA (a.mpr h), fun h => inB (b.mpr h), keptA, keptB⟩
  have eta (x : Four (Option Nat)) (hp : x.print = r.stamp.print) (hu : x.punch = r.stamp.punch) :
      x = ⟨r.stamp.print, r.stamp.punch, x.sendA, x.sendB⟩ := by rw [← hp, ← hu]
  dsimp only
  rw [← eta _ p u]

theorem restartRecord_state (r : Rec) : (restartRecord r).state = .cancelled ∧ r.state = .cancelled ∨
    (restartRecord r).state = .closed ∧ r.state ≠ .cancelled := by
  unfold restartRecord
  cases r.state <;> simp

/-- A record is released at RESTART when it is CANCELLED or has nothing pending, and restarted else (R64, R73). -/
theorem restartStore_record (s : State) (within : i < 48) : (s.record i = none → (restartStore s).record i = none) ∧
    ∀ r, s.record i = some r →
      if r.state = .cancelled ∨ r.dests.isEmpty = true then (restartStore s).record i = none
      else ∃ q, (restartStore s).record i = some q ∧ RecordRestarted r q := by
  have nodup : indices.Nodup := List.nodup_range
  have mem : i ∈ indices := List.mem_range.mpr within
  obtain ⟨t, before, joined⟩ := foldl_record (f := joinSends)
    (fun t j other => (joinSends_storeOnly t j).records i other.symm) nodup mem (s.onRecords fun _ r => restartRecord r)
  obtain ⟨u, between, released⟩ := foldl_record (f := releaseIfDone)
    (fun t j other => (releaseIfDone_storeOnly t j).records i other.symm) nodup mem
    (indices.foldl joinSends (s.onRecords fun _ r => restartRecord r))
  have whole : (restartStore s).record i = (releaseIfDone u i).record i := by
    rw [← released]
    unfold restartStore
    dsimp only
    generalize indices.foldl releaseIfDone _ = w
    rw [evalLow_eq]
    rfl
  rw [State.record_onRecords] at before
  rw [joined] at between
  rw [whole]
  refine ⟨fun free => ?_, fun r record => ?_⟩
  · rw [free, Option.map_none] at before
    rw [joinSends_free before, before] at between
    rw [releaseIfDone, between]
    exact between
  · rw [record, Option.map_some] at before
    have grants : (restartRecord r).grants.any = false := rfl
    have dests : (restartRecord r).dests = r.dests := rfl
    rcases restartRecord_state r with ⟨cancelled, was⟩ | ⟨closed, was⟩
    · rw [if_pos (.inl was)]
      rw [joinSends_held before (by rw [cancelled]; exact RecState.noConfusion), before] at between
      exact (releaseIfDone_record u i between).2.2 (.inl cancelled) grants
    · rw [joinSends_closed before closed, stamped_record (State.record_lt before)] at between
      obtain ⟨kept, -, freed⟩ := releaseIfDone_record u i between
      have spent : ({ restartRecord r with stamp := (joins (closeQueues r.dests) r.stamp t.fqm.seq).1 } : Rec).state =
          .cancelled ∨ (({ restartRecord r with
            stamp := (joins (closeQueues r.dests) r.stamp t.fqm.seq).1 } : Rec).state = .closed ∧
          r.dests.isEmpty = true) ↔ r.state = .cancelled ∨ r.dests.isEmpty = true := by
        rw [closed]
        simp [was]
      by_cases done : r.state = .cancelled ∨ r.dests.isEmpty = true
      · rw [if_pos done]
        exact freed (spent.mpr done) grants
      · rw [if_neg done]
        exact ⟨_, kept (mt spent.mp done), recordRestarted r _⟩

end Sys2Proof.Machine
end

section
/-! SUPPORT. The blocks at RESTART, before the motors follow (R50, R73, R94, R118, R131, R144, R162, R175, R181). -/

namespace Sys2Proof.Machine

open Sys2Proof

variable {s t : State} {l : LineId} {i : Nat} {r : Rec}

theorem StoreOnly.state {P : Nat → Prop} (a : StoreOnly P s t) : t = { s with
    stm := { s.stm with recs := t.stm.recs, free := t.stm.free, low := t.stm.low }
    fqm := { s.fqm with seq := t.fqm.seq }
    kbs := { s.kbs with storeFull := t.kbs.storeFull }
    cpe := { s.cpe with latches := t.cpe.latches } } := by
  rw [← a.stm, ← a.fqm, ← a.kbs, ← a.cpe, ← a.tbu, ← a.ctr, ← a.lu, ← a.identity, ← a.xcfg, ← a.sup, ← a.prc, ← a.puc,
    ← a.mtc, ← a.pending]

/-- The store with no reservation, episode, link or continuation owed (R73). -/
def storeCleared (s : State) : State :=
  { s with stm := { s.stm with
      reservation := ⟨0, 0⟩, episode := ⟨false, false⟩, lineLink := ⟨none, none⟩, kbLink := none
      lineOwed := ⟨none, none⟩, kbOwed := none } }

/-- The store's part of RESTART, beside the records and the free list (R73). -/
theorem restartStore_rest (s : State) : restartStore s = { s with
    stm := { s.stm with
      recs := (restartStore s).stm.recs, free := (restartStore s).stm.free, reservation := ⟨0, 0⟩
      low := decide ((restartStore s).stm.free.length < s.stm.cfg.storeLow), episode := ⟨false, false⟩
      lineLink := ⟨none, none⟩, kbLink := none, lineOwed := ⟨none, none⟩, kbOwed := none }
    fqm := { s.fqm with seq := (restartStore s).fqm.seq }
    kbs := { s.kbs with storeFull := (restartStore s).kbs.storeFull }
    cpe := { s.cpe with latches := (restartStore s).cpe.latches } } := by
  have joined : StoreOnly (fun _ => True) (s.onRecords fun _ r => restartRecord r)
      (indices.foldl joinSends (s.onRecords fun _ r => restartRecord r)) :=
    foldl_storeOnly (fun t j => (joinSends_storeOnly t j).mono fun _ _ => trivial) indices _
  have released := joined.trans
    (foldl_storeOnly (fun t j => (releaseIfDone_storeOnly t j).mono fun _ _ => trivial) indices _)
  have state := released.state
  have whole : restartStore s = evalLow (storeCleared
      (indices.foldl releaseIfDone (indices.foldl joinSends (s.onRecords fun _ r => restartRecord r)))) := rfl
  rw [whole]
  generalize indices.foldl releaseIfDone _ = w at state ⊢
  rw [state, evalLow_eq]
  rfl

/-! ## The line units (R50) -/

/-- A line unit at RESTART, before its receiver's new mode (R50). -/
structure UnitRestarted (p q : LineUnit) : Prop where
  rest : q = { p with
    tx := q.tx, rx := { p.rx with mode := .off, sub := .hunting false false, watchSeen := false, age := 65535 } }
  idle : q.tx.state = .idle

theorem restartUnit_unit (s : State) (l : LineId) : UnitRestarted (s.unit l) ((restartUnit s l).unit l) := by
  have abandoned : (s.abandonTx l).unit l = { s.unit l with tx := ((s.abandonTx l).unit l).tx } := by
    unfold State.abandonTx
    split
    · rfl
    · cases l <;> rfl
  have idle := abandonTx_idle s l
  constructor
  · rw [restartUnit, State.onRx_unit_same, abandoned]
    rfl
  · rw [restartUnit, State.onRx_unit_same]
    exact idle

theorem restartUnit_rest (s : State) (l : LineId) : restartUnit s l = { s with
    lu := s.lu.set l ((restartUnit s l).unit l)
    ctr := { s.ctr with tx := s.ctr.tx.set l ((restartUnit s l).ctr.tx.get l) } } := by
  unfold restartUnit State.abandonTx
  split
  · cases l <;> rfl
  · cases l <;> rfl

/-! ## The supervisors (R118, R131) -/

/-- A supervisor with its engine, before it enters its new state, said of the supervisor alone (R118, R131). -/
def Supervisor.restartBegun (c : Supervisor) : Supervisor :=
  { c with
    timers := .stopped, abActive := false, ending := false, phase := .none, captured := []
    exch := { (if c.exch.sub.isOpen then { c.exch with sub := .abandoned, held := [], blankRun := 0 } else c.exch) with
      half := false, offerTimer := none, pageTimer := none, together := false } }

theorem restartBase_eq (s : State) (l : LineId) : restartBase s l = s.setCsv l (s.csv l).restartBegun := by
  have same : (s.csv l).restartBegun = ((restartBase s l).csv l) := by
    unfold restartBase abandonExchange
    rw [State.onCsv_csv_same, State.onExch, State.onCsv_csv_same]
    unfold Supervisor.restartBegun
    dsimp only
    split <;> rfl
  rw [same]
  cases l <;> rfl

/-- What RESTART makes of a line's unit p, its receiver off before its new mode, and of its supervisor c (R50, R118). -/
structure LineRestarted (p q : LineUnit) (c d : Supervisor) : Prop where
  unit : q = { p with tx := q.tx, rx := q.rx }
  idle : q.tx.state = .idle
  age : q.rx.age = p.rx.age
  pin : q.rx.pin = p.rx.pin
  stays : c.state = .disabled → q = p ∧ d = c.restartBegun
  runs : c.state = .running ∨ c.state = .fault → q.tx.ordered = .mark ∧ q.tx.pin = .mark ∧ q.rx = p.rx.frame ∧
    d = { c.restartBegun with
      state := .running, callCount := nextCall c.callCount, direction := .none, remaining := .unlimited
      timers := { SupTimers.stopped with fault := if p.rx.frame.inSpace then some 1000 else none } }
  guards : c.state ≠ .disabled → c.state ≠ .running → c.state ≠ .fault → q.tx.ordered = .space ∧ q.tx.pin = .space ∧
    q.rx = { p.rx with
      mode := .condition, sub := .hunting false false, last := p.rx.pin, known := p.rx.pin, watchSeen := false } ∧
    d = { c.restartBegun with
      state := .guard, lastClear := .restart
      timers := { SupTimers.stopped with guard := some c.values.guardMs } }

/-- A line ready for its supervisor's RESTART: its unit off and idle, its selector, shifts and reservation clear, and the
low condition evaluated. -/
structure RestartReady (s : State) (l : LineId) : Prop where
  runs : s.running = true
  idle : (s.unit l).tx.state = .idle
  off : (s.unit l).rx.mode = .off
  deferral : (s.selector l).deferral = false
  tx : s.ctr.tx.get l = .unknown
  rx : s.ctr.rx.get l = .unknown
  reservation : s.stm.reservation.get l = 0
  low : s.stm.low = decide (unreserved s.stm < s.stm.cfg.storeLow)

/-- What a supervisor's RESTART touches: its line's unit and supervisor, live charges, and latches. -/
structure SupervisorRestarted (l : LineId) (s t : State) : Prop where
  rest : t = { s with
    lu := s.lu.set l (t.unit l), sup := s.sup.set l (t.csv l), stm := { s.stm with recs := t.stm.recs }
    cpe := { s.cpe with latches := t.cpe.latches } }
  line : LineRestarted (s.unit l) (t.unit l) (s.csv l) (t.csv l)
  records : ∀ i, ∃ f : Rec → Pair Bool, t.record i = (s.record i).map fun r => { r with charged := f r }

theorem evalLow_again (low : s.stm.low = decide (unreserved s.stm < s.stm.cfg.storeLow)) : evalLow s = s := by
  have quiet : ¬ (decide (unreserved s.stm < s.stm.cfg.storeLow) && !s.stm.low) = true := by
    rw [← low]
    cases s.stm.low <;> decide
  unfold evalLow
  dsimp only
  rw [if_neg quiet, ← low]

theorem setReservation_none (ready : RestartReady s l) : setReservation s l 0 = s := by
  have whole : s.stm.reservation.set l 0 = s.stm.reservation := by
    rw [← ready.reservation]
    exact Pair.set_get ..
  unfold setReservation
  dsimp only
  rw [if_neg (by rw [ready.reservation]; exact Nat.lt_irrefl 0), whole]
  exact evalLow_again ready.low

theorem order_idle (idle : (s.unit l).tx.state = .idle) (v : Level) : s.order l v =
    s.setUnit l { s.unit l with tx := { (s.unit l).tx with ordered := v, pin := v } } := by
  unfold State.order State.onTx State.onUnit
  dsimp only
  rw [idle]

theorem forgetShifts_same (ready : RestartReady s l) : s.forgetShifts l = s := by
  have tx : s.ctr.tx.set l .unknown = s.ctr.tx := ready.tx ▸ Pair.set_get ..
  have rx : s.ctr.rx.set l .unknown = s.ctr.rx := ready.rx ▸ Pair.set_get ..
  rw [State.forgetShifts, tx, rx]

theorem undefer_same (ready : RestartReady s l) : (s.onSelector l fun x => { x with deferral := false }) = s := by
  have same : { s.selector l with deferral := false } = s.selector l := by rw [← ready.deferral]
  have whole : s.fqm.sel.set l (s.selector l) = s.fqm.sel := Pair.set_get ..
  rw [State.onSelector, same, State.setSelector, whole]

theorem RestartReady.setCsv (ready : RestartReady s l) (c : Supervisor) : RestartReady (s.setCsv l c) l :=
  ⟨ready.runs, ready.idle, ready.off, ready.deferral, ready.tx, ready.rx, ready.reservation, ready.low⟩

/-- The supervisor of a line as it enters RUNNING, before its receiver frames (R117). -/
def Supervisor.inRunning (c : Supervisor) : Supervisor :=
  { c with
    state := .running, phase := .none, captured := [], timers := c.timers.onlyPrestarts
    callCount := nextCall c.callCount, direction := .none, remaining := .unlimited, ending := false, abActive := false }

theorem runningBegun_eq (ready : RestartReady s l) : runningBegun s l =
    (dropCharges (s.setCsv l (s.csv l).inRunning) l).setUnit l
      { s.unit l with tx := { (s.unit l).tx with ordered := .mark, pin := .mark } } := by
  have entered : ((s.enterSup l .running).onCsv l fun c =>
      { c with callCount := nextCall c.callCount, direction := .none, remaining := .unlimited, ending := false
               abActive := false }) = s.setCsv l (s.csv l).inRunning := by cases l <;> rfl
  have after := ready.setCsv (s.csv l).inRunning
  unfold runningBegun
  dsimp only
  rw [entered, setReservation_none after, forgetShifts_same after, undefer_same after]
  exact order_idle (s := dropCharges (s.setCsv l (s.csv l).inRunning) l) ready.idle .mark

theorem dropCharges_charged (s : State) (l : LineId) (i : Nat) :
    ∃ f : Rec → Pair Bool, (dropCharges s l).record i = (s.record i).map fun r => { r with charged := f r } :=
  ⟨_, dropCharges_record s l i⟩

theorem enterRunning_restarted (ready : RestartReady s l) :
    let t := enterRunning s l
    t = { s with
      lu := s.lu.set l (t.unit l), sup := s.sup.set l (t.csv l), stm := { s.stm with recs := t.stm.recs }
      cpe := { s.cpe with latches := t.cpe.latches } } ∧
    t.unit l = { s.unit l with
      tx := { (s.unit l).tx with ordered := .mark, pin := .mark }, rx := (s.unit l).rx.frame } ∧
    t.csv l = { (s.csv l).inRunning with
      timers := { (s.csv l).timers.onlyPrestarts with
        fault := if (s.unit l).rx.frame.inSpace then some 1000 else none } } ∧
    ∀ i, ∃ f : Rec → Pair Bool, t.record i = (s.record i).map fun r => { r with charged := f r } := by
  intro t
  have unit : (((runningBegun s l).onRx l Receiver.frame).unit l) = { s.unit l with
      tx := { (s.unit l).tx with ordered := .mark, pin := .mark }, rx := (s.unit l).rx.frame } := by
    rw [State.onRx_unit_same, runningBegun_eq ready, State.setUnit_unit_same]
  have csv : ((runningBegun s l).onRx l Receiver.frame).csv l = (s.csv l).inRunning := by
    rw [runningBegun_eq ready]
    exact State.setCsv_csv_same ..
  have whole : t = _ := enterRunning_running ready.runs l
  rw [unit] at whole
  dsimp only at whole
  have records (i : Nat) : ∃ f : Rec → Pair Bool,
      (runningBegun s l).record i = (s.record i).map fun r => { r with charged := f r } := by
    rw [runningBegun_eq ready]
    exact dropCharges_charged (s.setCsv l _) l i
  by_cases space : (s.unit l).rx.frame.inSpace = true
  · rw [if_pos space] at whole ⊢
    have own : t.unit l = _ := (congrArg (·.unit l) whole).trans unit
    have sup : t.csv l = _ := (congrArg (·.csv l) whole).trans (State.onTimers_csv_same ..)
    rw [csv] at sup
    refine ⟨?_, own, sup, fun i => ?_⟩
    · rw [own, sup, whole, runningBegun_eq ready]
      cases l <;> rfl
    · rw [whole]
      exact records i
  · rw [if_neg space] at whole ⊢
    have own : t.unit l = _ := (congrArg (·.unit l) whole).trans unit
    have sup : t.csv l = _ := (congrArg (·.csv l) whole).trans csv
    refine ⟨?_, own, sup, fun i => ?_⟩
    · rw [own, sup, whole, runningBegun_eq ready]
      cases l <;> rfl
    · rw [whole]
      exact records i

/-- A receiver that is off enters CONDITION (R39). -/
theorem enterGuard_restarted (idle : (s.unit l).tx.state = .idle) (off : (s.unit l).rx.mode = .off) :
    let t := enterGuard s l
    t = { s with
      lu := s.lu.set l (t.unit l), sup := s.sup.set l (t.csv l), cpe := { s.cpe with latches := t.cpe.latches } } ∧
    t.unit l = { s.unit l with
      tx := { (s.unit l).tx with ordered := .space, pin := .space }
      rx := { (s.unit l).rx with
        mode := .condition, sub := .hunting false false, last := (s.unit l).rx.pin, known := (s.unit l).rx.pin
        watchSeen := false } } := by
  intro t
  have conditioned (v : State) (unit : v.unit l = s.unit l) : (enterCondition v l).unit l = { s.unit l with
      rx := { (s.unit l).rx with
        mode := .condition, sub := .hunting false false, last := (s.unit l).rx.pin, known := (s.unit l).rx.pin
        watchSeen := false } } := by
    rw [enterCondition, State.onRx_unit_same, unit, if_neg (by rw [off]; exact RxMode.noConfusion)]
  have unit : t.unit l = { s.unit l with
      tx := { (s.unit l).tx with ordered := .space, pin := .space }
      rx := { (s.unit l).rx with
        mode := .condition, sub := .hunting false false, last := (s.unit l).rx.pin, known := (s.unit l).rx.pin
        watchSeen := false } } := by
    have before := conditioned ((s.enterSup l .guard).onTimers l fun t =>
      { t with guard := some ((s.enterSup l .guard).csv l).values.guardMs }) rfl
    change ((enterCondition _ l).order l .space).unit l = _
    rw [order_idle (by rw [before]; exact idle), State.setUnit_unit_same, before]
  refine ⟨?_, unit⟩
  cases l <;> rfl

theorem frame_off (p : LineUnit) : p.rx.frame.age = p.rx.age ∧ p.rx.frame.pin = p.rx.pin := by
  unfold Receiver.frame
  split <;> exact ⟨rfl, rfl⟩

theorem restartSupervisor_restarted (ready : RestartReady s l) : SupervisorRestarted l s (restartSupervisor s l) := by
  rw [restartSupervisor_eq, restartBase_eq]
  have begun := ready.setCsv (s.csv l).restartBegun
  have csv : (s.setCsv l (s.csv l).restartBegun).csv l = (s.csv l).restartBegun := State.setCsv_csv_same ..
  have running (state : (s.csv l).state = .running ∨ (s.csv l).state = .fault)
      (enters : restartState (s.setCsv l (s.csv l).restartBegun) l = enterRunning (s.setCsv l (s.csv l).restartBegun) l) :
      SupervisorRestarted l s (restartState (s.setCsv l (s.csv l).restartBegun) l) := by
    obtain ⟨rest, unit, sup, records⟩ := enterRunning_restarted begun
    rw [enters]
    rw [csv] at sup
    refine ⟨?_, ⟨?_, ?_, ?_, ?_, fun no => ?_, fun _ => ?_, fun _ a b => ?_⟩, records⟩
    · refine rest.trans ?_
      cases l <;> rfl
    · rw [unit]; rfl
    · rw [unit]; exact ready.idle
    · rw [unit]; exact (frame_off _).1
    · rw [unit]; exact (frame_off _).2
    · rw [no] at state
      simp at state
    · rw [unit, sup]
      exact ⟨rfl, rfl, rfl, rfl⟩
    · exact absurd state (not_or.mpr ⟨a, b⟩)
  have guarding (disabled : (s.csv l).state ≠ .disabled) (run : (s.csv l).state ≠ .running) (fault : (s.csv l).state ≠ .fault)
      (enters : restartState (s.setCsv l (s.csv l).restartBegun) l =
        enterGuard ((s.setCsv l (s.csv l).restartBegun).onCsv l fun c => { c with lastClear := .restart }) l) :
      SupervisorRestarted l s (restartState (s.setCsv l (s.csv l).restartBegun) l) := by
    obtain ⟨rest, unit⟩ := enterGuard_restarted
      (s := (s.setCsv l (s.csv l).restartBegun).onCsv l fun c => { c with lastClear := .restart }) ready.idle ready.off
    obtain ⟨-, -, -, sup, -, -, -⟩ := enterGuard_line
      ((s.setCsv l (s.csv l).restartBegun).onCsv l fun c => { c with lastClear := .restart }) l
    rw [State.onCsv_csv_same, csv] at sup
    rw [enters]
    refine ⟨?_, ⟨?_, ?_, ?_, ?_, fun no => absurd no disabled, fun or => ?_, fun _ _ _ => ?_⟩, fun i => ?_⟩
    · refine rest.trans ?_
      cases l <;> rfl
    · rw [unit]; rfl
    · rw [unit]; exact ready.idle
    · rw [unit]; rfl
    · rw [unit]; rfl
    · exact absurd or (not_or.mpr ⟨run, fault⟩)
    · rw [unit, sup]
      exact ⟨rfl, rfl, rfl, rfl⟩
    · exact ⟨Rec.charged, by simp; rfl⟩
  have state' : ((s.setCsv l (s.csv l).restartBegun).csv l).state = (s.csv l).state := congrArg (·.state) csv
  cases state : (s.csv l).state with
  | running => exact running (.inl state) (by rw [restartState, state', state])
  | fault => exact running (.inr state) (by rw [restartState, state', state])
  | disabled =>
    have stays : restartState (s.setCsv l (s.csv l).restartBegun) l = s.setCsv l (s.csv l).restartBegun := by
      rw [restartState, state', state]
    rw [stays]
    refine ⟨?_, ⟨rfl, ready.idle, rfl, rfl, fun _ => ⟨rfl, csv⟩, fun or => ?_, fun no => absurd state no⟩, fun i => ?_⟩
    · cases l <;> rfl
    · rw [state] at or
      simp at or
    · exact ⟨Rec.charged, by simp; rfl⟩
  | _ => exact guarding (by simp [state]) (by simp [state]) (by simp [state]) (by rw [restartState, state', state])

/-! ## The mechanisms with no grant (R162, R175, R181) -/

theorem printStep_idle (idle : s.prc.grant = none) : printStep s = none := by
  unfold printStep
  rw [idle]

theorem punchStep_idle (idle : s.puc.grant = none) : punchStep s = none := by
  unfold punchStep
  rw [idle]

theorem punchSweep_idle (idle : s.puc.grant = none) (n : Nat) : punchSweep n s = s := by
  cases n with
  | zero => rfl
  | succ n => rw [punchSweep, punchStep_idle idle]

/-- With no grant, no yield and a carriage return owed, all that follows a step is that the motors follow. -/
theorem settle_idle (print : s.prc.grant = none) (punch : s.puc.grant = none) (yield : s.prc.yieldTimer = none)
    (starved : s.prc.starved = false) (owed : s.prc.owedCr = true) : settle s = followMotors s := by
  have still : yieldRuns s = false := by rw [yieldRuns, print]
  have cleared : { s.prc with yieldTimer := none, starved := false } = s.prc := by rw [← yield, ← starved]
  have stopped : stopYield s = s := by
    rw [stopYield, still, cleared]
    rfl
  have followed : followYield s = s := by
    rw [followYield, still, stopped]
    rfl
  have next : nextPrintOp s = some .cr := by rw [nextPrintOp, owed]; rfl
  have heat : followHeat s = s := by
    rw [followHeat, next]
    cases s.prc.op <;> rfl
  rw [settle, stopped, printSweep_waits _ (printStep_idle print), punchSweep_idle punch, followed, printSweep_waits _ (printStep_idle print), heat]

theorem follow_stopped {m : Motor} (stopped : m.state = .stopped) (none : m.request = false) (running : Bool) :
    m.follow running = m := by
  rw [Motor.follow, stopped, none, Bool.and_false]
  rfl

/-! ## Every block's rule (R192) -/

/-- The rules at RESTART of the blocks beside the store and the supervisors. -/
def restartOthers (s : State) : State :=
  let s := restartFraming s
  let s := restartUnit (restartUnit s .A) .B
  let s := ((s.forgetShifts .A).forgetShifts .B).setTape .unknown
  { s with kbs := s.kbs.restart, prc := s.prc.restart, puc := s.puc.restart
           mtc := ⟨s.mtc.print.restart, s.mtc.punch.restart⟩ }

theorem restartPart_eq (s : State) : restartPart s =
    (settle (restartSupervisor (restartSupervisor (restartOthers (restartStore s)) .A) .B)).onCpe
      fun c => { c with latches := 0 } := rfl

theorem restartOthers_rest (s : State) : restartOthers s = { s with
    lu := (restartOthers s).lu
    ctr := { s.ctr with tx := ⟨.unknown, .unknown⟩, rx := ⟨.unknown, .unknown⟩, tape := .unknown }
    fqm := { s.fqm with framer := ⟨.idle, .idle⟩, sel := ⟨.idle, .idle⟩ }
    kbs := s.kbs.restart, prc := s.prc.restart, puc := s.puc.restart
    mtc := ⟨s.mtc.print.restart, s.mtc.punch.restart⟩ } := by
  have a := restartUnit_rest (restartFraming s) .A
  have b := restartUnit_rest (restartUnit (restartFraming s) .A) .B
  unfold restartOthers
  dsimp only
  rw [b, a]
  rfl

theorem restartOthers_unit (s : State) (l : LineId) : UnitRestarted (s.unit l) ((restartOthers s).unit l) := by
  have other (k j : LineId) (differ : j ≠ k) (t : State) : (restartUnit t k).unit j = t.unit j := by
    rw [restartUnit_rest]
    exact Pair.get_set_ne _ _ differ
  cases l with
  | A =>
    change UnitRestarted _ ((restartUnit (restartUnit (restartFraming s) .A) .B).unit .A)
    rw [other .B .A (by decide)]
    exact restartUnit_unit (restartFraming s) .A
  | B =>
    change UnitRestarted _ ((restartUnit (restartUnit (restartFraming s) .A) .B).unit .B)
    have before := restartUnit_unit (restartUnit (restartFraming s) .A) .B
    rw [other .A .B (by decide)] at before
    exact before

/-- The state at RESTART before the supervisors take their part: every other block's rule. -/
def restartBlocks (s : State) : State := restartOthers (restartStore s)

theorem restartBlocks_rest (s : State) : restartBlocks s = { s with
    lu := (restartBlocks s).lu
    ctr := { s.ctr with tx := ⟨.unknown, .unknown⟩, rx := ⟨.unknown, .unknown⟩, tape := .unknown }
    stm := { s.stm with
      recs := (restartStore s).stm.recs, free := (restartStore s).stm.free, reservation := ⟨0, 0⟩
      low := decide ((restartStore s).stm.free.length < s.stm.cfg.storeLow), episode := ⟨false, false⟩
      lineLink := ⟨none, none⟩, kbLink := none, lineOwed := ⟨none, none⟩, kbOwed := none }
    fqm := { s.fqm with seq := (restartStore s).fqm.seq, framer := ⟨.idle, .idle⟩, sel := ⟨.idle, .idle⟩ }
    kbs := s.kbs.restart, prc := s.prc.restart, puc := s.puc.restart
    mtc := ⟨s.mtc.print.restart, s.mtc.punch.restart⟩
    cpe := { s.cpe with latches := (restartStore s).cpe.latches } } := by
  have store := restartStore_rest s
  unfold restartBlocks
  generalize restartStore s = w at store ⊢
  have rest := restartOthers_rest w
  generalize restartOthers w = v at rest ⊢
  rw [rest, store]
  rfl

theorem restartBlocks_unit (s : State) (l : LineId) : UnitRestarted (s.unit l) ((restartBlocks s).unit l) := by
  have store := restartStore_rest s
  unfold restartBlocks
  generalize restartStore s = w at store ⊢
  have unit : w.unit l = s.unit l := by rw [store]; rfl
  rw [← unit]
  exact restartOthers_unit w l

theorem restartBlocks_ready (runs : s.running = true) (l : LineId) : RestartReady (restartBlocks s) l := by
  have unit := restartBlocks_unit s l
  have rest := restartBlocks_rest s
  generalize restartStore s = w at rest
  generalize restartBlocks s = v at unit rest ⊢
  refine ⟨?_, unit.idle, by rw [unit.rest], ?_, ?_, ?_, ?_, ?_⟩
  · rw [rest]; exact runs
  all_goals rw [rest]
  · cases l <;> rfl
  · cases l <;> rfl
  · cases l <;> rfl
  · cases l <;> rfl
  · rfl

/-- A line is as ready for its supervisor's RESTART after the other's. -/
theorem SupervisorRestarted.ready {k : LineId} (a : SupervisorRestarted k s t) (other : l ≠ k) (ready : RestartReady s l) :
    RestartReady t l := by
  have rest := a.rest
  have unit : t.unit l = s.unit l := by
    rw [rest]
    exact Pair.get_set_ne _ _ other
  refine ⟨?_, unit ▸ ready.idle, unit ▸ ready.off, ?_, ?_, ?_, ?_, ?_⟩
  all_goals rw [rest]
  · exact ready.runs
  · exact ready.deferral
  · exact ready.tx
  · exact ready.rx
  · exact ready.reservation
  · exact ready.low

/-- Both supervisors' RESTART, one line after the other (R118, R131). -/
structure SupervisorsRestarted (s t : State) : Prop where
  rest : t = { s with
    lu := t.lu, sup := t.sup, stm := { s.stm with recs := t.stm.recs }, cpe := { s.cpe with latches := t.cpe.latches } }
  line : ∀ l, LineRestarted (s.unit l) (t.unit l) (s.csv l) (t.csv l)
  records : ∀ i, ∃ f : Rec → Pair Bool, t.record i = (s.record i).map fun r => { r with charged := f r }

theorem restartSupervisors_restarted (ready : ∀ l, RestartReady s l) :
    SupervisorsRestarted s (restartSupervisor (restartSupervisor s .A) .B) := by
  have a := restartSupervisor_restarted (ready .A)
  have b := restartSupervisor_restarted (a.ready (l := .B) (by decide) (ready .B))
  generalize restartSupervisor s .A = t at a b ⊢
  generalize restartSupervisor t .B = u at b ⊢
  have restA := a.rest
  have restB := b.rest
  have unitB : t.unit .B = s.unit .B := by rw [restA]; rfl
  have csvB : t.csv .B = s.csv .B := by rw [restA]; rfl
  have unitA : u.unit .A = t.unit .A := by rw [restB]; rfl
  have csvA : u.csv .A = t.csv .A := by rw [restB]; rfl
  refine ⟨?_, fun l => ?_, fun i => ?_⟩
  · rw [restB]
    generalize u.unit .B = p, u.csv .B = c, u.stm.recs = rs, u.cpe.latches = ls
    rw [restA]
  · cases l with
    | A =>
      rw [unitA, csvA]
      exact a.line
    | B =>
      rw [← unitB, ← csvB]
      exact b.line
  · obtain ⟨f, first⟩ := a.records i
    obtain ⟨g, second⟩ := b.records i
    refine ⟨fun r => g { r with charged := f r }, ?_⟩
    rw [second, first, Option.map_map]
    rfl

/-- The state at RESTART before the motors follow. -/
def restarted (s : State) : State := restartSupervisor (restartSupervisor (restartBlocks s) .A) .B

theorem restarted_restarted (runs : s.running = true) : SupervisorsRestarted (restartBlocks s) (restarted s) :=
  restartSupervisors_restarted (restartBlocks_ready runs)

theorem restarted_rest (runs : s.running = true) : restarted s = { s with
    lu := (restarted s).lu, sup := (restarted s).sup
    ctr := { s.ctr with tx := ⟨.unknown, .unknown⟩, rx := ⟨.unknown, .unknown⟩, tape := .unknown }
    stm := { s.stm with
      recs := (restarted s).stm.recs, free := (restartStore s).stm.free, reservation := ⟨0, 0⟩
      low := decide ((restartStore s).stm.free.length < s.stm.cfg.storeLow), episode := ⟨false, false⟩
      lineLink := ⟨none, none⟩, kbLink := none, lineOwed := ⟨none, none⟩, kbOwed := none }
    fqm := { s.fqm with seq := (restartStore s).fqm.seq, framer := ⟨.idle, .idle⟩, sel := ⟨.idle, .idle⟩ }
    kbs := s.kbs.restart, prc := s.prc.restart, puc := s.puc.restart
    mtc := ⟨s.mtc.print.restart, s.mtc.punch.restart⟩
    cpe := { s.cpe with latches := (restarted s).cpe.latches } } := by
  have rest := (restarted_restarted runs).rest
  have blocks := restartBlocks_rest s
  generalize restarted s = t at rest ⊢
  generalize restartBlocks s = v at rest blocks
  generalize restartStore s = w at blocks ⊢
  rw [rest, blocks]

theorem settle_restarted (runs : s.running = true) : settle (restarted s) = followMotors (restarted s) := by
  have rest := restarted_rest runs
  generalize restarted s = t at rest ⊢
  generalize restartStore s = w at rest
  refine settle_idle ?_ ?_ ?_ ?_ ?_
  all_goals
    rw [rest]
    rfl

theorem restartPart_followed (runs : s.running = true) : restartPart s =
    (followMotors (restarted s)).onCpe fun c => { c with latches := 0 } := by
  rw [← settle_restarted runs]
  exact restartPart_eq s

/-- RESTART of every block but the motors, the lines and the records (R73, R94, R144, R162, R175, R192). -/
theorem restartPart_rest (runs : s.running = true) : restartPart s = { s with
    lu := (restartPart s).lu, sup := (restartPart s).sup, mtc := (restartPart s).mtc
    ctr := { s.ctr with tx := ⟨.unknown, .unknown⟩, rx := ⟨.unknown, .unknown⟩, tape := .unknown }
    stm := { s.stm with
      recs := (restartPart s).stm.recs, free := (restartPart s).stm.free, reservation := ⟨0, 0⟩
      low := decide ((restartPart s).stm.free.length < s.stm.cfg.storeLow), episode := ⟨false, false⟩
      lineLink := ⟨none, none⟩, kbLink := none, lineOwed := ⟨none, none⟩, kbOwed := none }
    fqm := { s.fqm with seq := (restartPart s).fqm.seq, framer := ⟨.idle, .idle⟩, sel := ⟨.idle, .idle⟩ }
    kbs := s.kbs.restart, prc := s.prc.restart, puc := s.puc.restart
    cpe := { s.cpe with latches := 0 } } := by
  rw [restartPart_followed runs]
  have rest := restarted_rest runs
  generalize restarted s = t at rest ⊢
  generalize restartStore s = w at rest
  rw [rest]
  rfl

/-- The motors are forced to STOPPED and then follow: the printer has its carriage return to make, the punch nothing (R162,
R175, R181). -/
theorem restartPart_motors (runs : s.running = true) :
    (s.mtc.print.restart).Followed true (!s.prc.hold) (restartPart s).mtc.print ∧
      (restartPart s).mtc.punch = { s.mtc.punch.restart with demand := false } := by
  have rest := restarted_rest runs
  rw [restartPart_followed runs]
  generalize restarted s = t at rest ⊢
  generalize restartStore s = w at rest
  have running : t.running = true := by rw [rest]; exact runs
  have print : t.mtc.print = s.mtc.print.restart := by rw [rest]
  have punch : t.mtc.punch = s.mtc.punch.restart := by rw [rest]
  have asks : printDemand t = !s.prc.hold := by
    rw [rest]
    unfold printDemand nextPrintOp Printer.restart
    simp
  have quiet : punchDemand t = false := by
    rw [rest]
    unfold punchDemand nextPunchOp Punch.restart
    simp
  constructor
  · change (s.mtc.print.restart).Followed true _ (({ t.mtc.print with demand := printDemand t } : Motor).follow t.running)
    rw [running, asks, print]
    exact Motor.follow_followed ..
  · change ({ t.mtc.punch with demand := punchDemand t } : Motor).follow t.running = _
    rw [quiet, punch]
    exact follow_stopped rfl rfl _

theorem restartPart_line (runs : s.running = true) (l : LineId) :
    ∃ p, UnitRestarted (s.unit l) p ∧ LineRestarted p ((restartPart s).unit l) (s.csv l) ((restartPart s).csv l) := by
  refine ⟨_, restartBlocks_unit s l, ?_⟩
  have line := (restarted_restarted runs).line l
  have csv : (restartBlocks s).csv l = s.csv l := by
    have rest := restartBlocks_rest s
    generalize restartBlocks s = v at rest ⊢
    generalize restartStore s = w at rest
    rw [rest]
    rfl
  rw [csv] at line
  rw [restartPart_followed runs]
  generalize restarted s = t at line ⊢
  generalize restartBlocks s = v at line ⊢
  exact line

/-- What a supervisor keeps at RESTART, whatever state it enters. -/
theorem LineRestarted.kept {p q : LineUnit} {c d : Supervisor} (a : LineRestarted p q c d) :
    (q.cfg = p.cfg ∧ q.acc = p.acc ∧ q.stats = p.stats) ∧
      d.values = c.values ∧ d.refusal = c.refusal ∧ d.digits = c.digits ∧ d.remote = c.remote ∧ d.abActive = false ∧
      d.ending = false ∧ d.exch.half = false ∧ d.exch.sub = (if c.exch.sub.isOpen then .abandoned else c.exch.sub) := by
  have sub : c.restartBegun.exch.sub = (if c.exch.sub.isOpen then .abandoned else c.exch.sub) := by
    rw [Supervisor.restartBegun]
    dsimp only
    split <;> rfl
  refine ⟨by rw [a.unit]; exact ⟨rfl, rfl, rfl⟩, ?_⟩
  by_cases disabled : c.state = .disabled
  · rw [(a.stays disabled).2]
    exact ⟨rfl, rfl, rfl, rfl, rfl, rfl, rfl, sub⟩
  · by_cases running : c.state = .running ∨ c.state = .fault
    · rw [(a.runs running).2.2.2]
      exact ⟨rfl, rfl, rfl, rfl, rfl, rfl, rfl, sub⟩
    · obtain ⟨run, fault⟩ := not_or.mp running
      rw [(a.guards disabled run fault).2.2.2]
      exact ⟨rfl, rfl, rfl, rfl, rfl, rfl, rfl, sub⟩

theorem restartPart_record (runs : s.running = true) (i : Nat) :
    ∃ f : Rec → Pair Bool, (restartPart s).record i =
      ((restartStore s).record i).map fun r => { r with charged := f r } := by
  have records := (restarted_restarted runs).records i
  have same : (restartBlocks s).record i = (restartStore s).record i := by
    have rest := restartBlocks_rest s
    generalize restartBlocks s = v at rest ⊢
    generalize restartStore s = w at rest ⊢
    rw [rest]
    rfl
  rw [same] at records
  rw [restartPart_followed runs]
  generalize restarted s = t at records ⊢
  generalize restartStore s = w at records ⊢
  exact records

end Sys2Proof.Machine
end

section
/-! PROOF. The obligation on RESTART (R192). -/

namespace Sys2Proof.Machine

open Sys2Proof

theorem frame_restarted {p : Receiver} (off : p.mode = .off) : p.frame.mode = .framing ∧
    p.frame.sub = (if p.pin = .mark then .hunting false false else .spaceHeld 0) ∧
    (p.frame.inSpace = true ↔ p.pin = .space) := by
  unfold Receiver.frame Receiver.inSpace
  rw [if_neg (by rw [off]; exact RxMode.noConfusion)]
  cases p.pin <;> simp

theorem lineRestarted_all {p q r : LineUnit} {c d : Supervisor} (unit : UnitRestarted p q) (a : LineRestarted q r c d) :
    r.cfg = p.cfg ∧ r.acc = p.acc ∧ r.stats = p.stats ∧
      r.tx.state = .idle ∧ r.rx.age = 65535 ∧ r.rx.pin = p.rx.pin ∧
      d.values = c.values ∧ d.refusal = c.refusal ∧ d.digits = c.digits ∧ d.remote = c.remote ∧
      d.abActive = false ∧ d.ending = false ∧ d.exch.half = false ∧
      d.exch.sub = (if c.exch.sub.isOpen then .abandoned else c.exch.sub) ∧
      match c.state with
      | .disabled => d.state = .disabled ∧ r.rx.mode = .off ∧ d.timers = .stopped ∧
          d.callCount = c.callCount ∧ d.lastClear = c.lastClear
      | .running | .fault => d.state = .running ∧ r.tx.ordered = .mark ∧
          r.tx.pin = .mark ∧ r.rx.mode = .framing ∧
          r.rx.sub = (if p.rx.pin = .mark then .hunting false false else .spaceHeld 0) ∧
          d.callCount = nextCall c.callCount ∧ d.direction = .none ∧
          d.remaining = .unlimited ∧ d.lastClear = c.lastClear ∧
          d.timers = { SupTimers.stopped with fault := if p.rx.pin = .space then some 1000 else none }
      | .free | .incoming | .answering | .refusing | .calling | .selecting | .awaitConnect | .connected | .clearing
      | .guard => d.state = .guard ∧ r.tx.ordered = .space ∧ r.tx.pin = .space ∧
          r.rx.mode = .condition ∧ r.rx.known = p.rx.pin ∧
          d.lastClear = .restart ∧ d.callCount = c.callCount ∧
          d.direction = c.direction ∧ d.remaining = c.remaining ∧
          d.timers = { SupTimers.stopped with guard := some c.values.guardMs } := by
  obtain ⟨⟨cfg, acc, stats⟩, values, refusal, digits, remote, active, ending, half, sub⟩ := a.kept
  have rx : q.rx = { p.rx with mode := .off, sub := .hunting false false, watchSeen := false, age := 65535 } := by
    rw [unit.rest]
  have pin : q.rx.pin = p.rx.pin := by rw [rx]
  refine ⟨cfg.trans (by rw [unit.rest]), acc.trans (by rw [unit.rest]), stats.trans (by rw [unit.rest]), a.idle,
    a.age.trans (by rw [rx]), a.pin.trans pin, values, refusal, digits, remote, active, ending, half, sub, ?_⟩
  have disabled (state : c.state = .disabled) : d.state = .disabled ∧ r.rx.mode = .off ∧ d.timers = .stopped ∧
      d.callCount = c.callCount ∧ d.lastClear = c.lastClear := by
    obtain ⟨same, sup⟩ := a.stays state
    rw [same, sup, rx]
    exact ⟨state, rfl, rfl, rfl, rfl⟩
  have running (state : c.state = .running ∨ c.state = .fault) : d.state = .running ∧ r.tx.ordered = .mark ∧
      r.tx.pin = .mark ∧ r.rx.mode = .framing ∧
      r.rx.sub = (if p.rx.pin = .mark then .hunting false false else .spaceHeld 0) ∧
      d.callCount = nextCall c.callCount ∧ d.direction = .none ∧
      d.remaining = .unlimited ∧ d.lastClear = c.lastClear ∧
      d.timers = { SupTimers.stopped with fault := if p.rx.pin = .space then some 1000 else none } := by
    obtain ⟨ordered, txPin, framed, sup⟩ := a.runs state
    obtain ⟨mode, sub, inSpace⟩ := frame_restarted (p := q.rx) (by rw [rx])
    rw [pin] at sub inSpace
    rw [framed, sup]
    exact ⟨rfl, ordered, txPin, mode, sub, rfl, rfl, rfl, rfl,
      congrArg (fun x => { SupTimers.stopped with fault := x }) (if_congr inSpace rfl rfl)⟩
  have guarding (no : c.state ≠ .disabled) (run : c.state ≠ .running) (fault : c.state ≠ .fault) :
      d.state = .guard ∧ r.tx.ordered = .space ∧ r.tx.pin = .space ∧ r.rx.mode = .condition ∧ r.rx.known = p.rx.pin ∧
      d.lastClear = .restart ∧ d.callCount = c.callCount ∧ d.direction = c.direction ∧ d.remaining = c.remaining ∧
      d.timers = { SupTimers.stopped with guard := some c.values.guardMs } := by
    obtain ⟨ordered, txPin, rx', sup⟩ := a.guards no run fault
    rw [rx', sup]
    exact ⟨rfl, ordered, txPin, rfl, pin, rfl, rfl, rfl, rfl, rfl⟩
  cases state : c.state with
  | disabled => exact disabled state
  | running => exact running (.inl state)
  | fault => exact running (.inr state)
  | _ => exact guarding (by simp [state]) (by simp [state]) (by simp [state])

end Sys2Proof.Machine

open Sys2Proof Sys2Proof.Machine

/-- Settles O42: the store's record by record, the lines' one after the other, and the motors following at the end. -/
theorem restartActsOnEveryBlock : Obligations.RestartActsOnEveryBlock := by
  intro s ready
  have runs : (s.zeros 3).running = true := ready.2.2
  have row : exec (.restart []) s = .next ((restartPart (s.zeros 3)).onCpe fun x => { x with port := .response .ok [] }) :=
    congrArg Host.Outcome.next (consoleRow_ok ready (Nat.zero_le _) rfl)
  have rest := restartPart_rest runs
  obtain ⟨print, punch⟩ := restartPart_motors runs
  have line := restartPart_line runs
  have record := restartPart_record runs
  have stored (i : Nat) := restartStore_record (i := i) (s.zeros 3)
  refine ⟨_, row, ?_⟩
  generalize restartPart (s.zeros 3) = t at rest print punch line record ⊢
  generalize restartStore (s.zeros 3) = w at record stored
  refine ⟨?_, ?_, ?_, ?_, ?_, ?_, ?_, ?_, ?_, ?_, print, punch, ?_, fun l => ?_, fun i within => ?_⟩
  · exact congrArg (·.tbu) rest
  · exact congrArg (·.identity) rest
  · exact congrArg (·.xcfg) rest
  · exact congrArg (·.pending) rest
  · exact congrArg (fun u => { u.cpe with port := Port.response .ok [] }) rest
  · exact congrArg (·.ctr) rest
  · exact congrArg (·.fqm) rest
  · have kbs : t.kbs = s.kbs.restart := congrArg (·.kbs) rest
    change t.kbs = { s.kbs.restart with repeatSpent := t.kbs.repeatSpent }
    rw [kbs]
  · exact congrArg (·.prc) rest
  · exact congrArg (·.puc) rest
  · exact congrArg (·.stm) rest
  · obtain ⟨p, unit, after⟩ := line l
    exact lineRestarted_all unit after
  · obtain ⟨free, held⟩ := stored i within
    obtain ⟨f, charged⟩ := record i
    refine ⟨fun none => ?_, fun r present => ?_⟩
    · exact charged.trans (by rw [free none]; rfl)
    · have outcome := held r present
      split
      · next gone =>
        rw [if_pos gone] at outcome
        exact charged.trans (by rw [outcome]; rfl)
      · next stays =>
        rw [if_neg stays] at outcome
        obtain ⟨q, at', kept⟩ := outcome
        refine ⟨{ q with charged := f q }, charged.trans (by rw [at']; rfl), ?_, kept.joinsA, kept.joinsB, kept.keptA,
          kept.keptB⟩
        have rest := kept.rest
        generalize f q = c
        have closed : (restartRecord r).state = .closed := by
          rcases restartRecord_state r with ⟨-, was⟩ | ⟨closed, -⟩
          · exact absurd (.inl was) stays
          · exact closed
        rw [rest, ← closed]
        rfl

end

section
/-! SUPPORT. What taking a received combination keeps of the line that received it (R7 to R11, R42). -/

namespace Sys2Proof.Machine

open Sys2Proof

variable {s t u : State} {l : LineId} {shifts : Bool}

/-- `t` comes from `s` by what line l's consumers do with a combination: its unit's configuration, accumulator, transmitter's
work, receive age and counted characters stay, and of the shift records at most the receive ones change. -/
structure Consumed (l : LineId) (s t : State) (shifts : Bool := true) : Prop where
  cfg : (t.unit l).cfg = (s.unit l).cfg := by rfl
  acc : (t.unit l).acc = (s.unit l).acc := by rfl
  sends : (t.unit l).tx.state = (s.unit l).tx.state := by rfl
  age : (t.unit l).rx.age = (s.unit l).rx.age := by rfl
  stats : (t.unit l).stats = { (s.unit l).stats with undefinedCount := (t.unit l).stats.undefinedCount } := by rfl
  tbu : t.tbu = s.tbu := by rfl
  identity : t.identity = s.identity := by rfl
  ctr : t.ctr = { s.ctr with rx := t.ctr.rx } := by rfl
  still : shifts = false → t.ctr = s.ctr := by exact fun _ => rfl
  latched : ∀ k, s.cpe.latches.getLsbD k = true → t.cpe.latches.getLsbD k = true := by exact fun _ h => h

namespace Consumed

theorem refl (l : LineId) (s : State) : Consumed l s s shifts := {}

theorem trans (a : Consumed l s t shifts) (b : Consumed l t u shifts) : Consumed l s u shifts where
  cfg := b.cfg.trans a.cfg
  acc := b.acc.trans a.acc
  sends := b.sends.trans a.sends
  age := b.age.trans a.age
  stats := by rw [b.stats, a.stats]
  tbu := b.tbu.trans a.tbu
  identity := b.identity.trans a.identity
  ctr := by rw [b.ctr, a.ctr]
  still := fun h => (b.still h).trans (a.still h)
  latched := fun k h => b.latched k (a.latched k h)

theorem any (a : Consumed l s t false) : Consumed l s t :=
  { a with still := nofun }

theorem ite {c : Prop} [Decidable c] (a : c → Consumed l s t shifts) (b : ¬ c → Consumed l s u shifts) :
    Consumed l s (if c then t else u) shifts := by
  split
  · next h => exact a h
  · next h => exact b h

/-- A change that leaves the line's unit and the shift records. -/
theorem of_unit (unit : t.unit l = s.unit l) (only : LineOnly l s t) : Consumed l s t shifts where
  cfg := by rw [unit]
  acc := by rw [unit]
  sends := by rw [unit]
  age := by rw [unit]
  stats := by rw [unit]
  tbu := only.tbu
  identity := only.identity
  ctr := by rw [only.ctr]
  still := fun _ => only.ctr
  latched := only.latched

theorem onCsv (s : State) (f : Supervisor → Supervisor) : Consumed l s (s.onCsv l f) shifts := of_unit rfl (.onCsv ..)
theorem onTimers (s : State) (f : SupTimers → SupTimers) : Consumed l s (s.onTimers l f) shifts := of_unit rfl (.onCsv ..)
theorem onExch (s : State) (f : Exchange → Exchange) : Consumed l s (s.onExch l f) shifts := of_unit rfl (.onCsv ..)
theorem onSelector (s : State) (f : Selector → Selector) : Consumed l s (s.onSelector l f) shifts :=
  of_unit rfl (.onSelector ..)
theorem latch (s : State) (e : Event) : Consumed l s (s.latch e) shifts := of_unit rfl (.latch ..)

theorem store (a : StoreStep s t) : Consumed l s t shifts where
  cfg := by rw [a.unit]
  acc := by rw [a.unit]
  sends := by rw [a.unit]
  age := by rw [a.unit]
  stats := by rw [a.unit]
  tbu := a.tbu
  identity := a.identity
  ctr := by rw [a.ctr]
  still := fun _ => a.ctr
  latched := a.latched

theorem onRx (s : State) {f : Receiver → Receiver} (age : (f (s.unit l).rx).age = (s.unit l).rx.age) :
    Consumed l s (s.onRx l f) shifts where
  cfg := by rw [State.onRx_unit_same]
  acc := by rw [State.onRx_unit_same]
  sends := by rw [State.onRx_unit_same]
  age := by rw [State.onRx_unit_same]; exact age
  stats := by rw [State.onRx_unit_same]

theorem order (s : State) (v : Level) : Consumed l s (s.order l v) shifts := by
  have unit : (s.order l v).unit l = { s.unit l with tx := ((s.order l v).unit l).tx } := order_unit s l v
  have sends : ((s.order l v).unit l).tx.state = (s.unit l).tx.state := by
    rw [State.order, State.onTx_unit_same]
    dsimp only
    split <;> exact rfl
  exact { cfg := by rw [unit], acc := by rw [unit], sends := sends, age := by rw [unit], stats := by rw [unit] }

theorem setRxShift (s : State) (r : ShiftRecord) : Consumed l s (s.setRxShift l r) where
  still := nofun

theorem countUndefined (s : State) (l : LineId) : Consumed l s (countUndefined s l) shifts where
  cfg := by rw [Machine.countUndefined, State.onStats_unit_same]
  acc := by rw [Machine.countUndefined, State.onStats_unit_same]
  sends := by rw [Machine.countUndefined, State.onStats_unit_same]
  age := by rw [Machine.countUndefined, State.onStats_unit_same]
  stats := by rw [Machine.countUndefined, State.onStats_unit_same]

end Consumed

/-! ## The supervisor's entries (R103, R109, R110) -/

theorem enterGuard_consumed (s : State) (l : LineId) : Consumed l s (enterGuard s l) shifts := by
  unfold enterGuard
  refine .trans (.trans (.trans (.trans (.onCsv ..) (.onTimers ..)) (.onRx _ ?_)) (.order ..)) (.latch ..)
  split <;> rfl

theorem connectionEnd_consumed (s : State) (l : LineId) : Consumed l s (connectionEnd s l) shifts := by
  have send (t : State) : Consumed l t (endSendOnConnection t l) shifts := by
    unfold endSendOnConnection
    dsimp only
    split
    · exact .trans (.trans (.store (.onRecords ..)) (.onSelector ..)) (.store (endGrant_step ..))
    · exact .trans (.store (.onRecords ..)) (.onSelector ..)
  unfold connectionEnd
  refine .trans (.trans (.trans (.trans ?_ (send _)) (.onSelector ..)) (.onExch ..)) (.onCsv ..)
  exact .trans (.store (framerEnd_step ..)) (.store (setReservation_step ..))

theorem clearingBegun_consumed (s : State) (l : LineId) (why : ClearReason) :
    Consumed l s (clearingBegun s l why) shifts := by
  unfold clearingBegun
  refine .trans (.trans (.trans (.trans (.trans (.onCsv ..) (.onCsv ..)) (.onSelector ..)) (.onExch ..)) (.order ..))
    (.onRx _ ?_)
  unfold Receiver.frame
  split <;> rfl

theorem enterClearing_consumed (s : State) (l : LineId) (why : ClearReason) :
    Consumed l s (enterClearing s l why) shifts := by
  rw [enterClearing_eq]
  exact .ite (fun _ => (clearingBegun_consumed ..).trans ((connectionEnd_consumed ..).trans (enterGuard_consumed ..)))
    fun _ => clearingBegun_consumed ..

/-! ## The consumers (R7, R8, R82, R104, R112 to R115) -/

theorem framerTake_consumed (s : State) (l : LineId) (x : RxChar) : Consumed l s (framerTake s l x) shifts := by
  have run : Consumed l s (framerRun framerFuel s l [x]).1 shifts := .store (framerRun_step ..)
  unfold framerTake
  refine .trans ?_ (.store (restartGap_step ..))
  refine .ite (fun _ => run.trans ?_) fun _ => run
  exact .ite (fun _ => enterClearing_consumed ..) fun _ => .refl ..

theorem captureTaken_consumed (s : State) (l : LineId) : Consumed l s (captureTaken s l) shifts :=
  .of_unit (captureTaken_rest s l).1 (captureTaken_only s l)

theorem captureEnd_consumed (s : State) (l : LineId) : Consumed l s (captureEnd s l) shifts := by
  have taken : Consumed l s (captureTaken s l) shifts := captureTaken_consumed ..
  by_cases await : (s.csv l).state = .awaitConnect
  · cases matched : captureMatches (s.csv l) with
    | false =>
      rw [captureEnd_mismatched await matched]
      exact taken.trans (enterClearing_consumed ..)
    | true =>
      rw [captureEnd_matched await matched, enterConnected_caller]
      exact taken.trans (.of_unit rfl (.trans (.setCsv ..) (.latch ..)))
  · by_cases connected : (s.csv l).state = .connected
    · rw [captureEnd_connected connected]
      exact taken.trans (enterClearing_consumed ..)
    · rw [captureEnd_other await connected]
      exact taken

theorem captureChar_consumed (s : State) (l : LineId) (x : RxChar) : Consumed l s (captureChar s l x) shifts := by
  unfold captureChar
  exact .ite (fun _ => (Consumed.onCsv s _).trans ((captureEnd_consumed ..).trans (.onCsv ..))) fun _ => .onCsv ..

theorem deliver_consumed (s : State) (l : LineId) (x : RxChar) : Consumed l s (deliver s l x) shifts := by
  unfold deliver
  dsimp only
  split
  · exact .ite (fun _ => captureChar_consumed ..) fun _ => framerTake_consumed ..
  · exact .ite (fun _ => .refl ..) fun _ => framerTake_consumed ..
  · exact framerTake_consumed ..
  · split
    · exact .onCsv ..
    · exact captureChar_consumed ..
    all_goals exact .refl ..
  all_goals exact .refl ..

theorem placeSeq_consumed (s : State) (l : LineId) (q : TxSeq) : Consumed l s (placeSeq s l q) shifts :=
  .onSelector ..

theorem wruRequest_consumed (s : State) (l : LineId) : Consumed l s (wruRequest s l) shifts := by
  have offer (v : State) : Consumed l v (placeOffer v l) shifts := .trans (.onExch ..) (placeSeq_consumed ..)
  unfold wruRequest
  dsimp only
  refine .ite (fun _ => ?_) fun _ => .refl ..
  have stopped : Consumed l s (if offerWaiting s l = true then s.onExch l fun e => { e with offerTimer := none } else s)
      shifts := .ite (fun _ => .onExch ..) fun _ => .refl ..
  refine stopped.trans ?_
  generalize (if offerWaiting s l = true then s.onExch l fun e => { e with offerTimer := none } else s) = v
  refine .ite (fun _ => .refl ..) fun _ => ?_
  split
  · exact .trans (.onCsv ..) (.onSelector ..)
  · exact .ite (fun _ => offer v) fun _ => .refl ..

/-! ## Combinations translated (R7 to R10, R13, R112, R124) -/

theorem placePage_consumed (s : State) (l : LineId) (k : SeqKind) (p : List Comb) (sub : ExchSub) :
    Consumed l s (placePage s l k p sub) shifts := .trans (.onExch ..) (placeSeq_consumed ..)

theorem placePage0_consumed (s : State) (l : LineId) (ack : Bool) (sub : ExchSub) :
    Consumed l s (placePage0 s l ack sub) shifts := .trans (.onExch ..) (placePage_consumed ..)

theorem placePage1_consumed (s : State) (l : LineId) (sub : ExchSub) : Consumed l s (placePage1 s l sub) shifts :=
  .trans (.trans (.onExch ..) (.store (setReservation_step ..))) (placePage_consumed ..)

theorem endBlankRun_consumed (s : State) (l : LineId) : Consumed l s (endBlankRun s l) shifts := .onExch ..

theorem blankIndication_consumed (s : State) (l : LineId) : Consumed l s (blankIndication s l) shifts :=
  .ite (fun _ => .ite (fun _ => .onExch ..) fun _ => .trans (.onExch ..) (placePage0_consumed ..)) fun _ => .refl ..

theorem proceedIndication_consumed (s : State) (l : LineId) : Consumed l s (proceedIndication s l) shifts :=
  .ite (fun _ => .trans (.trans (.onCsv ..) (.onTimers ..)) (placeSeq_consumed ..)) fun _ => .refl ..

theorem translateReceived_consumed (s : State) (l : LineId) (c : Comb) (errored : Bool) :
    Consumed l s (translateReceived s l c errored) := by
  have b : Consumed l s (endBlankRun s l) := endBlankRun_consumed ..
  unfold translateReceived
  refine .ite (fun _ => b.trans (deliver_consumed ..)) fun _ => ?_
  dsimp only
  split
  · exact b.trans (.setRxShift ..)
  · exact b.trans (.setRxShift ..)
  · exact .ite (fun _ => (b.trans (deliver_consumed ..)).trans (.setRxShift ..)) fun _ => b.trans (deliver_consumed ..)
  · exact b.trans (deliver_consumed ..)
  · exact b.trans (wruRequest_consumed ..)
  · exact .ite (fun _ => blankIndication_consumed ..) fun _ => b.trans (.countUndefined ..)
  · exact .ite (fun _ => b.trans (proceedIndication_consumed ..)) fun _ => b.trans (.countUndefined ..)
  · exact .ite (fun _ => b) fun _ => b.trans (.countUndefined ..)

/-! ## Combinations taken by a paging engine (R126, R127, R130) -/

theorem handedBack_consumed (s : State) (l : LineId) (cs : List (Comb × Bool)) : Consumed l s (handedBack s l cs) := by
  induction cs generalizing s with
  | nil => exact .refl ..
  | cons c cs ih => exact (translateReceived_consumed s l c.1 c.2).trans (ih _)

theorem endSilentProgress_consumed (s : State) (l : LineId) : Consumed l s (endSilentProgress s l) shifts :=
  .ite (fun _ => .of_unit rfl (placeWru_only ..)) fun _ => .refl ..

theorem exchangePlain_consumed (s : State) (l : LineId) (why : PlainCause) (last : Option (Comb × Bool)) :
    Consumed l s (exchangePlain s l why last) := by
  unfold exchangePlain
  refine .trans ?_ (handedBack_consumed ..)
  refine .trans (.trans ?_ (.latch ..)) (endSilentProgress_consumed ..)
  exact .trans (.onExch ..) (.store (setReservation_step ..))

theorem startPageTimer_consumed (s : State) (l : LineId) : Consumed l s (startPageTimer s l) shifts :=
  .ite (fun _ => .refl ..) fun _ => .onExch ..

theorem exchangeDone_consumed (s : State) (l : LineId) : Consumed l s (exchangeDone s l) shifts :=
  .trans (.trans (.onCsv ..) (.latch ..)) (endSilentProgress_consumed ..)

theorem actOnPage_consumed (s : State) (l : LineId) (p : List Comb) : Consumed l s (actOnPage s l p) shifts := by
  unfold actOnPage
  split
  · exact .trans (.onExch ..) (placePage0_consumed ..)
  · exact .trans (.onExch ..) (placePage1_consumed ..)
  · exact .trans (.onExch ..) (.ite (fun _ => placePage1_consumed ..) fun _ => placePage_consumed ..)
  · exact exchangeDone_consumed ..
  all_goals exact .refl ..

theorem checkPage_consumed (s : State) (l : LineId) (p : List Comb) : Consumed l s (checkPage s l p) := by
  unfold checkPage
  dsimp only
  refine .ite (fun _ => .trans (.onExch ..) (exchangePlain_consumed ..)) fun _ => ?_
  refine .ite (fun _ => .trans (.onExch ..) (exchangePlain_consumed ..)) fun _ => ?_
  exact .ite (fun _ => .trans (.onExch ..) (actOnPage_consumed ..)) fun _ =>
    .trans (.onExch ..) (startPageTimer_consumed ..)

theorem engineTake_consumed (s : State) (l : LineId) (c : Comb) (errored : Bool) :
    Consumed l s (engineTake s l c errored) := by
  unfold engineTake
  dsimp only
  refine .ite (fun _ => exchangePlain_consumed ..) fun _ => .ite (fun _ => exchangePlain_consumed ..) fun _ => ?_
  exact .ite (fun _ => .trans (.onExch ..) (startPageTimer_consumed ..)) fun _ => checkPage_consumed ..

theorem receiveComb_consumed (s : State) (l : LineId) (c : Comb) (errored : Bool) :
    Consumed l s (receiveComb s l c errored) := by
  unfold receiveComb
  refine .trans (Consumed.onExch s _) (.ite (fun _ => ?_) fun _ => translateReceived_consumed ..)
  exact .ite (fun _ => wruRequest_consumed ..) fun _ => engineTake_consumed ..

end Sys2Proof.Machine
end

section
/-! SUPPORT. The stop sample: the combination, the character counted, and the space condition (R42, R45 to R47). -/

namespace Sys2Proof.Machine

open Sys2Proof

variable {s t u : State} {l : LineId} {f : Frame} {c : Comb} {good : Bool}

/-! ## The combination (R42) -/

theorem combOf_getLsbD (samples : List Level) {k : Nat} (h : k < 5) :
    (combOf samples).getLsbD k = majority samples k := by
  have bit (a b c d e : Bool) (j : Fin 5) : (BitVec.ofNat 5 (bits [a, b, c, d, e])).getLsbD j = [a, b, c, d, e][j] := by
    revert a b c d e j
    decide
  have read := bit (majority samples 0) (majority samples 1) (majority samples 2) (majority samples 3)
    (majority samples 4) ⟨k, h⟩
  rw [combOf]
  refine read.trans ?_
  match k, h with
  | 0, _ | 1, _ | 2, _ | 3, _ | 4, _ => rfl

/-! ## The character counted (R42, R45 to R47) -/

/-- The statistics with one character more. -/
def LineStats.oneMore (x : LineStats) (threshold peak : Nat) (errored : Bool) : LineStats :=
  { x with chars := bump x.chars, framing := if errored then bump x.framing else x.framing, lastPeak := peak
           runPeak := max x.runPeak peak
           alarmCount := if decide (threshold ≤ peak) = true then bump x.alarmCount else x.alarmCount
           armed := x.armed && !decide (threshold ≤ peak) }

theorem countChar_eq (s : State) (l : LineId) (peak : Nat) (errored : Bool) : countChar s l peak errored =
    let v := s.onStats l fun x => x.oneMore (s.unit l).cfg.alarmThreshold peak errored
    if (decide ((s.unit l).cfg.alarmThreshold ≤ peak) && (s.unit l).stats.armed) = true then v.latch (alarmEvent l) else v :=
  rfl

theorem countChar_unit (s : State) (l : LineId) (peak : Nat) (errored : Bool) : (countChar s l peak errored).unit l =
    { s.unit l with stats := (s.unit l).stats.oneMore (s.unit l).cfg.alarmThreshold peak errored } := by
  have counted := State.onStats_unit_same s l fun x => x.oneMore (s.unit l).cfg.alarmThreshold peak errored
  rw [countChar_eq]
  dsimp only
  split <;> exact counted

theorem countChar_only (s : State) (l : LineId) (peak : Nat) (errored : Bool) :
    LineOnly l s (countChar s l peak errored) := by
  have counted := LineOnly.onUnit (l := l) s fun u =>
    { u with stats := u.stats.oneMore (s.unit l).cfg.alarmThreshold peak errored }
  rw [countChar_eq]
  exact .ite (counted.trans (.latch ..)) counted

theorem countChar_rings (s : State) (l : LineId) {peak : Nat} (errored : Bool)
    (loud : (s.unit l).cfg.alarmThreshold ≤ peak) (armed : (s.unit l).stats.armed = true) :
    Latched (countChar s l peak errored) (alarmEvent l) := by
  rw [countChar_eq]
  dsimp only
  rw [if_pos (by simp [loud, armed])]
  exact latch_latched ..

/-- The receiver hunting again, its age at 0. -/
def rehunting (s : State) (l : LineId) : State := s.onRx l fun r => { r with sub := huntOrBlank s l true, age := 0 }

theorem frameTaken_counted (s : State) (l : LineId) (peak : Nat) (errored : Bool) : frameTaken s l peak errored =
    { countChar (rehunting s l) l peak errored with
      sup := (restartIdle (countChar (rehunting s l) l peak errored) l).sup } := restartIdle_parts ..

theorem rehunting_unit (s : State) (l : LineId) : (rehunting s l).unit l =
    { s.unit l with rx := { (s.unit l).rx with sub := huntOrBlank s l true, age := 0 } } := State.onRx_unit_same ..

theorem frameTaken_unit (s : State) (l : LineId) (peak : Nat) (errored : Bool) : (frameTaken s l peak errored).unit l =
    { s.unit l with
      rx := { (s.unit l).rx with sub := huntOrBlank s l true, age := 0 }
      stats := (s.unit l).stats.oneMore (s.unit l).cfg.alarmThreshold peak errored } := by
  rw [frameTaken_counted]
  refine (countChar_unit ..).trans ?_
  rw [rehunting_unit]

theorem frameTaken_only (s : State) (l : LineId) (peak : Nat) (errored : Bool) :
    LineOnly l s (frameTaken s l peak errored) := by
  refine .trans (.trans (LineOnly.onRx (l := l) s _) (countChar_only (rehunting s l) l peak errored)) ?_
  rw [frameTaken_counted]
  exact { csv := fun k n => restartIdle_ne _ n }

theorem frameTaken_rings (s : State) (l : LineId) {peak : Nat} (errored : Bool)
    (loud : (s.unit l).cfg.alarmThreshold ≤ peak) (armed : (s.unit l).stats.armed = true) :
    Latched (frameTaken s l peak errored) (alarmEvent l) := by
  rw [frameTaken_counted]
  have unit := rehunting_unit s l
  exact countChar_rings (rehunting s l) l errored (by rw [unit]; exact loud) (by rw [unit]; exact armed)

/-! ## The row (R42) -/

theorem stopSample_waits (mode : (s.unit l).rx.mode = .framing) (sub : (s.unit l).rx.sub = .character f)
    (h : f.pos < 416 ∨ f.started = false) : stopSample l s = s := by
  rw [stopSample, (frameInHand_iff ..).mpr ⟨mode, sub⟩]
  refine if_neg fun ⟨due, started⟩ => ?_
  rcases h with h | h
  · omega
  · rw [h] at started
    cases started

theorem stopSample_takes (h : CharacterIn s l f c good) :
    stopSample l s = settleLine (receiveComb (frameTaken s l f.peak !good) l c !good) l := by
  have stop : decide ((s.unit l).rx.last = .mark) = good := by
    rw [Bool.eq_iff_iff, decide_eq_true_eq]
    exact h.stop.symm
  have kept : (good || decide (c ≠ 0)) = true := by simpa using h.held
  rw [stopSample, (frameInHand_iff ..).mpr ⟨h.mode, h.sub⟩]
  dsimp only
  rw [if_pos ⟨h.due, h.started⟩, stop, ← h.comb, if_pos kept]

/-- The receiver in the space condition, a break counted. -/
def broken (s : State) (l : LineId) : State :=
  ((endTogether s l).onRx l fun r => { r with sub := .spaceHeld 0 }).onStats l fun x =>
    { x with breaks := bump x.breaks }

theorem stopSample_breaks (mode : (s.unit l).rx.mode = .framing) (sub : (s.unit l).rx.sub = .character f)
    (due : 416 ≤ f.pos) (started : f.started = true) (space : (s.unit l).rx.last = .space) (all : combOf f.samples = 0) :
    stopSample l s = settleLine (reportSpace (broken s l) l) l := by
  rw [stopSample, (frameInHand_iff ..).mpr ⟨mode, sub⟩]
  dsimp only
  rw [if_pos ⟨due, started⟩, space, all]
  rfl

theorem broken_unit (s : State) (l : LineId) : (broken s l).unit l =
    { s.unit l with
      rx := { (s.unit l).rx with sub := .spaceHeld 0 }
      stats := { (s.unit l).stats with breaks := bump (s.unit l).stats.breaks } } := by
  rw [broken, State.onStats_unit_same, State.onRx_unit_same]
  rfl

theorem broken_csv (s : State) (l : LineId) : (broken s l).csv l =
    { s.csv l with exch := { (s.csv l).exch with together := false } } := by
  have same : (broken s l).csv l = (endTogether s l).csv l := rfl
  rw [same, endTogether, State.onExch_csv_same]

/-! ## What a character changes of its line -/

/-- What a combination that is taken, and the settling after it, leave of the line. -/
structure Taken (l : LineId) (s t : State) : Prop where
  cfg : (t.unit l).cfg = (s.unit l).cfg
  acc : (t.unit l).acc = (s.unit l).acc
  sends : (t.unit l).tx.state = (s.unit l).tx.state
  age : (t.unit l).rx.age = (s.unit l).rx.age
  stats : (t.unit l).stats = { (s.unit l).stats with
    undefinedCount := (t.unit l).stats.undefinedCount, untranslatable := (t.unit l).stats.untranslatable }
  tbu : t.tbu = s.tbu
  identity : t.identity = s.identity
  ctr : t.ctr = { s.ctr with rx := t.ctr.rx }
  latched : ∀ k, s.cpe.latches.getLsbD k = true → t.cpe.latches.getLsbD k = true

theorem Consumed.settled (a : Consumed l s u) (b : Settled (oneLine l) u t) : Taken l s t := by
  have unit := b.kept.unit l
  exact {
    cfg := by rw [unit, a.cfg]
    acc := by rw [unit, a.acc]
    sends := by rw [unit, a.sends]
    age := by rw [unit, a.age]
    stats := by rw [unit, a.stats]
    tbu := b.kept.tbu.trans a.tbu
    identity := b.kept.identity.trans a.identity
    ctr := by rw [b.kept.ctr, a.ctr]
    latched := fun k h => b.kept.latched k (a.latched k h) }

/-! ## The receive shift record (R7, R8) -/

theorem receiveComb_errored (s : State) (l : LineId) (c : Comb) (idle : (s.csv l).exch.sub.isPaging = false) :
    (receiveComb s l c true).ctr = s.ctr := by
  have plain : ((endTogether s l).csv l).exch.sub.isPaging = false := by
    rw [endTogether, State.onExch_csv_same]
    exact idle
  rw [receiveComb, plain]
  exact (deliver_consumed (shifts := false) (endBlankRun (endTogether s l) l) l ⟨s.ctr.substitute, true⟩).still rfl

theorem receiveComb_shift (s : State) (l : LineId) (c : Comb) (idle : (s.csv l).exch.sub.isPaging = false) :
    ((readComb s.ctr.table (s.ctr.rx.get l) c).kind = .ltrs →
      (receiveComb s l c false).ctr.rx.get l = .held .letters) ∧
    ((readComb s.ctr.table (s.ctr.rx.get l) c).kind = .figs →
      (receiveComb s l c false).ctr.rx.get l = .held .figures) := by
  have plain : ((endTogether s l).csv l).exch.sub.isPaging = false := by
    rw [endTogether, State.onExch_csv_same]
    exact idle
  have same : receiveComb s l c false = translateReceived (endTogether s l) l c false := by
    rw [receiveComb, plain]
    rfl
  have ctr : (endTogether s l).ctr = s.ctr := rfl
  rw [same, translateReceived, if_neg Bool.false_ne_true, ctr]
  constructor
  all_goals
    intro kind
    simp only [kind]
    exact Pair.get_set_same ..

end Sys2Proof.Machine
end

section
/-! PROOF. The row itself: a character counted, and a space condition opened (R42). -/

namespace Sys2Proof.Machine

open Sys2Proof

variable {s t u : State} {l : LineId} {f : Frame} {c : Comb} {good : Bool}

/-- A character taken: its counts, its alarm, the receive age and the receive shift (R7, R8, R42, R45 to R47). -/
theorem stopSample_counts (h : CharacterIn s l f c good) (row : stopSample l s = t) :
    Taken l (frameTaken s l f.peak !good) t ∧
    ((s.csv l).exch.sub.isPaging = false →
      ((s.unit l).rx.last = .space → t.ctr = s.ctr) ∧
      ((s.unit l).rx.last = .mark →
        ((readComb s.ctr.table (s.ctr.rx.get l) c).kind = .ltrs → t.ctr.rx.get l = .held .letters) ∧
        ((readComb s.ctr.table (s.ctr.rx.get l) c).kind = .figs → t.ctr.rx.get l = .held .figures))) := by
  obtain ⟨csv, ctr, -⟩ := frameTaken_line s l f.peak !good
  have settled := settleLine_settled (receiveComb (frameTaken s l f.peak !good) l c !good) l
  rw [← stopSample_takes h, row] at settled
  refine ⟨(receiveComb_consumed ..).settled settled, fun idle => ?_⟩
  have plain : ((frameTaken s l f.peak !good).csv l).exch.sub.isPaging = false := by
    rw [csv]
    exact idle
  rw [settled.kept.ctr]
  constructor
  · intro space
    have errored : good = false := by
      rw [Bool.eq_false_iff, ne_eq, h.stop, space]
      nofun
    subst errored
    exact (receiveComb_errored _ l c plain).trans ctr
  · intro mark
    obtain rfl := h.stop.mpr mark
    have shift := receiveComb_shift (frameTaken s l f.peak !true) l c plain
    rwa [ctr] at shift

/-- A space condition opened: the break is counted, and the supervisor told (R42). -/
theorem reportSpace_framing (s : State) (l : LineId) : let t := reportSpace s l
    ((s.csv l).state ∈ [.connected, .selecting, .awaitConnect] ∨
        ((s.csv l).state = .calling ∧ (s.csv l).phase = .proceedWait) →
      (t.csv l).timers.clearRecognize = some (s.csv l).values.clearRecognizeMs) ∧
    ((s.csv l).state = .calling → (s.csv l).phase = .confirmWait → t = s) ∧
    ((s.csv l).state = .running → (t.csv l).state = .running ∧ (t.csv l).timers.fault = some 1000) := by
  refine ⟨fun clears => ?_, fun calling phase => ?_, fun running => ?_⟩
  · have starts : reportSpace s l = startClear s l := by
      rcases clears with h | ⟨h, phase⟩
      · simp only [List.mem_cons, List.not_mem_nil, or_false] at h
        obtain h | h | h := h <;> rw [reportSpace, h]
      · rw [reportSpace, h]
        exact if_pos phase
    rw [starts, startClear, State.onTimers_csv_same]
  · rw [reportSpace, calling]
    exact if_neg (by rw [phase]; nofun)
  · rw [reportSpace, running, State.onTimers_csv_same]
    exact ⟨running, rfl⟩

theorem reportSpace_consumed (s : State) (l : LineId) : Consumed l s (reportSpace s l) false := by
  unfold reportSpace
  split
  case h_1 => exact .onCsv ..
  case h_7 => exact .ite (fun _ => .onTimers ..) fun _ => .refl ..
  case h_8 => exact (connectionEnd_consumed ..).trans (enterGuard_consumed ..)
  case h_11 | h_12 | h_13 => exact .refl ..
  all_goals exact .onTimers ..

theorem stopSample_holds (row : settleLine (reportSpace (broken s l) l) l = t) (other : (s.csv l).state ≠ .clearing) :
    (t.unit l).rx.sub = .spaceHeld 0 := by
  have settled := settleLine_settled (reportSpace (broken s l) l) l
  have state : ((broken s l).csv l).state ≠ .clearing := by rwa [broken_csv]
  have unit : (reportSpace (broken s l) l).unit l = (broken s l).unit l := by
    rw [reportSpace_only state]
    rfl
  rw [row] at settled
  rw [settled.kept.unit, unit, broken_unit]

/-- The remote's space confirms the clear, and the line enters GUARD (R109, R110). -/
theorem reportSpace_confirms (clearing : (s.csv l).state = .clearing) :
    ((settleLine (reportSpace s l) l).csv l).state = .guard := by
  have confirms : reportSpace s l = enterGuard (connectionEnd s l) l := by
    rw [reportSpace, clearing]
    rfl
  obtain ⟨-, -, placed, -⟩ := connectionEnd_line s l
  obtain ⟨selector, -, -, csv, -⟩ := enterGuard_line (connectionEnd s l) l
  obtain ⟨-, kept⟩ := (settleLine_settled (reportSpace s l) l).kept.csv l (by
    rw [confirms, NothingPlaced, selector]
    exact placed)
  rw [kept, confirms, csv]

theorem stopSample_spaces (row : settleLine (reportSpace (broken s l) l) l = t) :
    Taken l (broken s l) t ∧ t.ctr = s.ctr ∧
    ((s.csv l).state ∈ [.connected, .selecting, .awaitConnect] ∨
        ((s.csv l).state = .calling ∧ (s.csv l).phase = .proceedWait) → (t.unit l).rx.sub = .spaceHeld 0 ∧
      (t.csv l).timers.clearRecognize = some (s.csv l).values.clearRecognizeMs) ∧
    ((s.csv l).state = .calling → (s.csv l).phase = .confirmWait → (t.unit l).rx.sub = .spaceHeld 0 ∧
      (t.csv l).timers = (s.csv l).timers) ∧
    ((s.csv l).state = .running → (t.unit l).rx.sub = .spaceHeld 0 ∧ (t.csv l).timers.fault = some 1000) ∧
    ((s.csv l).state = .clearing → (t.csv l).state = .guard) := by
  have settled := settleLine_settled (reportSpace (broken s l) l) l
  have timers := settleLine_timers (reportSpace (broken s l) l) l
  have consumed := reportSpace_consumed (broken s l) l
  obtain ⟨clears, waits, runs⟩ := reportSpace_framing (broken s l) l
  have guards := reportSpace_confirms (s := broken s l) (l := l)
  have csv := broken_csv s l
  rw [row] at settled timers guards
  rw [csv] at clears waits runs guards
  refine ⟨consumed.any.settled settled, settled.kept.ctr.trans (consumed.still rfl), fun h => ⟨?_, ?_⟩,
    fun calling phase => ⟨?_, ?_⟩, fun running => ⟨?_, ?_⟩, guards⟩
  · exact stopSample_holds row fun e => by simp [e] at h
  · rw [timers.clear, clears h]
  · exact stopSample_holds row fun e => by rw [e] at calling; cases calling
  · have same := waits calling phase
    rw [same, csv] at timers
    exact (timers.calling calling phase).2.2
  · exact stopSample_holds row fun e => by rw [e] at running; cases running
  · obtain ⟨still, starts⟩ := runs running
    rw [(timers.running still).2, starts]

end Sys2Proof.Machine
end

section
/-! PROOF. The first part of the stop sample's statement: what the row does whoever takes the character (R42). -/

namespace Sys2Proof.Machine

open Sys2Proof

variable {s t : State} {l : LineId} {f : Frame} {c : Comb} {good : Bool}

/-- What the row does to the line's unit, whichever way the frame ends. -/
structure FrameEnded (l : LineId) (s t : State) : Prop where
  cfg : (t.unit l).cfg = (s.unit l).cfg
  acc : (t.unit l).acc = (s.unit l).acc
  sends : (t.unit l).tx.state = (s.unit l).tx.state
  tbu : t.tbu = s.tbu
  identity : t.identity = s.identity
  table : t.ctr.table = s.ctr.table
  tx : t.ctr.tx = s.ctr.tx
  falseStart : (t.unit l).stats.falseStart = (s.unit l).stats.falseStart

theorem frameEnded_counts (a : Taken l (frameTaken s l f.peak !good) t) :
    FrameEnded l s t := by
  have unit := frameTaken_unit s l f.peak !good
  obtain ⟨-, ctr, -⟩ := frameTaken_line s l f.peak !good
  have only := frameTaken_only s l f.peak !good
  exact {
    cfg := by rw [a.cfg, unit]
    acc := by rw [a.acc, unit]
    sends := by rw [a.sends, unit]
    tbu := a.tbu.trans only.tbu
    identity := a.identity.trans only.identity
    table := by rw [a.ctr, ctr]
    tx := by rw [a.ctr, ctr]
    falseStart := by rw [a.stats, unit]; rfl }

theorem frameEnded_spaces (a : Taken l (broken s l) t) : FrameEnded l s t := by
  have unit := broken_unit s l
  exact {
    cfg := by rw [a.cfg, unit]
    acc := by rw [a.acc, unit]
    sends := by rw [a.sends, unit]
    tbu := a.tbu
    identity := a.identity
    table := by rw [a.ctr]; rfl
    tx := by rw [a.ctr]; rfl
    falseStart := by rw [a.stats, unit] }

/-- The figures of a counted character (R42, R45 to R47). -/
theorem taken_figures (a : Taken l (frameTaken s l f.peak !good) t) (stop : good = true ↔ (s.unit l).rx.last = .mark) :
    let x := (s.unit l).stats
    let y := (t.unit l).stats
    let alarm := (s.unit l).cfg.alarmThreshold ≤ f.peak
    y.chars = min (x.chars + 1) 65535 ∧
    y.framing = (if (s.unit l).rx.last = .space then min (x.framing + 1) 65535 else x.framing) ∧
    y.breaks = x.breaks ∧ y.lastPeak = f.peak ∧ y.runPeak = max x.runPeak f.peak ∧
    y.alarmCount = (if alarm then min (x.alarmCount + 1) 65535 else x.alarmCount) ∧
    (y.armed = true ↔ x.armed = true ∧ ¬ alarm) ∧
    (alarm → x.armed = true → Latched t (alarmEvent l)) ∧ (t.unit l).rx.age = 0 := by
  have unit := frameTaken_unit s l f.peak !good
  dsimp only
  rw [a.stats, a.age, unit]
  refine ⟨rfl, ?_, rfl, rfl, rfl, ?_, ?_, fun loud armed => a.latched _ (frameTaken_rings s l _ loud armed), rfl⟩
  · cases last : (s.unit l).rx.last with
    | mark =>
      rw [stop.mpr last]
      rfl
    | space =>
      have errored : good = false := by
        rw [Bool.eq_false_iff, ne_eq, stop, last]
        nofun
      rw [errored]
      rfl
  · simp [LineStats.oneMore, bump, Config.counterMax]
  · simp [LineStats.oneMore]

theorem stopSample_frame (l : LineId) (f : Frame) (s : State) (mode : (s.unit l).rx.mode = .framing)
    (sub : (s.unit l).rx.sub = .character f) :
    ((f.pos < 416 ∨ f.started = false) → exec (.stopSample l) s = .next s) ∧
    (416 ≤ f.pos → f.started = true → f.samples.length = 15 → ∃ t c, exec (.stopSample l) s = .next t ∧
      c = combOf f.samples ∧
      (∀ k < 5, c.getLsbD k = true ↔ 2 ≤ ((f.samples.drop (3 * k)).take 3).countP fun x => decide (x = .mark)) ∧
      (t.unit l).cfg = (s.unit l).cfg ∧ (t.unit l).acc = (s.unit l).acc ∧ (t.unit l).tx.state = (s.unit l).tx.state ∧
      t.tbu = s.tbu ∧ t.identity = s.identity ∧ t.ctr.table = s.ctr.table ∧ t.ctr.tx = s.ctr.tx ∧
      (t.unit l).stats.falseStart = (s.unit l).stats.falseStart ∧
      let x := (s.unit l).stats
      let y := (t.unit l).stats
      let alarm := (s.unit l).cfg.alarmThreshold ≤ f.peak
      ((s.unit l).rx.last = .mark ∨ c ≠ (0 : Comb) →
        y.chars = min (x.chars + 1) 65535 ∧
        y.framing = (if (s.unit l).rx.last = .space then min (x.framing + 1) 65535 else x.framing) ∧
        y.breaks = x.breaks ∧ y.lastPeak = f.peak ∧ y.runPeak = max x.runPeak f.peak ∧
        y.alarmCount = (if alarm then min (x.alarmCount + 1) 65535 else x.alarmCount) ∧
        (y.armed = true ↔ x.armed = true ∧ ¬ alarm) ∧
        (alarm → x.armed = true → Latched t (alarmEvent l)) ∧ (t.unit l).rx.age = 0 ∧
        ((s.csv l).exch.sub.isPaging = false →
          ((s.unit l).rx.last = .space → t.ctr = s.ctr) ∧
          ((s.unit l).rx.last = .mark →
            ((readComb s.ctr.table (s.ctr.rx.get l) c).kind = .ltrs → t.ctr.rx.get l = .held .letters) ∧
            ((readComb s.ctr.table (s.ctr.rx.get l) c).kind = .figs → t.ctr.rx.get l = .held .figures)))) ∧
      ((s.unit l).rx.last = .space → c = (0 : Comb) →
        y.chars = x.chars ∧ y.framing = x.framing ∧ y.breaks = min (x.breaks + 1) 65535 ∧ y.lastPeak = x.lastPeak ∧
        t.ctr = s.ctr ∧ (t.unit l).rx.age = (s.unit l).rx.age ∧
        ((s.csv l).state ∈ [.connected, .selecting, .awaitConnect] ∨
            ((s.csv l).state = .calling ∧ (s.csv l).phase = .proceedWait) → (t.unit l).rx.sub = .spaceHeld 0 ∧
          (t.csv l).timers.clearRecognize = some (s.csv l).values.clearRecognizeMs) ∧
        ((s.csv l).state = .calling → (s.csv l).phase = .confirmWait → (t.unit l).rx.sub = .spaceHeld 0 ∧
          (t.csv l).timers = (s.csv l).timers) ∧
        ((s.csv l).state = .running → (t.unit l).rx.sub = .spaceHeld 0 ∧ (t.csv l).timers.fault = some 1000) ∧
        ((s.csv l).state = .clearing → (t.csv l).state = .guard))) := by
  refine ⟨fun h => congrArg Host.Outcome.next (stopSample_waits mode sub h), fun due started _ =>
    ⟨stopSample l s, combOf f.samples, rfl, rfl, fun k h => ?_, ?_⟩⟩
  · rw [combOf_getLsbD _ h]
    exact decide_eq_true_iff
  by_cases held : (s.unit l).rx.last = .mark ∨ combOf f.samples ≠ 0
  · have arrives : CharacterIn s l f (combOf f.samples) (decide ((s.unit l).rx.last = .mark)) :=
      ⟨mode, sub, due, started, rfl, decide_eq_true_iff, held.imp_left decide_eq_true⟩
    obtain ⟨taken, shift⟩ := stopSample_counts arrives rfl
    have ended := frameEnded_counts taken
    obtain ⟨chars, framing, breaks, lastPeak, runPeak, alarms, armed, rings, age⟩ := taken_figures taken arrives.stop
    exact ⟨ended.cfg, ended.acc, ended.sends, ended.tbu, ended.identity, ended.table, ended.tx, ended.falseStart,
      fun _ => ⟨chars, framing, breaks, lastPeak, runPeak, alarms, armed, rings, age, shift⟩,
      fun space all => absurd all (held.resolve_left (by rw [space]; nofun))⟩
  · obtain ⟨notMark, all⟩ := not_or.mp held
    have all := not_not.mp all
    have space : (s.unit l).rx.last = .space := by
      cases e : (s.unit l).rx.last
      · rfl
      · exact absurd e notMark
    obtain ⟨taken, ctr, clears, waits, runs, guards⟩ :=
      stopSample_spaces (stopSample_breaks mode sub due started space all).symm
    have ended := frameEnded_spaces taken
    have stats : ((stopSample l s).unit l).stats = _ := taken.stats
    rw [broken_unit] at stats
    refine ⟨ended.cfg, ended.acc, ended.sends, ended.tbu, ended.identity, ended.table, ended.tx, ended.falseStart,
      fun h => absurd h held, fun _ _ => ⟨?_, ?_, ?_, ?_, ctr, ?_, clears, waits, runs, guards⟩⟩
    · rw [stats]
    · rw [stats]
    · rw [stats]
      rfl
    · rw [stats]
    · rw [taken.age, broken_unit]

end Sys2Proof.Machine
end

section
/-! PROOF. The state in which a character has left the receiver, for its consumer (R13, R41 to R47, R106, R124). -/

namespace Sys2Proof.Machine

open Sys2Proof

variable {s : State} {l : LineId} {f : Frame} {c : Comb} {good : Bool}

theorem huntOrBlank_true (s : State) (l : LineId) : huntOrBlank s l true =
    if halfDuplex s l = true ∧ (s.unit l).tx.state ≠ .idle then .blanked else .hunting true false := by
  simp [huntOrBlank]

/-- What is as it was: all but the line units, the supervisors, the shift records and the latches. -/
def FrameOnly (s d : State) : Prop :=
  d = { s with lu := d.lu, sup := d.sup, ctr := d.ctr, cpe := { s.cpe with latches := d.cpe.latches } }

theorem countChar_frameOnly (s : State) (l : LineId) (peak : Nat) (errored : Bool) :
    FrameOnly s (countChar s l peak errored) := by
  rw [countChar_eq, FrameOnly]
  dsimp only
  split <;> rfl

theorem frameTaken_frameOnly (s : State) (l : LineId) (peak : Nat) (errored : Bool) :
    FrameOnly s (frameTaken s l peak errored) := by
  have counted := countChar_frameOnly (rehunting s l) l peak errored
  rw [FrameOnly] at counted
  rw [FrameOnly, frameTaken_counted, counted]
  rfl

theorem delivered_frameOnly (s : State) (l : LineId) (f : Frame) (c : Comb) (good : Bool) :
    FrameOnly s (delivered s l f c good) := by
  have taken := frameTaken_frameOnly s l f.peak !good
  unfold delivered received endBlankRun
  dsimp only
  rw [FrameOnly] at taken ⊢
  split
  all_goals
    rw [taken]
    rfl

theorem delivered_unit (s : State) (l : LineId) (f : Frame) (c : Comb) (good : Bool) (k : LineId) :
    (delivered s l f c good).unit k = (frameTaken s l f.peak !good).unit k := by
  unfold delivered
  dsimp only
  split <;> rfl

theorem setRxShift_otherLineKept (s : State) (l : LineId) (r : ShiftRecord) : OtherLineKept s (s.setRxShift l r) l :=
  fun _ n => ⟨rfl, rfl, rfl, rfl, rfl, Pair.get_set_ne _ _ n, rfl⟩

theorem delivered_otherLineKept (s : State) (l : LineId) (f : Frame) (c : Comb) (good : Bool) :
    OtherLineKept s (delivered s l f c good) l := by
  have taken : LineOnly l s (endBlankRun (received s l f good) l) :=
    .trans (.trans (frameTaken_only ..) (.onExch ..)) (.onExch ..)
  unfold delivered
  dsimp only
  split
  · exact taken.otherLineKept.trans (setRxShift_otherLineKept _ l _)
  · exact taken.otherLineKept

theorem delivered_left (s : State) (l : LineId) (f : Frame) (c : Comb) (good : Bool) :
    let d := delivered s l f c good
    (d.unit l).cfg = (s.unit l).cfg ∧ (d.unit l).tx = (s.unit l).tx ∧
    (d.unit l).rx = { (s.unit l).rx with
      age := 0, sub := if halfDuplex s l = true ∧ (s.unit l).tx.state ≠ .idle then .blanked else .hunting true false } ∧
    d.csv l = { s.csv l with
      exch := { (s.csv l).exch with blankRun := 0, together := false }
      timers := { (s.csv l).timers with idle :=
        if (s.csv l).state ≠ .connected then (s.csv l).timers.idle
        else if (s.csv l).values.idleTimeoutS = 0 then none else some (1000 * (s.csv l).values.idleTimeoutS) } } := by
  obtain ⟨csv, -, rx⟩ := delivered_line s l f c good
  have unit := (delivered_unit s l f c good l).trans (frameTaken_unit s l f.peak !good)
  dsimp only
  rw [rx, huntOrBlank_true, csv, unit]
  refine ⟨rfl, rfl, rfl, ?_⟩
  rw [Supervisor.idleRestarted, ite_not]

end Sys2Proof.Machine
end

section
/-! SUPPORT. The store and the framer do not look at the code translator: they do alike whatever the shift records hold. -/

namespace Sys2Proof.Machine

open Sys2Proof

/-- The state with another code translator. -/
def State.withCtr (s : State) (c : Translator) : State := { s with ctr := c }

variable (s : State) (c : Translator) (w : Writer) (l : LineId) (i : Nat) (x : RxChar)

theorem State.withCtr_record : (s.withCtr c).record i = s.record i := rfl
theorem State.withCtr_stm : (s.withCtr c).stm = s.stm := rfl

/-! ## Records and queues -/

theorem onRecord_withCtr (f : Rec → Rec) : (s.withCtr c).onRecord i f = (s.onRecord i f).withCtr c := by
  unfold State.onRecord
  rw [State.withCtr_record]
  split <;> rfl

theorem evalLow_withCtr : evalLow (s.withCtr c) = (evalLow s).withCtr c := by
  unfold evalLow
  rw [State.withCtr_stm]
  dsimp only
  split <;> rfl

theorem enqueue_withCtr (d : Deliv) : enqueue (s.withCtr c) d i = (enqueue s d i).withCtr c := by
  unfold enqueue
  rw [State.withCtr_record]
  split
  · rfl
  · split <;> rfl

theorem joining_withCtr (b : Bool) (d : Deliv) : (if b then enqueue (s.withCtr c) d i else s.withCtr c) =
    (if b then enqueue s d i else s).withCtr c := by
  split
  · exact enqueue_withCtr ..
  · rfl

theorem enqueueAtOpen_withCtr (spec : OpenSpec) :
    enqueueAtOpen (s.withCtr c) i spec = (enqueueAtOpen s i spec).withCtr c := by
  unfold enqueueAtOpen
  dsimp only
  rw [joining_withCtr, joining_withCtr, joining_withCtr, joining_withCtr]

theorem settleSequence_withCtr : settleSequence (s.withCtr c) = (settleSequence s).withCtr c := by
  unfold settleSequence
  rw [State.withCtr_stm]
  split <;> rfl

theorem unreservedRose_withCtr : unreservedRose (s.withCtr c) = (unreservedRose s).withCtr c :=
  evalLow_withCtr { s with kbs := { s.kbs with storeFull := false } } c

theorem releaseRecord_withCtr : releaseRecord (s.withCtr c) i = (releaseRecord s i).withCtr c := by
  unfold releaseRecord
  rw [State.withCtr_record]
  split
  · rfl
  · next r _ =>
    have sequence := settleSequence_withCtr ((s.setRecord i none).withFree (s.stm.free ++ r.chain)) c
    refine Eq.trans (congrArg unreservedRose sequence) ?_
    exact unreservedRose_withCtr _ c

theorem releaseIfDone_withCtr : releaseIfDone (s.withCtr c) i = (releaseIfDone s i).withCtr c := by
  unfold releaseIfDone
  rw [State.withCtr_record]
  split
  · rfl
  · split
    · rfl
    · split
      · split
        · rfl
        · exact releaseRecord_withCtr ..
      · rfl
    · split
      · rfl
      · exact releaseRecord_withCtr ..

theorem latching_withCtr (b : Bool) (e : Event) : (if b then (s.withCtr c).latch e else s.withCtr c) =
    (if b then s.latch e else s).withCtr c := by
  split <;> rfl

theorem closeRecord_withCtr (e : Bool) : closeRecord (s.withCtr c) i e = (closeRecord s i e).withCtr c := by
  unfold closeRecord
  rw [State.withCtr_record]
  split
  · rfl
  · next r _ =>
    split
    · rfl
    · rfl
    · have a : unlink ((s.withCtr c).setRecord i (some { r with state := .closed })) i =
        (unlink (s.setRecord i (some { r with state := .closed })) i).withCtr c := rfl
      dsimp only
      rw [a, joining_withCtr, joining_withCtr, latching_withCtr, latching_withCtr, releaseIfDone_withCtr]

/-! ## The line's writer -/

theorem takeBlock_withCtr : takeBlock (s.withCtr c) w = (takeBlock s w).map fun t => (t.1, t.2.withCtr c) := by
  have low (free : List Nat) := evalLow_withCtr (s.withFree free) c
  unfold takeBlock
  rw [State.withCtr_stm]
  split
  · rfl
  · next b rest _ =>
    have drawn (p : Prop) [Decidable p] : (if p then some (b, evalLow ((s.withCtr c).withFree rest)) else none) =
        (if p then some (b, evalLow (s.withFree rest)) else none).map fun t => (t.1, t.2.withCtr c) := by
      split
      · exact congrArg (fun t => some (b, t)) (low rest)
      · rfl
    split
    · split
      · rfl
      · exact drawn _
    · exact drawn _
    · exact drawn _

theorem openRecord_withCtr (spec : OpenSpec) :
    openRecord (s.withCtr c) w spec = (openRecord s w spec).map fun t => (t.1, t.2.withCtr c) := by
  have index : freeIndex (s.withCtr c) = freeIndex s := rfl
  unfold openRecord
  rw [index, takeBlock_withCtr]
  split
  · rfl
  · cases takeBlock s w with
    | none => rfl
    | some t =>
      refine congrArg (fun t => some (_, t)) (Eq.trans ?_ (enqueueAtOpen_withCtr ..))
      cases w <;> rfl

theorem splitRecord_withCtr : splitRecord (s.withCtr c) w i = (splitRecord s w i).withCtr c := by
  unfold splitRecord
  rw [State.withCtr_record]
  split
  · rfl
  · next r _ =>
    have a : (s.withCtr c).setRecord i (some { r with flags := { r.flags with split := true } }) =
      (s.setRecord i (some { r with flags := { r.flags with split := true } })).withCtr c := rfl
    rw [a, closeRecord_withCtr]
    cases w <;> rfl

theorem appendRaw_withCtr (y : Chr) (e : Bool) :
    appendRaw (s.withCtr c) w i y e = (appendRaw s w i y e).map fun t => t.withCtr c := by
  unfold appendRaw
  rw [State.withCtr_record, takeBlock_withCtr]
  split
  · rfl
  · next r _ =>
    by_cases full : 0 < r.length ∧ r.length % 32 = 0
    · simp only [if_pos full]
      cases takeBlock s w <;> rfl
    · simp only [if_neg full]
      rfl

theorem appendAndSplit_withCtr (y : Chr) (e : Bool) :
    appendAndSplit (s.withCtr c) w i y e = (appendAndSplit s w i y e).map fun t => t.withCtr c := by
  unfold appendAndSplit
  rw [appendRaw_withCtr]
  cases appendRaw s w i y e with
  | none => rfl
  | some t =>
    have limit : atLimit (t.withCtr c) i = atLimit t i := rfl
    dsimp only [Option.map_some]
    rw [limit]
    split
    · rw [splitRecord_withCtr]
    · rfl

theorem offerChar_withCtr (fresh : OpenSpec) (y : Chr) (e : Bool) : offerChar (s.withCtr c) w fresh y e =
    { offerChar s w fresh y e with st := (offerChar s w fresh y e).st.withCtr c } := by
  have linked : writerLink (s.withCtr c) w = writerLink s w := by cases w <;> rfl
  have owed : owedTo (s.withCtr c) w = owedTo s w := by cases w <;> rfl
  have limit (k : Nat) : atLimit (s.withCtr c) k = atLimit s k := rfl
  unfold offerChar
  cases link : writerLink s w with
  | none =>
    simp only [linked, link, owed, openRecord_withCtr]
    cases openRecord s w ((owedTo s w).getD fresh) with
    | none => rfl
    | some o =>
      dsimp only [Option.map_some]
      rw [appendAndSplit_withCtr]
      cases appendAndSplit o.2 w o.1 y e <;> rfl
  | some k =>
    have split' : (if atLimit s k then (splitRecord s w k).withCtr c else s.withCtr c) =
      (if atLimit s k then splitRecord s w k else s).withCtr c := by split <;> rfl
    simp only [linked, link, limit, splitRecord_withCtr, split']
    generalize (if atLimit s k then splitRecord s w k else s) = t
    have linked : writerLink (t.withCtr c) w = writerLink t w := by cases w <;> rfl
    have owed : owedTo (t.withCtr c) w = owedTo t w := by cases w <;> rfl
    rw [linked, owed]
    cases writerLink t w with
    | some k =>
      dsimp only
      rw [appendAndSplit_withCtr]
      cases appendAndSplit t w k y e <;> rfl
    | none =>
      dsimp only
      rw [openRecord_withCtr]
      cases openRecord t w ((owedTo t w).getD fresh) with
      | none => rfl
      | some o =>
        dsimp only [Option.map_some]
        rw [appendAndSplit_withCtr]
        cases appendAndSplit o.2 w o.1 y e <;> rfl

theorem beginEpisode_withCtr (counted : Bool) :
    beginEpisode (s.withCtr c) l counted = (beginEpisode s l counted).withCtr c := by
  unfold beginEpisode
  dsimp only [State.withCtr]
  split
  · refine Eq.trans (congrArg (State.latch · .storeFull) (onRecord_withCtr
      { s with stm := { s.stm with
        episode := s.stm.episode.set l true
        discarded := s.stm.discarded.set l (if counted then bump (s.stm.discarded.get l) else s.stm.discarded.get l) } }
      c _ _)) ?_
    rfl
  · rfl

theorem lineSpec_withCtr : lineSpec (s.withCtr c) l = lineSpec s l := rfl

theorem openLineRecord_withCtr : openLineRecord (s.withCtr c) l = (openLineRecord s l).withCtr c := by
  unfold openLineRecord
  rw [lineSpec_withCtr, openRecord_withCtr]
  cases openRecord s (.line l) (lineSpec s l) with
  | none => exact beginEpisode_withCtr ..
  | some o => rfl

theorem storeLineChar_withCtr : storeLineChar (s.withCtr c) l x = (storeLineChar s l x).withCtr c := by
  unfold storeLineChar
  rw [State.withCtr_stm, lineSpec_withCtr, offerChar_withCtr]
  split
  · rfl
  · dsimp only
    split
    · rfl
    · exact beginEpisode_withCtr ..

theorem storeLineChars_withCtr (xs : List RxChar) :
    storeLineChars (s.withCtr c) l xs = (storeLineChars s l xs).withCtr c := by
  induction xs generalizing s with
  | nil => rfl
  | cons x xs ih => rw [storeLineChars_cons, storeLineChars_cons, storeLineChar_withCtr, ih]

theorem closeLineMessage_withCtr : closeLineMessage (s.withCtr c) l = (closeLineMessage s l).withCtr c := by
  unfold closeLineMessage
  rw [State.withCtr_stm]
  split
  · rw [closeRecord_withCtr]
    rfl
  · rfl

/-! ## The framer -/

theorem stageEffect_withCtr (held : List RxChar) (st : HeadStage) :
    stageEffect (s.withCtr c) l held st = (stageEffect s l held st).withCtr c := by
  unfold stageEffect
  rw [State.withCtr_stm]
  split
  · rfl
  all_goals
    split
    · exact onRecord_withCtr ..
    · rfl

theorem framerChar_withCtr : framerChar (s.withCtr c) l x =
    ((framerChar s l x).1.withCtr c, (framerChar s l x).2) := by
  have framer : (s.withCtr c).framerOf l = s.framerOf l := rfl
  have text : (s.withCtr c).framingOf l = s.framingOf l := rfl
  have applies (st : HeadStage) : stageApplies (s.withCtr c) l st = stageApplies s l st := by cases st <;> rfl
  have matched (held : List RxChar) (st : HeadStage) : matchStage (s.withCtr c) l held st = matchStage s l held st := by
    cases st <;> rfl
  unfold framerChar
  dsimp only
  rw [framer, text, openLineRecord_withCtr, closeLineMessage_withCtr]
  split
  · rfl
  · rfl
  · next st rest _ =>
    rw [applies, matched, stageEffect_withCtr]
    split
    · rfl
    · split <;> rfl
  · split
    · rfl
    · rfl
    · exact congrArg (·, []) (storeLineChars_withCtr (s.onFramer l fun f =>
        { f with held := (releaseFront (s.framingOf l).eom ((s.framerOf l).held ++ [x])).2 }) c l _)

theorem framerRun_withCtr (n : Nat) (xs : List RxChar) : framerRun n (s.withCtr c) l xs =
    ((framerRun n s l xs).1.withCtr c, (framerRun n s l xs).2) := by
  induction n generalizing s xs with
  | zero => rfl
  | succ n ih =>
    cases xs with
    | nil => rfl
    | cons x xs =>
      unfold framerRun
      rw [framerChar_withCtr]
      dsimp only
      rw [ih]
      rfl

end Sys2Proof.Machine
end

section
/-! SUPPORT. A line whose framer takes its characters: what the stop sample does is what the framer does (R82, R115). -/

namespace Sys2Proof.Machine

open Sys2Proof

variable {s t u : State} {l : LineId} {f : Frame} {c : Comb} {good : Bool} {x : RxChar}

/-- A line that enters CLEARING with its receiver at mark waits there for the clear to be confirmed (R109). -/
theorem enterClearing_mark (mark : (s.unit l).rx.meetsSpace = false) (why : ClearReason) :
    enterClearing s l why = clearingBegun s l why := by
  have space : ((clearingBegun s l why).unit l).rx.inSpace = false := by
    rw [(clearingBegun_line ..).2.2.2.2, Receiver.frame_inSpace, mark]
  rw [enterClearing_eq, space]
  rfl

theorem clearOnFull_withCtr (mark : (s.unit l).rx.meetsSpace = false) (c : Translator) :
    clearOnFull (s.withCtr c) l = (clearOnFull s l).withCtr c := by
  unfold clearOnFull
  rw [enterClearing_mark mark, enterClearing_mark (s := s.withCtr c) mark]
  have cond : ((s.withCtr c).stm.cfg.clearOnFull && decide (((s.withCtr c).csv l).state = .connected)) =
    (s.stm.cfg.clearOnFull && decide ((s.csv l).state = .connected)) := rfl
  rw [cond]
  split <;> rfl

theorem framerTake_withCtr (mark : (s.unit l).rx.meetsSpace = false) (c : Translator) :
    framerTake (s.withCtr c) l x = (framerTake s l x).withCtr c := by
  have run : StoreStep s (framerRun framerFuel s l [x]).1 := framerRun_step ..
  have mark' : ((framerRun framerFuel s l [x]).1.unit l).rx.meetsSpace = false := by rwa [run.unit]
  have gap (t : State) : restartGap (t.withCtr c) l = (restartGap t l).withCtr c := rfl
  unfold framerTake
  rw [framerRun_withCtr]
  dsimp only
  rw [clearOnFull_withCtr mark', ← gap]
  split <;> rfl

/-- The supervisor leaves the line's characters to its framer. -/
def Supervisor.Passes (v : Supervisor) : Prop :=
  v.state = .running ∨ (v.state = .connected ∧ v.phase ≠ .capturing) ∨ (v.state = .clearing ∧ v.phase ≠ .captureFull)

theorem deliver_passes (passes : (s.csv l).Passes) : deliver s l x = framerTake s l x := by
  rcases passes with h | ⟨h, k⟩ | ⟨h, k⟩
  · simp only [deliver, h]
  · simp only [deliver, h, if_neg k]
  · simp only [deliver, h, if_neg k]

theorem unshifted_framer (mark : (s.unit l).rx.meetsSpace = false) (passes : (s.csv l).Passes) : Unshifted s l x where
  commutes r := by
    have still : (framerTake s l x).ctr = s.ctr := (framerTake_consumed (shifts := false) s l x).still rfl
    have shifted : (framerTake s l x).setRxShift l r = (framerTake s l x).withCtr { s.ctr with rx := s.ctr.rx.set l r } := by
      rw [State.setRxShift, still]
      rfl
    rw [deliver_passes passes, deliver_passes (s := s.setRxShift l r) passes, shifted]
    exact framerTake_withCtr (x := x) mark { s.ctr with rx := s.ctr.rx.set l r }
  cfg := by
    rw [deliver_passes passes]
    exact (framerTake_consumed (shifts := false) s l x).cfg

/-- The stop sample of a line whose framer listens is the framer's taking of the character. -/
theorem stopSample_framer (h : CharacterIn s l f c good) (del : Delivers s l c good x) (listens : FramerListens s l) :
    Does (.stopSample l) (oneLine l) s (framerTake (delivered s l f c good) l x) := by
  obtain ⟨idle, passes⟩ := listens
  obtain ⟨state, phase, -⟩ := delivered_fields s l f c good
  have there : ((delivered s l f c good).csv l).Passes := by rwa [Supervisor.Passes, state, phase]
  rw [← deliver_passes there]
  exact does_delivers h idle del (unshifted_framer (ended_mark h) (by rwa [delivered_csv s l f c good]))

end Sys2Proof.Machine
end

section
/-! SUPPORT. What the framer matches, and what it releases (R83 to R85). -/

namespace Sys2Proof.Machine

open Sys2Proof

variable {eom pattern : List Chr} {xs : List RxChar} {x : RxChar}

/-- No character of a sequence is errored. -/
def Clean (xs : List RxChar) : Prop := ∀ y ∈ xs, y.errored = false

theorem any_errored (xs : List RxChar) : xs.any (·.errored) = true ↔ ¬ Clean xs := by
  simp [Clean]

/-- A well-framed sequence that begins a pattern, or is the whole of it. -/
def Fits (pattern : List Chr) (xs : List RxChar) : Prop :=
  Clean xs ∧ (xs.map (·.chr)).isPrefixOf pattern = true

theorem isPrefixOf_self (cs : List Chr) : cs.isPrefixOf cs = true :=
  List.isPrefixOf_iff_prefix.mpr (List.prefix_refl cs)

theorem matchText_succeeds (clean : Clean xs) (whole : xs.map (·.chr) = pattern) : matchText pattern xs = .success := by
  rw [matchText, if_neg (by rw [any_errored]; exact not_not.mpr clean), if_pos whole]

theorem matchText_holds (clean : Clean xs) (part : xs.map (·.chr) ≠ pattern)
    (begins : (xs.map (·.chr)).isPrefixOf pattern = true) : matchText pattern xs = .hold := by
  rw [matchText, if_neg (by rw [any_errored]; exact not_not.mpr clean), if_neg part, if_pos begins]

theorem matchText_fails (misfit : ¬ Fits pattern xs) : matchText pattern xs = .fail := by
  unfold matchText
  by_cases clean : Clean xs
  · have other : ¬ (xs.map (·.chr)).isPrefixOf pattern = true := fun h => misfit ⟨clean, h⟩
    have whole : xs.map (·.chr) ≠ pattern := fun h => other (h ▸ isPrefixOf_self _)
    rw [if_neg (by rw [any_errored]; exact not_not.mpr clean), if_neg whole, if_neg other]
  · rw [if_pos ((any_errored xs).mpr clean)]

theorem fits_nil (pattern : List Chr) : Fits pattern [] := ⟨nofun, by cases pattern <;> rfl⟩

/-- A character that does not begin a pattern, or is errored, does not fit it. -/
theorem not_fits_one (h : pattern.head? ≠ some x.chr ∨ x.errored = true) : ¬ Fits pattern [x] := by
  rintro ⟨clean, begins⟩
  rcases h with other | errored
  · cases pattern with
    | nil => cases begins
    | cons p ps =>
      simp only [List.map_cons, List.map_nil, List.isPrefixOf, Bool.and_true, beq_iff_eq] at begins
      exact other (congrArg some begins.symm)
  · rw [clean x (List.mem_singleton_self x)] at errored
    cases errored

/-- A well-framed character that begins a pattern of two or more is held. -/
theorem matchText_begins (clean : x.errored = false) (first : pattern.head? = some x.chr) (two : 2 ≤ pattern.length) :
    matchText pattern [x] = .hold := by
  refine matchText_holds (fun y mem => List.mem_singleton.mp mem ▸ clean) (fun whole => ?_) ?_
  · rw [← whole] at two
    exact absurd two (by decide : ¬ 2 ≤ 1)
  · cases pattern with
    | nil => cases first
    | cons p ps =>
      obtain rfl := Option.some.inj first
      simp [List.isPrefixOf]

/-! ## The release from the front (R85) -/

theorem releaseFront_fits (fits : Fits eom xs) : releaseFront eom xs = ([], xs) := by
  cases xs with
  | nil => rfl
  | cons x xs =>
    rw [releaseFront]
    by_cases whole : (x :: xs).map (·.chr) = eom
    · rw [matchText_succeeds fits.1 whole]
    · rw [matchText_holds fits.1 whole fits.2]

theorem releaseFront_misfit (misfit : ¬ Fits eom (x :: xs)) :
    releaseFront eom (x :: xs) = (x :: (releaseFront eom xs).1, (releaseFront eom xs).2) := by
  rw [releaseFront, matchText_fails misfit]

theorem releaseFront_one (misfit : ¬ Fits eom [x]) : releaseFront eom [x] = ([x], []) := by
  rw [releaseFront_misfit misfit, releaseFront_fits (fits_nil eom)]

/-- What is released and what remains are the sequence; what remains fits, and no longer rest does. -/
theorem releaseFront_spec (eom : List Chr) (xs : List RxChar) :
    (releaseFront eom xs).1 ++ (releaseFront eom xs).2 = xs ∧ Fits eom (releaseFront eom xs).2 ∧
      ∀ a b, a ++ b = xs → a.length < (releaseFront eom xs).1.length → ¬ Fits eom b := by
  induction xs with
  | nil => exact ⟨rfl, fits_nil eom, fun _ _ _ short => absurd short (Nat.not_lt_zero _)⟩
  | cons x xs ih =>
    by_cases fits : Fits eom (x :: xs)
    · rw [releaseFront_fits fits]
      exact ⟨rfl, fits, fun _ _ _ short => absurd short (Nat.not_lt_zero _)⟩
    · obtain ⟨whole, rest, shortest⟩ := ih
      rw [releaseFront_misfit fits]
      refine ⟨congrArg (x :: ·) whole, rest, fun a b parts short => ?_⟩
      cases a with
      | nil =>
        rw [List.nil_append] at parts
        rwa [parts]
      | cons a as =>
        exact shortest as b (List.cons.inj parts).2 (Nat.lt_of_succ_lt_succ short)

theorem releaseFront_releases (misfit : ¬ Fits eom xs) : (releaseFront eom xs).1 ≠ [] := by
  cases xs with
  | nil => exact absurd (fits_nil eom) misfit
  | cons x xs =>
    rw [releaseFront_misfit misfit]
    exact List.cons_ne_nil x _

end Sys2Proof.Machine
end

section
/-! SUPPORT. The framer's run over characters, step by step (R82 to R86). -/

namespace Sys2Proof.Machine

open Sys2Proof

variable {s t u : State} {l : LineId} {x : RxChar} {xs held offered : List RxChar} {k n : Nat} {b : Bool}
  {gap : Option Nat} {st : HeadStage} {rest : List HeadStage}

theorem State.setFramer_twice (s : State) (l : LineId) (a b : Framer) :
    (s.setFramer l a).setFramer l b = s.setFramer l b := by cases l <;> rfl

theorem onFramer_at {F : Framer} (at' : s.framerOf l = F) (f : Framer → Framer) : s.onFramer l f = s.setFramer l (f F) := by
  rw [State.onFramer, at']

/-! ## One character (R82 to R85) -/

/-- The phase after a head stage that is over. -/
def afterStage (rest : List HeadStage) : FramerPhase := if rest = [] then .text else .head rest

theorem framerChar_idle (phase : (s.framerOf l).phase = .idle) : framerChar s l x =
    ((openLineRecord s l).onFramer l fun f => { f with phase := .head [.som, .urgent, .number], held := [] }, [x]) := by
  unfold framerChar
  simp only [phase]

theorem framerChar_skips (at' : s.framerOf l = ⟨.head (st :: rest), held, gap⟩) (off : stageApplies s l st = false) :
    framerChar s l x = (s.setFramer l ⟨afterStage rest, held, gap⟩, [x]) := by
  unfold framerChar
  simp only [at', off, onFramer_at at']
  rfl

theorem framerChar_holds (at' : s.framerOf l = ⟨.head (st :: rest), held, gap⟩) (on : stageApplies s l st = true)
    (result : matchStage s l (held ++ [x]) st = .hold) :
    framerChar s l x = (s.setFramer l ⟨.head (st :: rest), held ++ [x], gap⟩, []) := by
  unfold framerChar
  simp only [at', on, result, onFramer_at at']
  rfl

theorem framerChar_succeeds (at' : s.framerOf l = ⟨.head (st :: rest), held, gap⟩) (on : stageApplies s l st = true)
    (result : matchStage s l (held ++ [x]) st = .success) : framerChar s l x =
      ((stageEffect s l (held ++ [x]) st).onFramer l fun f => { f with phase := afterStage rest, held := [] }, []) := by
  unfold framerChar
  simp only [at', on, result]
  rfl

theorem framerChar_fails (at' : s.framerOf l = ⟨.head (st :: rest), held, gap⟩) (on : stageApplies s l st = true)
    (result : matchStage s l (held ++ [x]) st = .fail) :
    framerChar s l x = (s.setFramer l ⟨afterStage rest, [], gap⟩, held ++ [x]) := by
  unfold framerChar
  simp only [at', on, result, onFramer_at at']
  rfl

theorem framerChar_ends (at' : s.framerOf l = ⟨.text, held, gap⟩)
    (result : matchText (s.framingOf l).eom (held ++ [x]) = .success) :
    framerChar s l x = ((closeLineMessage s l).setFramer l .idle, []) := by
  unfold framerChar
  simp only [at', result]

theorem framerChar_keeps (at' : s.framerOf l = ⟨.text, held, gap⟩)
    (result : matchText (s.framingOf l).eom (held ++ [x]) = .hold) :
    framerChar s l x = (s.setFramer l ⟨.text, held ++ [x], gap⟩, []) := by
  unfold framerChar
  simp only [at', result, onFramer_at at']

theorem framerChar_stores (at' : s.framerOf l = ⟨.text, held, gap⟩)
    (misfit : ¬ Fits (s.framingOf l).eom (held ++ [x])) : framerChar s l x =
      (storeLineChars (s.setFramer l ⟨.text, (releaseFront (s.framingOf l).eom (held ++ [x])).2, gap⟩) l
        (releaseFront (s.framingOf l).eom (held ++ [x])).1, []) := by
  unfold framerChar
  simp only [at', matchText_fails misfit, onFramer_at at']

/-! ## A run -/

/-- With fuel of k and any more, the framer works through the characters from s to t; b tells whether an episode began. -/
def Ran (l : LineId) (k : Nat) (s : State) (xs : List RxChar) (t : State) (b : Bool) : Prop :=
  ∀ n, framerRun (n + k) s l xs = (t, b)

theorem Ran.nil (l : LineId) (s : State) : Ran l 0 s [] s false := fun n => by cases n <;> rfl

theorem Ran.cons (char : framerChar s l x = (t, offered)) (rest : Ran l k t (offered ++ xs) u b) :
    Ran l (k + 1) s (x :: xs) u (episodeBegins s t l || b) := fun n => by
  rw [← Nat.add_assoc, framerRun, char]
  dsimp only
  rw [rest n]

/-- A character that the framer is done with. -/
theorem Ran.once (char : framerChar s l x = (t, [])) : Ran l 1 s [x] t (episodeBegins s t l) := by
  have ran := Ran.cons char (xs := []) (Ran.nil l t)
  rwa [Bool.or_false] at ran

/-- A character offered again, no episode having begun. -/
theorem Ran.again (char : framerChar s l x = (t, [x])) (same : t.stm = s.stm) (rest : Ran l k t (x :: xs) u b) :
    Ran l (k + 1) s (x :: xs) u b := by
  have ran := Ran.cons char (xs := xs) rest
  rwa [episodeBegins, same, Bool.not_and_self, Bool.false_or] at ran

theorem framerTake_ran (ran : Ran l k s [x] t b) (fuel : k ≤ 200) :
    framerTake s l x = restartGap (if b then clearOnFull t l else t) l := by
  have run : framerRun framerFuel s l [x] = (t, b) := by
    have := ran (200 - k)
    rwa [Nat.sub_add_cancel fuel] at this
  rw [framerTake, run]

end Sys2Proof.Machine
end

section
/-! SUPPORT. The framer when a character is worked through: its gap timer, and the clear that a discard episode asks for (R60,
R86, R107). -/

namespace Sys2Proof.Machine

open Sys2Proof

variable {s d t u v : State} {l : LineId} {x : RxChar} {held : List RxChar} {k n : Nat} {b : Bool} {p : FramerPhase}
  {F : Framer} {m : Store} {seq : Nat} {latches : BitVec 17}

/-- The state with this store, this arrival sequence and these latches. -/
def State.withStore (s : State) (m : Store) (seq : Nat) (latches : BitVec 17) : State :=
  { s with stm := m, fqm := { s.fqm with seq := seq }, cpe := { s.cpe with latches := latches } }

/-- The state with this framer on the line, this store, this arrival sequence and these latches. -/
def framed (d : State) (l : LineId) (F : Framer) (m : Store) (seq : Nat) (latches : BitVec 17) : State :=
  (d.setFramer l F).withStore m seq latches

theorem framed_framer (d : State) (l : LineId) (F : Framer) (m : Store) (seq : Nat) (latches : BitVec 17) :
    (framed d l F m seq latches).framerOf l = F := Pair.get_set_same ..

theorem framed_only (d : State) (l : LineId) (F : Framer) (m : Store) (seq : Nat)
    (kept : ∀ k, d.cpe.latches.getLsbD k = true → latches.getLsbD k = true) :
    LineOnly l d (framed d l F m seq latches) where
  framer := fun _ n => Pair.get_set_ne _ _ n
  latched := kept

/-- The supervisor and the framings that a gap timer reads are alike. -/
structure SameGap (s d : State) (l : LineId) : Prop where
  state : (d.csv l).state = (s.csv l).state
  fqm : d.fqm = s.fqm

theorem framerAt_congr (same : SameGap s d l) (p : FramerPhase) (held : List RxChar) :
    framerAt d l p held = framerAt s l p held := by
  have framing : d.framingOf l = s.framingOf l := by rw [State.framingOf, same.fqm]; rfl
  rw [framerAt, same.state, framing]
  rfl

theorem restartGap_framed (same : SameGap s d l) (at' : F.phase = p) (held' : F.held = held) :
    restartGap (framed d l F m seq latches) l = framed d l (framerAt s l p held) m seq latches := by
  subst at' held'
  rw [← framerAt_congr same, restartGap, State.onFramer, framed_framer]
  exact State.setFramer_twice (d.withStore m seq latches) l F _

/-- A character worked through with no episode begun: the framer's gap timer restarts. -/
theorem framerTake_settles {gap : Option Nat} (ran : Ran l k d [x] t false) (fuel : k ≤ 200) (same : SameGap s d l)
    (csv : t.csv l = d.csv l) (framing : t.framingOf l = d.framingOf l) (framer : t.framerOf l = ⟨p, held, gap⟩) :
    framerTake d l x = t.setFramer l (framerAt s l p held) := by
  rw [framerTake_ran ran fuel, ← framerAt_congr same, framerAt, ← framing, ← csv, if_neg Bool.false_ne_true, restartGap,
    onFramer_at framer]

/-! ## A discard episode begun (R60, R107) -/

theorem EnteredClearing.setFramer {why : ClearReason} (a : EnteredClearing s u l why)
    (mark : (s.unit l).rx.meetsSpace = false) (F : Framer) : EnteredClearing s (u.setFramer l F) l why :=
  { a with
    guard := by rw [mark]; nofun
    others := a.others.trans (LineOnly.setFramer u F).otherLineKept }

/-- A discard episode has begun in u, the store being m, the framer's phase p and what it holds `held`: a CONNECTED line
that clears on a full store is in CLEARING, and any other is as it was (R60, R107). -/
structure StoreFilled (s d u : State) (l : LineId) (p : FramerPhase) (held : List RxChar) (m : Store) : Prop where
  stm : u.stm = m
  told : Latched u .storeFull
  clears : s.stm.cfg.clearOnFull = true ∧ (s.csv l).state = .connected → EnteredClearing d u l .storeFull
  stays : ¬ (s.stm.cfg.clearOnFull = true ∧ (s.csv l).state = .connected) →
    u = { d.setFramer l (framerAt s l p held) with
      stm := m, cpe := { d.cpe with latches := d.cpe.latches ||| BitVec.twoPow 17 8 } }

theorem latched_or (latches : BitVec 17) {k : Nat} (h : latches.getLsbD k = true) :
    (latches ||| BitVec.twoPow 17 8).getLsbD k = true := by
  rw [BitVec.getLsbD_or, h, Bool.true_or]

/-- That state when an episode has begun: STORE_FULL is latched. -/
def filled (d : State) (l : LineId) (F : Framer) (m : Store) : State :=
  framed d l F m d.fqm.seq (d.cpe.latches ||| BitVec.twoPow 17 8)

theorem filled_told (d : State) (l : LineId) (F : Framer) (m : Store) : Latched (filled d l F m) .storeFull :=
  latch_latched d .storeFull

theorem filled_only (d : State) (l : LineId) (F : Framer) (m : Store) : LineOnly l d (filled d l F m) :=
  framed_only d l F m d.fqm.seq fun _ => latched_or d.cpe.latches

theorem clearOnFull_clears (clears : u.stm.cfg.clearOnFull = true ∧ (u.csv l).state = .connected)
    (mark : (u.unit l).rx.meetsSpace = false) : clearOnFull u l = clearingBegun u l .storeFull := by
  rw [clearOnFull, clears.1, clears.2, ← enterClearing_mark mark]
  rfl

theorem clearOnFull_stays (stays : ¬ (u.stm.cfg.clearOnFull = true ∧ (u.csv l).state = .connected)) :
    clearOnFull u l = u := by
  rw [clearOnFull, if_neg]
  rwa [Bool.and_eq_true, decide_eq_true_eq]

theorem framerTake_fills (ran : Ran l k d [x] (filled d l F m) true) (fuel : k ≤ 200) (same : SameGap s d l)
    (mark : (d.unit l).rx.meetsSpace = false) (at' : F.phase = p) (held' : F.held = held) (cfg : m.cfg = s.stm.cfg)
    (cells : m.cells = d.stm.cells) (reservation : m.reservation = d.stm.reservation) :
    StoreFilled s d (framerTake d l x) l p held m := by
  have cond : (filled d l F m).stm.cfg.clearOnFull = true ∧ ((filled d l F m).csv l).state = .connected ↔
      s.stm.cfg.clearOnFull = true ∧ (s.csv l).state = .connected := by
    rw [← cfg, ← same.state]
    exact .rfl
  rw [framerTake_ran ran fuel, if_pos rfl]
  by_cases clears : s.stm.cfg.clearOnFull = true ∧ (s.csv l).state = .connected
  · have entered := (enterClearing_entered (filled d l F m) l .storeFull).1
    have kept := clearingBegun_only (filled d l F m) l .storeFull
    have stm := (clearingBegun_line (filled d l F m) l .storeFull).1
    rw [enterClearing_mark (s := filled d l F m) mark] at entered
    rw [clearOnFull_clears (u := filled d l F m) (cond.mpr clears) mark]
    exact {
      stm := stm
      told := kept.latched _ (filled_told d l F m)
      clears := fun _ => (entered.after (filled_only d l F m) rfl rfl rfl cells reservation).setFramer mark _
      stays := fun no => absurd clears no }
  · rw [clearOnFull_stays (mt cond.mp clears), filled, restartGap_framed same at' held']
    exact {
      stm := rfl
      told := filled_told ..
      clears := fun yes => absurd yes clears
      stays := fun _ => rfl }

end Sys2Proof.Machine
end

section
/-! SUPPORT. A record opened for a line's writer, and the characters that begin it (R56, R58, R59, R78). -/

namespace Sys2Proof.Machine

open Sys2Proof

variable {e o s t u v : State} {l : LineId} {i j k n b : Nat} {q r : Rec} {more : List Nat} {spec : OpenSpec}
  {xs : List RxChar} {x : RxChar}

/-! ## The open (R56) -/

theorem freeIndex_none (h : ∀ i < s.stm.recs.length, s.record i ≠ none) : freeIndex s = none := by
  rw [freeIndex, List.findIdx?_eq_none_iff]
  intro y mem
  obtain ⟨i, inside, rfl⟩ := List.getElem_of_mem mem
  have used := h i inside
  rw [State.record, List.getElem?_eq_getElem inside] at used
  exact Option.isNone_eq_false_iff.mpr (Option.isSome_iff_ne_none.mpr used)

theorem freeIndex_some (inside : j < s.stm.recs.length) (free : s.record j = none)
    (lowest : ∀ k, k < j → s.record k ≠ none) : freeIndex s = some j := by
  rw [freeIndex, List.findIdx?_eq_some_iff_getElem]
  rw [State.record, List.getElem?_eq_getElem inside] at free
  refine ⟨inside, by simpa using free, fun k less => ?_⟩
  have used := lowest k less
  rw [State.record, List.getElem?_eq_getElem (by omega)] at used
  simpa using used

/-- What a record opened in state e joins (R78). -/
def openJoins (e : State) (spec : OpenSpec) : Four (Option Nat) × Nat :=
  joins (openQueues spec.dests spec.liveA spec.liveB) ⟨none, none, none, none⟩ e.fqm.seq

/-- A line's record with its first characters. -/
def freshRec (l : LineId) (number b : Nat) (spec : OpenSpec) (xs : List RxChar) (stamp : Four (Option Nat)) : Rec where
  state := .opened
  origin := originOf l
  number := number
  urgent := spec.urgent
  length := xs.length
  chain := [b]
  dests := spec.dests
  cursor := ⟨0, 0, 0, 0⟩
  attempts := ⟨0, 0⟩
  charged := ⟨false, false⟩
  flags := ⟨false, xs.any (·.errored), false, spec.continuation, spec.liveA, spec.liveB, false, false⟩
  sender := spec.sender
  remoteNumber := none
  serial := spec.serial
  stamp := stamp
  grants := ⟨false, false, false, false⟩
  stops := ⟨false, false, false, false⟩

/-- The store with record j opened for the line's writer, its block off the free list (R52, R56, R59). -/
def openedStore (m : Store) (l : LineId) (j : Nat) (more : List Nat) : Store :=
  { m with
    free := more
    reservation := m.reservation.set l (m.reservation.get l - 1)
    nextNum := m.nextNum.set (originOf l) (nextNumber (m.nextNum.get (originOf l)))
    lineLink := m.lineLink.set l (some j)
    lineOwed := m.lineOwed.set l none }

/-- In o the line's writer has opened record j, and stored characters in it. -/
structure Opened (l : LineId) (j b : Nat) (more : List Nat) (spec : OpenSpec) (xs : List RxChar) (e o : State) : Prop where
  state : o = e.withStore
    { openedStore e.stm l j more with
      recs := e.stm.recs.set j
        (some (freshRec l (e.stm.nextNum.get (originOf l)) b spec xs (openJoins e spec).1))
      cells := writeChars e.stm.cells
        (freshRec l (e.stm.nextNum.get (originOf l)) b spec xs (openJoins e spec).1) 0 xs
      low := o.stm.low }
    (openJoins e spec).2 o.cpe.latches
  drawn : Drawn l 1 e o

theorem openRecord_opens (inside : j < e.stm.recs.length) (index : freeIndex e = some j) (free : e.stm.free = b :: more)
    (may : LineMayTake e l) (spec : OpenSpec) :
    ∃ o, openRecord e (.line l) spec = some (j, o) ∧ Opened l j b more spec [] e o := by
  obtain ⟨t, taken, drawn, rest⟩ := takeBlock_taken free may
  generalize t.stm.low = low, t.cpe.latches = latches at rest
  subst rest
  unfold openRecord
  rw [index, taken]
  dsimp only [Writer.origin]
  rw [enqueueAtOpen_eq (r := newRecord (originOf l) (e.stm.nextNum.get (originOf l)) b spec) ?placed]
  case placed => exact (State.record_setRecord _ j j _).trans (if_pos ⟨rfl, inside⟩)
  refine ⟨_, rfl, ?_, drawn.kept, drawn.evaluated, drawn.told, drawn.latched⟩
  dsimp only [stamped, State.setRecord, State.withStore, linkWriter, openedStore, Store.without, writeChars]
  rw [List.set_set, free]
  rfl

/-! ## Its first characters (R58, R59) -/

namespace Opened

theorem record (a : Opened l j b more spec xs e o) (inside : j < e.stm.recs.length) : o.record j =
    some (freshRec l (e.stm.nextNum.get (originOf l)) b spec xs (openJoins e spec).1) := by
  rw [a.state]
  exact (State.record_setRecord e j j _).trans (if_pos ⟨rfl, inside⟩)

theorem others (a : Opened l j b more spec xs e o) (other : k ≠ j) : o.record k = e.record k := by
  rw [a.state]
  exact State.record_setRecord_ne e _ other.symm

theorem cfg (a : Opened l j b more spec xs e o) : o.stm.cfg = e.stm.cfg := by
  rw [a.state]
  rfl

theorem writing (a : Opened l j b more spec xs e o) (inside : j < e.stm.recs.length)
    (quiet : e.stm.episode.get l = false) :
    Writing o l j (freshRec l (e.stm.nextNum.get (originOf l)) b spec xs (openJoins e spec).1) where
  episode := by
    rw [a.state]
    exact quiet
  link := by
    rw [a.state]
    exact Pair.get_set_same ..
  record := a.record inside

/-- The framer of the line does not matter. -/
theorem setFramer (a : Opened l j b more spec xs e o) (F : Framer) :
    Opened l j b more spec xs (e.setFramer l F) (o.setFramer l F) where
  state := congrArg (State.setFramer · l F) a.state
  drawn := ⟨a.drawn.kept, a.drawn.evaluated, a.drawn.told, a.drawn.latched⟩

theorem written (a : Opened l j b more spec xs e o) (canonical : CellsCanonical e) (fit : xs.length ≤ 32)
    {y : RxChar} (at' : xs[k]? = some y) : readChar o
      (freshRec l (e.stm.nextNum.get (originOf l)) b spec xs (openJoins e spec).1) k = y.chr := by
  have read := writeChars_at (k := k) canonical (cellsApart_inBlock (q := freshRec l (e.stm.nextNum.get (originOf l)) b spec
    xs (openJoins e spec).1) (m := 0) (n := xs.length) (by omega)) at'
  rw [Nat.zero_add] at read
  rw [readChar, a.state]
  exact (congrArg (BitVec.setWidth 7) read).trans (setWidth_back y.chr)

theorem untouched (a : Opened l j b more spec xs e o) (canonical : CellsCanonical e) {c : Nat}
    (other : ∀ k < xs.length, c ≠ cellAddr
      (freshRec l (e.stm.nextNum.get (originOf l)) b spec xs (openJoins e spec).1) k) :
    Memory.read o.stm.cells c = Memory.read e.stm.cells c := by
  rw [a.state]
  refine writeChars_other canonical fun k fit => ?_
  rw [Nat.zero_add]
  exact other k fit

end Opened

theorem freshRec_longer (fit : xs.length ≤ 32) (number : Nat) (stamp : Four (Option Nat)) (free : List Nat) :
    (freshRec l number b spec [] stamp).longer free xs = freshRec l number b spec xs stamp := by
  have none : newBlocks (freshRec l number b spec [] stamp) xs.length = 0 :=
    newBlocks_inBlock (.inl rfl) ((Nat.zero_add _).le.trans fit)
  rw [Rec.longer, none]
  simp [freshRec]

/-- The first characters of a record just opened, which fit its one block and stay below the limit. -/
theorem Opened.stores (a : Opened l j b more spec [] e o) (inside : j < e.stm.recs.length)
    (quiet : e.stm.episode.get l = false) (fit : xs.length ≤ 32) (below : xs.length < e.stm.cfg.maxMsgLen) :
    Opened l j b more spec xs e (storeLineChars o l xs) := by
  have none : newBlocks (freshRec l (e.stm.nextNum.get (originOf l)) b spec [] (openJoins e spec).1) xs.length = 0 :=
    newBlocks_inBlock (.inl rfl) ((Nat.zero_add _).le.trans fit)
  have appended := storeLineChars_appends (xs := xs) (a.writing inside quiet)
    (by rw [a.cfg]; exact (Nat.zero_add _).trans_lt below) (.inl none)
    ⟨by rw [none]; exact Nat.zero_le _, by rw [none]; omega⟩
  generalize storeLineChars o l xs = v at appended
  have drawn := appended.drawn
  have state := appended.state
  rw [none] at drawn
  rw [appendedAs, none, without_zero, freshRec_longer fit, a.state] at state
  constructor
  · refine state.trans ?_
    dsimp only [State.withStore]
    rw [List.set_set]
    rfl
  · refine a.drawn.trans drawn a.cfg ?_ fun _ => ?_
    · rw [a.state]
      exact Pair.get_set_same ..
    · rw [state, a.state]
      rfl

/-- A character offered with no record open, one being opened for it, is offered to that record (R58, R59). -/
theorem storeLineChar_opens (quiet : e.stm.episode.get l = false) (link : e.stm.lineLink.get l = none)
    (opens : openRecord e (.line l) ((e.stm.lineOwed.get l).getD (lineSpec e l)) = some (j, o))
    (a : Opened l j b more spec [] e o) (inside : j < e.stm.recs.length) (limit : 0 < e.stm.cfg.maxMsgLen) :
    storeLineChar e l x = storeLineChar o l x := by
  have w := a.writing inside quiet
  have below : ¬ atLimit o j = true := by
    rw [atLimit_iff w.record, a.cfg]
    exact Nat.not_le.mpr limit
  have unlinked : writerLink e (.line l) = none := link
  have owed : owedTo e (.line l) = e.stm.lineOwed.get l := rfl
  rw [storeLineChar_offers quiet, storeLineChar_offers w.episode]
  cases room : appendAndSplit o (.line l) j x.chr x.errored with
  | some v =>
    rw [offerChar_stores (w := .line l) w.link below room]
    unfold offerChar
    simp only [unlinked, owed, opens, room]
  | none =>
    rw [offerChar_refuses (w := .line l) w.link below room]
    unfold offerChar
    simp only [unlinked, owed, opens, room]

theorem storeLineChars_opens (quiet : e.stm.episode.get l = false) (link : e.stm.lineLink.get l = none)
    (opens : openRecord e (.line l) ((e.stm.lineOwed.get l).getD (lineSpec e l)) = some (j, o))
    (a : Opened l j b more spec [] e o) (inside : j < e.stm.recs.length) (limit : 0 < e.stm.cfg.maxMsgLen)
    (some' : xs ≠ []) : storeLineChars e l xs = storeLineChars o l xs := by
  obtain ⟨x, ys, rfl⟩ := List.exists_cons_of_ne_nil some'
  rw [storeLineChars_cons, storeLineChars_cons, storeLineChar_opens quiet link opens a inside limit]

/-! ## An open that fails (R57, R60) -/

theorem openRecord_refused (none : (∀ i < e.stm.recs.length, e.record i ≠ none) ∨ ¬ LineMayTake e l) (spec : OpenSpec) :
    openRecord e (.line l) spec = Option.none := by
  unfold openRecord
  rcases none with full | none
  · rw [freeIndex_none full]
  · rw [takeBlock_refused none]
    cases freeIndex e <;> rfl

/-- A character offered with no record open and none to be had: a discard episode begins (R57, R60). -/
theorem storeLineChar_unopened (quiet : e.stm.episode.get l = false) (link : e.stm.lineLink.get l = none)
    (none : (∀ i < e.stm.recs.length, e.record i ≠ none) ∨ ¬ LineMayTake e l) :
    storeLineChar e l x = beginEpisode e l true := by
  have unlinked : writerLink e (.line l) = Option.none := link
  rw [storeLineChar_offers quiet]
  unfold offerChar
  simp only [unlinked, openRecord_refused none, Bool.false_eq_true, if_false]

end Sys2Proof.Machine
end

section
/-! SUPPORT. The framer's runs: text, a head stage that fails, and the stages that do not apply (R83 to R85). -/

namespace Sys2Proof.Machine

open Sys2Proof

variable {s d t u v : State} {l : LineId} {x : RxChar} {xs held : List RxChar} {k n : Nat} {b : Bool}
  {gap : Option Nat} {st : HeadStage} {rest : List HeadStage}

theorem State.setFramer_self {F : Framer} (at' : s.framerOf l = F) : s.setFramer l F = s := by
  subst at'
  rw [State.setFramer, State.framerOf, Pair.set_get]

theorem stageApplies_setFramer (s : State) (l : LineId) (F : Framer) (st : HeadStage) :
    stageApplies (s.setFramer l F) l st = stageApplies s l st := by cases st <;> rfl

/-! ## Text -/

theorem storeLineChars_discards (episode : s.stm.episode.get l = true) (xs : List RxChar) :
    (storeLineChars s l xs).stm.episode.get l = true := by
  by_cases some' : xs = []
  · rw [some']
    exact episode
  · rw [storeLineChars_counts episode some']
    exact episode

/-- Characters stored one by one begin an episode when the storing of them all does. -/
theorem episodeBegins_cons (s : State) (l : LineId) (x : RxChar) (xs : List RxChar) :
    (episodeBegins s (storeLineChar s l x) l || episodeBegins (storeLineChar s l x) (storeLineChars s l (x :: xs)) l) =
      episodeBegins s (storeLineChars s l (x :: xs)) l := by
  have first (h : s.stm.episode.get l = true) : (storeLineChar s l x).stm.episode.get l = true :=
    storeLineChars_discards h [x]
  have others (h : (storeLineChar s l x).stm.episode.get l = true) := storeLineChars_discards h xs
  rw [storeLineChars_cons]
  unfold episodeBegins
  generalize (storeLineChars (storeLineChar s l x) l xs).stm.episode.get l = c at *
  generalize (storeLineChar s l x).stm.episode.get l = b at *
  generalize s.stm.episode.get l = a at *
  revert a b c
  decide

/-- In the text, with nothing held, characters that do not begin the end sequence are stored one by one. -/
theorem Ran.stores (at' : s.framerOf l = ⟨.text, [], gap⟩) (misfit : ∀ y ∈ xs, ¬ Fits (s.framingOf l).eom [y]) :
    Ran l xs.length s xs (storeLineChars s l xs) (episodeBegins s (storeLineChars s l xs) l) := by
  induction xs generalizing s with
  | nil =>
    have still : episodeBegins s s l = false := Bool.not_and_self _
    rw [storeLineChars, List.foldl_nil, still]
    exact .nil l s
  | cons x xs ih =>
    obtain ⟨first, others⟩ := List.forall_mem_cons.mp misfit
    have char := framerChar_stores (x := x) at' (by rwa [List.nil_append])
    rw [List.nil_append, releaseFront_one first, State.setFramer_self at'] at char
    have step : StoreStep s (storeLineChar s l x) false := storeLineChar_step ..
    have framer : (storeLineChar s l x).framerOf l = ⟨.text, [], gap⟩ :=
      (congrArg (Pair.get · l) (step.framers rfl)).trans at'
    have framing : (storeLineChar s l x).framingOf l = s.framingOf l := by
      rw [State.framingOf, step.fqm]
      rfl
    rw [← episodeBegins_cons]
    exact .cons char (ih framer (by rwa [framing]))

/-! ## Head stages (R83) -/

/-- Head stages that do not apply are passed over. -/
theorem Ran.passes (rest : List HeadStage) (off : ∀ st ∈ rest, stageApplies s l st = false)
    (text : Ran l k (s.setFramer l ⟨.text, held, gap⟩) (x :: xs) u b) :
    Ran l (k + rest.length) (s.setFramer l ⟨afterStage rest, held, gap⟩) (x :: xs) u b := by
  induction rest with
  | nil => exact text
  | cons st rest ih =>
    obtain ⟨first, others⟩ := List.forall_mem_cons.mp off
    have char := framerChar_skips (s := s.setFramer l ⟨.head (st :: rest), held, gap⟩) (l := l) (x := x)
      (State.setFramer_framerOf_same ..) (by rwa [stageApplies_setFramer])
    rw [State.setFramer_twice] at char
    exact .again char rfl (ih others)

/-- The characters that a run stores, in the text, with nothing but them and what remains held: whichever way the framer came
to them. -/
def Stores (d : State) (l : LineId) (x : RxChar) (rest out : List RxChar) : Prop :=
  ∃ k gap, k ≤ 200 ∧ Ran l k d [x] (storeLineChars (d.setFramer l ⟨.text, rest, gap⟩) l out)
    (episodeBegins d (storeLineChars (d.setFramer l ⟨.text, rest, gap⟩) l out) l)

theorem stores_text (at' : d.framerOf l = ⟨.text, held, gap⟩) (misfit : ¬ Fits (d.framingOf l).eom (held ++ [x])) :
    Stores d l x (releaseFront (d.framingOf l).eom (held ++ [x])).2 (releaseFront (d.framingOf l).eom (held ++ [x])).1 :=
  ⟨1, gap, by decide, .once (framerChar_stores at' misfit)⟩

theorem stores_head (at' : d.framerOf l = ⟨.head (st :: rest), held, gap⟩) (on : stageApplies d l st = true)
    (result : matchStage d l (held ++ [x]) st = .fail) (off : ∀ st' ∈ rest, stageApplies d l st' = false)
    (plain : ∀ y ∈ held ++ [x], ¬ Fits (d.framingOf l).eom [y]) (short : (held ++ [x]).length ≤ 9)
    (few : rest.length ≤ 2) : Stores d l x [] (held ++ [x]) := by
  have fails := framerChar_fails at' on result
  have some' : held ++ [x] ≠ [] := List.append_ne_nil_of_right_ne_nil _ (List.cons_ne_nil x [])
  generalize held ++ [x] = hs at *
  obtain ⟨y, ys, rfl⟩ := List.exists_cons_of_ne_nil some'
  have text : Ran l (y :: ys).length (d.setFramer l ⟨.text, [], gap⟩) (y :: ys)
      (storeLineChars (d.setFramer l ⟨.text, [], gap⟩) l (y :: ys))
      (episodeBegins d (storeLineChars (d.setFramer l ⟨.text, [], gap⟩) l (y :: ys)) l) :=
    .stores (State.setFramer_framerOf_same ..) plain
  have whole := text.passes rest off
  refine ⟨(y :: ys).length + rest.length + 1, gap, by omega, ?_⟩
  have ran := Ran.cons fails (xs := []) (by rwa [List.append_nil])
  have still : episodeBegins d (d.setFramer l ⟨afterStage rest, [], gap⟩) l = false := Bool.not_and_self _
  rwa [still, Bool.false_or] at ran

end Sys2Proof.Machine
end

section
/-! SUPPORT. What the framer's characters make of the store, case by case (R58 to R60, R85). -/

namespace Sys2Proof.Machine

open Sys2Proof

variable {s d e o t u v : State} {l : LineId} {i j n b : Nat} {q r : Rec} {more : List Nat} {spec : OpenSpec}
  {xs out rest : List RxChar} {x : RxChar} {F : Framer}

/-! ## The line's framer does not matter to the store -/

theorem Appended.setFramer (a : Appended l i r xs s u) (F : Framer) :
    Appended l i r xs (s.setFramer l F) (u.setFramer l F) where
  state := congrArg (State.setFramer · l F) a.state
  drawn := ⟨a.drawn.kept, a.drawn.evaluated, a.drawn.told, a.drawn.latched⟩

theorem Closes.setFramer (a : Closes i r s u) (F : Framer) : Closes i r (s.setFramer l F) (u.setFramer l F) where
  state := congrArg (State.setFramer · l F) a.state
  arrived := a.arrived
  hold := a.hold
  latched := a.latched

theorem Writing.setFramer (a : Writing s l i r) (F : Framer) : Writing (s.setFramer l F) l i r := ⟨a.episode, a.link, a.record⟩

/-! ## The framer's characters stored -/

theorem Opened.into (a : Opened l j b more spec xs (d.setFramer l F) u) (G : Framer) :
    Opened l j b more spec xs (d.setFramer l G) (u.setFramer l G) := by
  have b := a.setFramer G
  rwa [State.setFramer_twice] at b

theorem Appended.into (a : Appended l i r xs (d.setFramer l F) u) (G : Framer) :
    Appended l i r xs (d.setFramer l G) (u.setFramer l G) := by
  have b := a.setFramer G
  rwa [State.setFramer_twice] at b

/-! ## The framer's characters stored -/

/-- A character after which the framer is in the text and its characters are in the store, no episode having begun. -/
theorem Stores.stays (a : Stores d l x rest out) (same : SameGap s d l)
    (still : ∀ gap, (storeLineChars (d.setFramer l ⟨.text, rest, gap⟩) l out).stm.episode.get l = d.stm.episode.get l) :
    ∃ gap, framerTake d l x = (storeLineChars (d.setFramer l ⟨.text, rest, gap⟩) l out).setFramer l
      (framerAt s l .text rest) := by
  obtain ⟨k, gap, fuel, ran⟩ := a
  have step : StoreStep (d.setFramer l ⟨.text, rest, gap⟩) (storeLineChars (d.setFramer l ⟨.text, rest, gap⟩) l out)
    false := storeLineChars_step ..
  have quiet := still gap
  refine ⟨gap, ?_⟩
  generalize storeLineChars (d.setFramer l ⟨.text, rest, gap⟩) l out = v at *
  rw [episodeBegins, quiet, Bool.not_and_self] at ran
  refine framerTake_settles (gap := gap) ran fuel same (by rw [State.csv, step.sup]; rfl)
    (by rw [State.framingOf, step.fqm]; rfl) ?_
  exact (congrArg (Pair.get · l) (step.framers rfl)).trans (State.setFramer_framerOf_same ..)

/-- A character in whose working through an episode begins, with the first of the framer's characters. -/
theorem Stores.fills (a : Stores d l x rest out) (same : SameGap s d l) (mark : (d.unit l).rx.meetsSpace = false)
    {m : Store} (quiet : d.stm.episode.get l = false)
    (stored : ∀ gap, storeLineChars (d.setFramer l ⟨.text, rest, gap⟩) l out = filled d l ⟨.text, rest, gap⟩ m)
    (begun : m.episode.get l = true) (cfg : m.cfg = s.stm.cfg) (cells : m.cells = d.stm.cells)
    (reservation : m.reservation = d.stm.reservation) : StoreFilled s d (framerTake d l x) l .text rest m := by
  obtain ⟨k, gap, fuel, ran⟩ := a
  have begins : episodeBegins d (filled d l ⟨.text, rest, gap⟩ m) l = true := by
    rw [episodeBegins, quiet]
    exact begun
  rw [stored, begins] at ran
  exact framerTake_fills ran fuel same mark rfl rfl cfg cells reservation

/-! ## Case by case -/

/-- In an episode the characters are counted and dropped (R60). -/
theorem Stores.counts (a : Stores d l x rest out) (same : SameGap s d l) (episode : d.stm.episode.get l = true)
    (some' : out ≠ []) : framerTake d l x = dropped (d.setFramer l (framerAt s l .text rest)) l out.length := by
  have counts (gap : Option Nat) := storeLineChars_counts (s := d.setFramer l ⟨.text, rest, gap⟩) (l := l) episode some'
  obtain ⟨gap, take⟩ := a.stays same fun gap => by rw [counts gap]; rfl
  rw [take, counts gap]
  exact congrArg (dropped · l out.length) (State.setFramer_twice ..)

/-- With no record open, and one to be had, the characters begin it (R57 to R59). -/
theorem Stores.opens (a : Stores d l x rest out) (same : SameGap s d l) (quiet : d.stm.episode.get l = false)
    (link : d.stm.lineLink.get l = none) (spec : OpenSpec) (owed : (d.stm.lineOwed.get l).getD (lineSpec d l) = spec)
    (inside : j < d.stm.recs.length) (free : d.record j = none) (lowest : ∀ k, k < j → d.record k ≠ none)
    (blocks : d.stm.free = b :: more) (may : LineMayTake d l) (some' : out ≠ []) (fit : out.length ≤ 32)
    (below : out.length < d.stm.cfg.maxMsgLen) :
    Opened l j b more spec out (d.setFramer l (framerAt s l .text rest)) (framerTake d l x) := by
  have stored (gap : Option Nat) : Opened l j b more spec out (d.setFramer l ⟨.text, rest, gap⟩)
      (storeLineChars (d.setFramer l ⟨.text, rest, gap⟩) l out) := by
    obtain ⟨o, opens, opened⟩ := openRecord_opens (e := d.setFramer l ⟨.text, rest, gap⟩) inside
      (freeIndex_some inside free lowest) blocks may spec
    have limit : 0 < d.stm.cfg.maxMsgLen := by omega
    rw [storeLineChars_opens (e := d.setFramer l ⟨.text, rest, gap⟩) quiet link (by rw [← owed] at opens; exact opens)
      opened inside limit some']
    exact opened.stores inside quiet fit below
  obtain ⟨gap, take⟩ := a.stays same fun gap => by
    rw [(stored gap).state]
    rfl
  rw [take]
  exact (stored gap).into _

/-- The store with an episode begun on the line, its first character counted (R60). -/
def episodeStore (m : Store) (l : LineId) : Store :=
  { m with
    episode := m.episode.set l true
    discarded := m.discarded.set l (min (m.discarded.get l + 1) 65535) }

/-- With no record open, and none to be had, an episode begins (R57, R60). -/
theorem Stores.unopened {y : RxChar} (a : Stores d l x rest [y]) (same : SameGap s d l)
    (mark : (d.unit l).rx.meetsSpace = false) (cfg : d.stm.cfg = s.stm.cfg) (quiet : d.stm.episode.get l = false)
    (link : d.stm.lineLink.get l = none) (none : (∀ i < d.stm.recs.length, d.record i ≠ none) ∨ ¬ LineMayTake d l) :
    StoreFilled s d (framerTake d l x) l .text rest (episodeStore d.stm l) := by
  refine a.fills same mark quiet (fun gap => ?_) (Pair.get_set_same ..) cfg rfl rfl
  refine (storeLineChar_unopened (e := d.setFramer l ⟨.text, rest, gap⟩) quiet link none).trans ?_
  exact beginEpisode_unlinked (s := d.setFramer l ⟨.text, rest, gap⟩) link true

/-- The characters are appended to the open record, which stays below the limit (R58). -/
theorem Stores.appends (a : Stores d l x rest out) (same : SameGap s d l) (w : Writing d l i r)
    (below : r.length + out.length < d.stm.cfg.maxMsgLen) (stands : ChainStands r out.length)
    (room : RoomFor d l r out.length) :
    Appended l i r out (d.setFramer l (framerAt s l .text rest)) (framerTake d l x) := by
  have stored (gap : Option Nat) := storeLineChars_appends (w.setFramer ⟨.text, rest, gap⟩) below stands room
  obtain ⟨gap, take⟩ := a.stays same fun gap => by
    rw [(stored gap).state]
    rfl
  rw [take]
  exact (stored gap).into _

/-- No block can be taken for the character: an episode begins, and the record is truncated (R60). -/
theorem Stores.refused {y : RxChar} (a : Stores d l x rest [y]) (same : SameGap s d l)
    (mark : (d.unit l).rx.meetsSpace = false) (cfg : d.stm.cfg = s.stm.cfg) (w : Writing d l i r)
    (below : r.length < d.stm.cfg.maxMsgLen) (text : 0 < r.length) (full : r.length % 32 = 0) (none : ¬ LineMayTake d l) :
    StoreFilled s d (framerTake d l x) l .text rest { episodeStore d.stm l with
      recs := d.stm.recs.set i (some { r with flags := { r.flags with truncated := true } }) } := by
  refine a.fills same mark w.episode (fun gap => ?_) (Pair.get_set_same ..) cfg rfl rfl
  have w' := w.setFramer ⟨.text, rest, gap⟩
  refine (storeLineChar_refused w' below text full none).trans ?_
  exact beginEpisode_linked w'

/-- The characters are appended to the open record, the last of them reaching the limit (R59). -/
theorem Stores.splits (a : Stores d l x rest out) (same : SameGap s d l) (w : Writing d l i r) (some' : out ≠ [])
    (limit : r.length + out.length = d.stm.cfg.maxMsgLen) (stands : ChainStands r out.length)
    (room : RoomFor d l r out.length) (opened : r.state = .opened) (pending : r.dests.isEmpty = false) :
    ∃ v u, Appended l i r out (d.setFramer l (framerAt s l .text rest)) v ∧
      Closes i (r.longer d.stm.free out).splitOff v u ∧
      framerTake d l x = owing u l (some (continuationOf r)) := by
  have stored (gap : Option Nat) : ∃ v u, Appended l i r out (d.setFramer l ⟨.text, rest, gap⟩) v ∧
      Closes i (r.longer d.stm.free out).splitOff v u ∧
      storeLineChars (d.setFramer l ⟨.text, rest, gap⟩) l out = owing u l (some (continuationOf r)) := by
    have w' := w.setFramer ⟨.text, rest, gap⟩
    obtain ⟨v, appended, split⟩ := storeLineChars_splits w' some' limit stands room
    obtain ⟨u, closes, owes⟩ := splitRecord_closes (l := l) (appended.writing w').record opened pending
    exact ⟨v, u, appended, closes, split.trans owes⟩
  obtain ⟨gap, take⟩ := a.stays same fun gap => by
    obtain ⟨v, u, appended, closes, e⟩ := stored gap
    rw [e, owing, closes.state, appended.state]
    rfl
  obtain ⟨v, u, appended, closes, e⟩ := stored gap
  rw [e] at take
  exact ⟨_, _, appended.into _, closes.setFramer _, take⟩

/-- Characters offered to a record at the limit, or above it, are offered to its continuation (R59). -/
theorem storeLineChars_atLimit (w : Writing e l i r) (limit : e.stm.cfg.maxMsgLen ≤ r.length)
    (opened : r.state = .opened) (pending : r.dests.isEmpty = false) (some' : xs ≠ []) :
    storeLineChars e l xs = storeLineChars (splitRecord e (.line l) i) l xs := by
  obtain ⟨x, ys, rfl⟩ := List.exists_cons_of_ne_nil some'
  rw [storeLineChars_cons, storeLineChars_cons, storeLineChar_atLimit w limit opened pending]

theorem Closes.record_none (c : Closes i r s u) (record : s.record i = some q) (k : Nat) :
    u.record k = none ↔ s.record k = none := by
  by_cases here : k = i
  · subst here
    rw [c.record (State.record_lt record), record]
    exact ⟨nofun, nofun⟩
  · rw [c.others here]

/-- What a record's close leaves to the next open. -/
theorem Closes.opens (c : Closes i r s u) (record : s.record i = some q) (spec : Option OpenSpec)
    (inside : j < s.stm.recs.length) (free : s.record j = none) (lowest : ∀ k, k < j → s.record k ≠ none) :
    j < (owing u l spec).stm.recs.length ∧ freeIndex (owing u l spec) = some j ∧
      (owing u l spec).stm.free = s.stm.free ∧ (LineMayTake s l → LineMayTake (owing u l spec) l) := by
  have within : j < (owing u l spec).stm.recs.length := by
    rw [owing, c.state]
    exact inside.trans_eq (List.length_set ..).symm
  refine ⟨within, freeIndex_some within ((c.record_none record j).mpr free)
    fun k less => mt (c.record_none record k).mp (lowest k less), ?_, fun may => ?_⟩
  · rw [owing, c.state]
    rfl
  · rw [owing, c.state]
    exact may

/-- The record is found at the limit, or above it, and the characters begin its continuation (R59). -/
theorem Stores.continues (a : Stores d l x rest out) (same : SameGap s d l) (w : Writing d l i r)
    (limit : d.stm.cfg.maxMsgLen ≤ r.length) (opened : r.state = .opened) (pending : r.dests.isEmpty = false)
    (inside : j < d.stm.recs.length) (free : d.record j = none) (lowest : ∀ k, k < j → d.record k ≠ none)
    (blocks : d.stm.free = b :: more) (may : LineMayTake d l) (some' : out ≠ []) (fit : out.length ≤ 32)
    (below : out.length < d.stm.cfg.maxMsgLen) :
    ∃ u, Closes i r.splitOff (d.setFramer l (framerAt s l .text rest)) u ∧
      Opened l j b more (continuationOf r) out (owing u l (some (continuationOf r))) (framerTake d l x) := by
  have stored (gap : Option Nat) : ∃ u, Closes i r.splitOff (d.setFramer l ⟨.text, rest, gap⟩) u ∧
      Opened l j b more (continuationOf r) out (owing u l (some (continuationOf r)))
        (storeLineChars (d.setFramer l ⟨.text, rest, gap⟩) l out) := by
    have w' := w.setFramer ⟨.text, rest, gap⟩
    obtain ⟨u, closes, split⟩ := splitRecord_closes (l := l) w'.record opened pending
    obtain ⟨inside', index, blocks', may'⟩ :=
      closes.opens (l := l) w'.record (some (continuationOf r)) inside free lowest
    obtain ⟨o, opens, began⟩ := openRecord_opens inside' index (blocks'.trans blocks) (may' may) (continuationOf r)
    have quiet : (owing u l (some (continuationOf r))).stm.episode.get l = false := by
      rw [owing, closes.state]
      exact w.episode
    have link : (owing u l (some (continuationOf r))).stm.lineLink.get l = none := closes.link w'.link
    have owed : (owing u l (some (continuationOf r))).stm.lineOwed.get l = some (continuationOf r) := Pair.get_set_same ..
    have cfg : (owing u l (some (continuationOf r))).stm.cfg = d.stm.cfg := by
      rw [owing, closes.state]
      rfl
    refine ⟨u, closes, ?_⟩
    rw [storeLineChars_atLimit w' limit opened pending some', split,
      storeLineChars_opens quiet link (by rw [owed]; exact opens) began inside' (by rw [cfg]; omega) some']
    exact began.stores inside' quiet fit (by rwa [cfg])
  obtain ⟨gap, take⟩ := a.stays same fun gap => by
    obtain ⟨u, closes, began⟩ := stored gap
    rw [began.state, owing, closes.state]
    rfl
  obtain ⟨u, closes, began⟩ := stored gap
  refine ⟨u.setFramer l (framerAt s l .text rest), ?_, ?_⟩
  · have moved := closes.setFramer (l := l) (framerAt s l .text rest)
    rwa [State.setFramer_twice] at moved
  · rw [take]
    exact began.setFramer _

end Sys2Proof.Machine
end

section
/-! SUPPORT. The framer's other characters: the end of the message, characters held, and a head stage
(R82 to R85). -/

namespace Sys2Proof.Machine

open Sys2Proof

variable {s d o : State} {l : LineId} {i j b : Nat} {r : Rec} {more : List Nat} {spec : OpenSpec}
  {held : List RxChar} {x : RxChar} {gap : Option Nat} {st : HeadStage} {rest : List HeadStage} {p : FramerPhase}

/-- The character is done with, the framer being in a phase with what it holds. -/
theorem framerTake_once {d' : State} (char : framerChar d l x = (d'.setFramer l ⟨p, held, gap⟩, [])) (same : SameGap s d l)
    (episode : d'.stm.episode.get l = true → d.stm.episode.get l = true) (csv : d'.csv l = d.csv l)
    (framing : d'.framingOf l = d.framingOf l) : framerTake d l x = d'.setFramer l (framerAt s l p held) := by
  have ran := Ran.once char
  have still : episodeBegins d (d'.setFramer l ⟨p, held, gap⟩) l = false := by
    unfold episodeBegins
    change (!d.stm.episode.get l && d'.stm.episode.get l) = false
    cases now : d'.stm.episode.get l with
    | false => exact Bool.and_false _
    | true => rw [episode now]; rfl
  rw [still] at ran
  rw [framerTake_settles ran (by decide) same csv framing (State.setFramer_framerOf_same ..), State.setFramer_twice]

/-- The end sequence whole: the message ends (R85, R86). -/
theorem framerTake_ends (at' : d.framerOf l = ⟨.text, held, gap⟩) (same : SameGap s d l)
    (result : matchText (d.framingOf l).eom (held ++ [x]) = .success) :
    framerTake d l x = (closeLineMessage d l).setFramer l .idle := by
  have over' : (closeLineMessage d l).stm.episode.get l = false := (closeLineMessage_over d l).1
  have step : StoreStep d (closeLineMessage d l) false := closeLineMessage_step ..
  have framing : (closeLineMessage d l).framingOf l = d.framingOf l := by
    rw [State.framingOf, step.fqm]
    rfl
  have idle : framerAt s l .idle [] = .idle := by
    rw [framerAt, if_neg fun h => h.2.1 rfl]
    rfl
  rw [framerTake_once (framerChar_ends at' result) same (by rw [over']; nofun) (by rw [State.csv, step.sup]; rfl) framing]
  exact congrArg (State.setFramer _ l) idle

theorem closeRecord_cells (s : State) (i : Nat) (announce : Bool) :
    (closeRecord s i announce).stm.cells = s.stm.cells := by
  have join (b : Bool) (k : Deliv) (t : State) : (if b then enqueue t k i else t).stm.cells = t.stm.cells := by
    split
    · rw [(enqueue_storeOnly t k i).stm]
    · rfl
  have tell (b : Bool) (e : Event) (t : State) : (if b then t.latch e else t).stm.cells = t.stm.cells := by
    split <;> rfl
  have done (t : State) : (releaseIfDone t i).stm.cells = t.stm.cells := by rw [(releaseIfDone_storeOnly t i).stm]
  unfold closeRecord
  split
  · rfl
  · split
    · rfl
    · rfl
    · dsimp only
      rw [done, tell, tell, join, join]
      rfl

/-- The close of the line's message leaves the text where it is. -/
theorem closeLineMessage_cells (s : State) (l : LineId) : (closeLineMessage s l).stm.cells = s.stm.cells := by
  unfold closeLineMessage
  split
  · exact closeRecord_cells ..
  · rfl

/-- What begins the end sequence is held (R85). -/
theorem framerTake_waits (at' : d.framerOf l = ⟨.text, held, gap⟩) (same : SameGap s d l)
    (result : matchText (d.framingOf l).eom (held ++ [x]) = .hold) :
    framerTake d l x = d.setFramer l (framerAt s l .text (held ++ [x])) :=
  framerTake_once (framerChar_keeps at' result) same id rfl rfl

/-- What begins a head stage's pattern is held (R83). -/
theorem framerTake_holds (at' : d.framerOf l = ⟨.head (st :: rest), held, gap⟩) (same : SameGap s d l)
    (on : stageApplies d l st = true) (result : matchStage d l (held ++ [x]) st = .hold) :
    framerTake d l x = d.setFramer l (framerAt s l (.head (st :: rest)) (held ++ [x])) :=
  framerTake_once (framerChar_holds at' on result) same id rfl rfl

/-- The effect of a stage is on the framer's record (R84). -/
theorem stageEffect_recs (d : State) (l : LineId) (held : List RxChar) (st : HeadStage) :
    ∃ recs, stageEffect d l held st = { d with stm := { d.stm with recs := recs } } := by
  have record (i : Nat) (f : Rec → Rec) : ∃ recs, d.onRecord i f = { d with stm := { d.stm with recs := recs } } := by
    unfold State.onRecord
    split
    · exact ⟨_, rfl⟩
    · exact ⟨d.stm.recs, rfl⟩
  unfold stageEffect
  split
  · exact ⟨d.stm.recs, rfl⟩
  all_goals
    split
    · exact record ..
    · exact ⟨d.stm.recs, rfl⟩

theorem stageEffect_nothing (h : st = .som ∨ d.stm.lineLink.get l = none) : stageEffect d l held st = d := by
  rcases h with rfl | link
  · rfl
  · cases st
    · rfl
    all_goals
      unfold stageEffect
      simp only [link]

theorem stageEffect_urgent (link : d.stm.lineLink.get l = some i) (record : d.record i = some r) :
    stageEffect d l held .urgent = d.setRecord i (some { r with urgent := true }) := by
  unfold stageEffect
  simp only [link, State.onRecord_eq record]

theorem stageEffect_number (link : d.stm.lineLink.get l = some i) (record : d.record i = some r) :
    stageEffect d l held .number = d.setRecord i
      (some { r with remoteNumber := some (digitsValue ((held.map (·.chr)).take 4)) }) := by
  unfold stageEffect
  simp only [link, State.onRecord_eq record]

/-- A head stage succeeds (R83, R84). -/
theorem framerTake_succeeds (at' : d.framerOf l = ⟨.head (st :: rest), held, gap⟩) (same : SameGap s d l)
    (on : stageApplies d l st = true) (result : matchStage d l (held ++ [x]) st = .success) :
    framerTake d l x = (stageEffect d l (held ++ [x]) st).setFramer l (framerAt s l (afterStage rest) []) := by
  obtain ⟨recs, effect⟩ := stageEffect_recs d l (held ++ [x]) st
  have char := framerChar_succeeds at' on result
  rw [effect] at char ⊢
  rw [onFramer_at (s := { d with stm := { d.stm with recs := recs } }) at'] at char
  exact framerTake_once char same id rfl rfl

/-- A head stage that succeeds with nothing to say of the record. -/
theorem framerTake_succeeds_plain (at' : d.framerOf l = ⟨.head (st :: rest), held, gap⟩) (same : SameGap s d l)
    (on : stageApplies d l st = true) (result : matchStage d l (held ++ [x]) st = .success)
    (nothing : st = .som ∨ d.stm.lineLink.get l = none) :
    framerTake d l x = d.setFramer l (framerAt s l (afterStage rest) []) := by
  rw [framerTake_succeeds at' same on result, stageEffect_nothing nothing]

/-- The three BELs make the record URGENT (R83). -/
theorem framerTake_succeeds_urgent (at' : d.framerOf l = ⟨.head (.urgent :: rest), held, gap⟩) (same : SameGap s d l)
    (on : stageApplies d l .urgent = true) (result : matchStage d l (held ++ [x]) .urgent = .success)
    (link : d.stm.lineLink.get l = some i) (record : d.record i = some r) : framerTake d l x =
      (d.setRecord i (some { r with urgent := true })).setFramer l (framerAt s l (afterStage rest) []) := by
  rw [framerTake_succeeds at' same on result, stageEffect_urgent link record]

/-- The number line gives the record its remote number (R84). -/
theorem framerTake_succeeds_number (at' : d.framerOf l = ⟨.head (.number :: rest), held, gap⟩) (same : SameGap s d l)
    (on : stageApplies d l .number = true) (result : matchStage d l (held ++ [x]) .number = .success)
    (link : d.stm.lineLink.get l = some i) (record : d.record i = some r) : framerTake d l x =
      (d.setRecord i (some { r with
        remoteNumber := some (digitsValue (((held ++ [x]).map (·.chr)).take 4)) })).setFramer l
          (framerAt s l (afterStage rest) []) := by
  rw [framerTake_succeeds at' same on result, stageEffect_number link record]

/-! ## The number line (R83, R84) -/

/-- The digits, the CR and the LF of a number line, as far as they go (R83). -/
def numberLine (text : List Chr) : Bool :=
  (text.take 4).all digitChr && (text.drop 4).isPrefixOf [13, 10]
    && (decide (text.length < 4) || decide (1 ≤ digitsValue (text.take 4)))

theorem numberLine_short {text : List Chr} (number : numberLine text = true) : text.length ≤ 6 := by
  unfold numberLine at number
  simp only [Bool.and_eq_true] at number
  have tail := (List.isPrefixOf_iff_prefix.mp number.1.2).length_le
  rw [List.length_drop] at tail
  exact Nat.sub_le_iff_le_add.mp tail

theorem matchNumber_clean (clean : Clean held) : matchNumber held =
    if numberLine (held.map (·.chr)) = true then (if (held.map (·.chr)).length = 6 then .success else .hold) else .fail := by
  have reorder (a b c : Bool) : (a && b && c) = (a && c && b) := by
    rw [Bool.and_assoc, Bool.and_comm b, ← Bool.and_assoc]
  unfold matchNumber numberLine
  dsimp only
  rw [if_neg (by rw [any_errored]; exact not_not.mpr clean), reorder]

theorem matchNumber_errored (errored : ¬ Clean held) : matchNumber held = .fail :=
  if_pos ((any_errored held).mpr errored)

/-! ## A head stage against what it holds (R83, R84) -/

/-- The pattern of a stage that has one. -/
def stagePattern (s : State) (l : LineId) (st : HeadStage) : List Chr :=
  if st = .som then (s.framingOf l).som else [7, 7, 7]

theorem matchStage_text (h : st ≠ .number) : matchStage s l held st = matchText (stagePattern s l st) held := by
  cases st
  · rfl
  · rfl
  · exact absurd rfl h

/-- A stage goes on while it holds the beginning of its pattern and not the whole. -/
def StageHolds (s : State) (l : LineId) (st : HeadStage) (held : List RxChar) : Prop :=
  Clean held ∧ if st = .number then numberLine (held.map (·.chr)) = true ∧ (held.map (·.chr)).length < 6
    else (held.map (·.chr)).isPrefixOf (stagePattern s l st) = true ∧ held.map (·.chr) ≠ stagePattern s l st

/-- A stage succeeds with the whole of its pattern. -/
def StageSucceeds (s : State) (l : LineId) (st : HeadStage) (held : List RxChar) : Prop :=
  Clean held ∧ if st = .number then numberLine (held.map (·.chr)) = true ∧ (held.map (·.chr)).length = 6
    else held.map (·.chr) = stagePattern s l st

theorem matchStage_holds (h : StageHolds s l st held) : matchStage s l held st = .hold := by
  obtain ⟨clean, rest⟩ := h
  by_cases number : st = .number
  · rw [if_pos number] at rest
    rw [number]
    refine (matchNumber_clean clean).trans ?_
    rw [if_pos rest.1, if_neg (by omega)]
  · rw [if_neg number] at rest
    rw [matchStage_text number, matchText_holds clean rest.2 rest.1]

theorem matchStage_succeeds (h : StageSucceeds s l st held) : matchStage s l held st = .success := by
  obtain ⟨clean, rest⟩ := h
  by_cases number : st = .number
  · rw [if_pos number] at rest
    rw [number]
    refine (matchNumber_clean clean).trans ?_
    rw [if_pos rest.1, if_pos rest.2]
  · rw [if_neg number] at rest
    rw [matchStage_text number, matchText_succeeds clean rest]

theorem matchStage_fails (notHolds : ¬ StageHolds s l st held) (notSucceeds : ¬ StageSucceeds s l st held) :
    matchStage s l held st = .fail := by
  by_cases number : st = .number
  · unfold StageHolds StageSucceeds at *
    rw [if_pos number] at notHolds notSucceeds
    rw [number]
    by_cases clean : Clean held
    · refine (matchNumber_clean clean).trans (if_neg fun line => ?_)
      have short := numberLine_short line
      by_cases six : (held.map (·.chr)).length = 6
      · exact notSucceeds ⟨clean, line, six⟩
      · exact notHolds ⟨clean, line, by omega⟩
    · exact matchNumber_errored clean
  · unfold StageHolds StageSucceeds at *
    rw [if_neg number] at notHolds notSucceeds
    rw [matchStage_text number]
    refine matchText_fails fun ⟨clean, begins⟩ => ?_
    by_cases whole : held.map (·.chr) = stagePattern s l st
    · exact notSucceeds ⟨clean, whole⟩
    · exact notHolds ⟨clean, begins, whole⟩

end Sys2Proof.Machine
end

section
/-! SUPPORT. The start of a message (R57, R82, R83). -/

namespace Sys2Proof.Machine

open Sys2Proof

variable {s d o t u : State} {l : LineId} {i j k b : Nat} {more : List Nat} {spec : OpenSpec}
  {held out : List RxChar} {x : RxChar} {gap : Option Nat} {st : HeadStage} {began : Bool} {p : FramerPhase}

/-- The head stages of a message (R83). -/
def headStages : List HeadStage := [.som, .urgent, .number]

/-- A message begins: a record is asked for, and the character goes on to the first stage (R82). -/
theorem Ran.begins (at' : d.framerOf l = ⟨.idle, held, gap⟩) (opens : openLineRecord d l = o)
    (framer : o.framerOf l = d.framerOf l) (head : Ran l k (o.setFramer l ⟨.head headStages, [], gap⟩) [x] t began) :
    Ran l (k + 1) d [x] t (episodeBegins d o l || began) := by
  have char := framerChar_idle (s := d) (l := l) (x := x) (by rw [at'])
  rw [opens, onFramer_at (framer.trans at')] at char
  have ran : Ran l (k + 1) d [x] t (episodeBegins d (o.setFramer l ⟨.head headStages, [], gap⟩) l || began) :=
    Ran.cons char head
  exact ran

theorem openLineRecord_opens (opens : openRecord d (.line l) (lineSpec d l) = some (j, o)) : openLineRecord d l = o := by
  unfold openLineRecord
  simp only [opens]

theorem openLineRecord_refused (none : (∀ i < d.stm.recs.length, d.record i ≠ none) ∨ ¬ LineMayTake d l) :
    openLineRecord d l = beginEpisode d l false := by
  unfold openLineRecord
  simp only [openRecord_refused none]

/-! ## What an open leaves of the framer's surroundings -/

/-- What the store has changed in a state: not the framers, the framings or the supervisors. -/
structure Surrounds (d o : State) (l : LineId) : Prop where
  csv : o.csv l = d.csv l
  framing : o.framingOf l = d.framingOf l
  framer : o.framerOf l = d.framerOf l

theorem Opened.surrounds (a : Opened l j b more spec out d o) : Surrounds d o l := by
  rw [a.state]
  exact ⟨rfl, rfl, rfl⟩

theorem Opened.episode (a : Opened l j b more spec out d o) : o.stm.episode = d.stm.episode := by
  rw [a.state]
  rfl

theorem Surrounds.applies (a : Surrounds d o l) (st : HeadStage) : stageApplies o l st = stageApplies d l st := by
  have agreed : agreedOn o l = agreedOn d l := by rw [agreedOn, a.csv, agreedOn]
  cases st
  · exact congrArg (fun f : FramingConfig => !f.som.isEmpty) a.framing
  · exact congrArg Abilities.urgent agreed
  · exact congrArg Abilities.numbering agreed

/-- With no head stage that applies a character comes to the text. -/
theorem Ran.heads (a : Surrounds d o l) (off : ∀ st, stageApplies d l st = false)
    (text : Ran l k (o.setFramer l ⟨.text, [], gap⟩) [x] t began) :
    Ran l (k + 3) (o.setFramer l ⟨.head headStages, [], gap⟩) [x] t began :=
  .passes headStages (fun st _ => (a.applies st).trans (off st)) text

/-! ## A record opened -/

section Opening

variable (same : SameGap s d l) (at' : d.framerOf l = ⟨.idle, held, gap⟩)
  (opens : openRecord d (.line l) (lineSpec d l) = some (j, o)) (a : Opened l j b more (lineSpec d l) [] d o)

include same at' opens a

/-- The run from the open on, no episode having begun. -/
theorem framerTake_opened (few : k ≤ 199)
    (head : Ran l k (o.setFramer l ⟨.head headStages, [], gap⟩) [x] (t.setFramer l ⟨p, out, gap⟩) false)
    (csv : t.csv l = d.csv l) (framing : t.framingOf l = d.framingOf l) :
    framerTake d l x = t.setFramer l (framerAt s l p out) := by
  have ran := Ran.begins at' (openLineRecord_opens opens) a.surrounds.framer head
  have quiet : episodeBegins d o l = false := by
    rw [episodeBegins, a.episode, Bool.not_and_self]
  rw [quiet, Bool.false_or] at ran
  rw [framerTake_settles ran (by omega) same csv framing (State.setFramer_framerOf_same ..), State.setFramer_twice]

/-- The character begins SOM: it is held (R83). -/
theorem framerTake_opens_som (clean : x.errored = false) (first : (d.framingOf l).som.head? = some x.chr)
    (two : 2 ≤ (d.framingOf l).som.length) :
    Opened l j b more (lineSpec d l) [] (d.setFramer l (framerAt s l (.head headStages) [x])) (framerTake d l x) := by
  have on : stageApplies o l .som = true := by
    rw [a.surrounds.applies]
    cases som : (d.framingOf l).som with
    | nil =>
      rw [som] at first
      cases first
    | cons c cs =>
      change (!(d.framingOf l).som.isEmpty) = true
      rw [som]
      rfl
  have char := framerChar_holds (s := o.setFramer l ⟨.head headStages, [], gap⟩) (x := x)
    (State.setFramer_framerOf_same ..) on
    ((congrArg (fun f : FramingConfig => matchText f.som [x]) a.surrounds.framing).trans
      (matchText_begins clean first two))
  rw [State.setFramer_twice] at char
  have ran := Ran.once char
  have still (F G : Framer) : episodeBegins (o.setFramer l F) (o.setFramer l G) l = false := Bool.not_and_self _
  rw [still] at ran
  rw [framerTake_opened same at' opens a (by decide) ran a.surrounds.csv a.surrounds.framing]
  exact a.setFramer _

/-- No head stage applies, and the character begins the end sequence: it is held (R83, R85). -/
theorem framerTake_opens_eom (off : ∀ st, stageApplies d l st = false) (clean : x.errored = false)
    (first : (d.framingOf l).eom.head? = some x.chr) (two : 2 ≤ (d.framingOf l).eom.length) :
    Opened l j b more (lineSpec d l) [] (d.setFramer l (framerAt s l .text [x])) (framerTake d l x) := by
  have char := framerChar_keeps (s := o.setFramer l ⟨.text, [], gap⟩) (x := x) (State.setFramer_framerOf_same ..)
    ((congrArg (fun f : FramingConfig => matchText f.eom [x]) a.surrounds.framing).trans
      (matchText_begins clean first two))
  rw [State.setFramer_twice] at char
  have ran := Ran.once char
  have still (F G : Framer) : episodeBegins (o.setFramer l F) (o.setFramer l G) l = false := Bool.not_and_self _
  rw [still] at ran
  rw [framerTake_opened same at' opens a (by decide) (.heads a.surrounds off ran) a.surrounds.csv a.surrounds.framing]
  exact a.setFramer _

/-- No head stage applies, and the character is text: it is stored (R83, R85). -/
theorem framerTake_opens_text (off : ∀ st, stageApplies d l st = false) (misfit : ¬ Fits (d.framingOf l).eom [x])
    (inside : j < d.stm.recs.length) (quiet : d.stm.episode.get l = false) (two : 2 ≤ d.stm.cfg.maxMsgLen) :
    Opened l j b more (lineSpec d l) [x] (d.setFramer l (framerAt s l .text [])) (framerTake d l x) := by
  have framing : (o.setFramer l ⟨.text, [], gap⟩).framingOf l = d.framingOf l := a.surrounds.framing
  have ran := Ran.stores (s := o.setFramer l ⟨.text, [], gap⟩) (xs := [x]) (State.setFramer_framerOf_same ..)
    (fun y mem => by rwa [List.mem_singleton.mp mem, framing])
  have stored := (a.setFramer ⟨.text, [], gap⟩).stores (xs := [x]) inside quiet (by decide : 1 ≤ 32) two
  have still : episodeBegins (o.setFramer l ⟨.text, [], gap⟩)
      (storeLineChars (o.setFramer l ⟨.text, [], gap⟩) l [x]) l = false := by
    have old : (o.setFramer l ⟨.text, [], gap⟩).stm.episode = d.stm.episode := a.episode
    have new : (storeLineChars (o.setFramer l ⟨.text, [], gap⟩) l [x]).stm.episode = d.stm.episode := stored.episode
    rw [episodeBegins, old, new, Bool.not_and_self]
  have surrounds := stored.surrounds
  rw [still] at ran
  generalize storeLineChars (o.setFramer l ⟨.text, [], gap⟩) l [x] = t at *
  have there : t.setFramer l ⟨.text, [], gap⟩ = t :=
    State.setFramer_self (surrounds.framer.trans (State.setFramer_framerOf_same ..))
  rw [← there] at ran
  rw [framerTake_opened same at' opens a (by decide : 1 + 3 ≤ 199) (.heads a.surrounds off ran) surrounds.csv
    surrounds.framing]
  exact stored.into _

end Opening

/-- The character begins a pattern of two or more, and is held for it. -/
def Begins (pattern : List Chr) (x : RxChar) : Prop :=
  x.errored = false ∧ pattern.head? = some x.chr ∧ 2 ≤ pattern.length

/-- A message begins with a record to be had: the character is held for SOM or for the end sequence, or is the first of the
text (R82, R83, R85). -/
theorem framerTake_begins {inSom begins : Prop} [Decidable inSom] [Decidable (inSom ∨ begins)]
    (som : inSom ↔ Begins (d.framingOf l).som x) (eom : begins ↔ Begins (d.framingOf l).eom x) (same : SameGap s d l)
    (at' : d.framerOf l = ⟨.idle, held, gap⟩) (inside : j < d.stm.recs.length) (free : d.record j = none)
    (lowest : ∀ k, k < j → d.record k ≠ none) (blocks : d.stm.free = b :: more) (may : LineMayTake d l)
    (quiet : d.stm.episode.get l = false) (two : 2 ≤ d.stm.cfg.maxMsgLen)
    (which : inSom ∨ (∀ st, stageApplies d l st = false) ∧
      (begins ∨ (d.framingOf l).eom.head? ≠ some x.chr ∨ x.errored = true)) :
    Opened l j b more (lineSpec d l) (if inSom ∨ begins then [] else [x]) (d.setFramer l (framerAt s l
      (if inSom then .head headStages else .text) (if inSom ∨ begins then [x] else []))) (framerTake d l x) := by
  obtain ⟨o, opens, opened⟩ :=
    openRecord_opens inside (freeIndex_some inside free lowest) blocks may (lineSpec d l)
  by_cases head : inSom
  · obtain ⟨clean, first, long⟩ := som.mp head
    rw [if_pos (.inl head), if_pos head, if_pos (.inl head)]
    exact framerTake_opens_som same at' opens opened clean first long
  · obtain ⟨off, text⟩ := which.resolve_left head
    rw [if_neg head]
    by_cases tail : begins
    · obtain ⟨clean, first, long⟩ := eom.mp tail
      rw [if_pos (.inr tail), if_pos (.inr tail)]
      exact framerTake_opens_eom same at' opens opened off clean first long
    · have waits : ¬ (inSom ∨ begins) := not_or.mpr ⟨head, tail⟩
      rw [if_neg waits, if_neg waits]
      exact framerTake_opens_text same at' opens opened off (not_fits_one (text.resolve_left tail)) inside quiet two

/-- A record with its first character, or with none while that is held. -/
theorem freshRec_first {waits : Prop} [Decidable waits] (l : LineId) (number b : Nat) (spec : OpenSpec) (x : RxChar)
    (stamp : Four (Option Nat)) : freshRec l number b spec (if waits then [] else [x]) stamp =
      { freshRec l number b spec [] stamp with
        length := if waits then 0 else 1
        flags :=
          ⟨false, decide (¬ waits) && x.errored, false, spec.continuation, spec.liveA, spec.liveB, false, false⟩ } := by
  by_cases h : waits <;> simp [h, freshRec]

/-! ## No record to be had -/

/-- A message begins with no record to be had: an episode begins, and the character is counted in it (R57, R60). -/
theorem framerTake_unopened (same : SameGap s d l) (mark : (d.unit l).rx.meetsSpace = false)
    (cfg : d.stm.cfg = s.stm.cfg) (at' : d.framerOf l = ⟨.idle, held, gap⟩) (quiet : d.stm.episode.get l = false)
    (link : d.stm.lineLink.get l = none) (none : (∀ i < d.stm.recs.length, d.record i ≠ none) ∨ ¬ LineMayTake d l)
    (off : ∀ st, stageApplies d l st = false) (misfit : ¬ Fits (d.framingOf l).eom [x]) :
    StoreFilled s d (framerTake d l x) l .text [] (episodeStore d.stm l) := by
  have begun := beginEpisode_unlinked (s := d) link false
  have opens := openLineRecord_refused none
  have surrounds : Surrounds d (beginEpisode d l false) l := by
    rw [begun]
    exact ⟨rfl, rfl, rfl⟩
  have episode : (beginEpisode d l false).stm.episode.get l = true := by
    rw [begun]
    exact Pair.get_set_same ..
  have begins : episodeBegins d (beginEpisode d l false) l = true := by
    rw [episodeBegins, quiet, episode]
    rfl
  have counted : storeLineChars ((beginEpisode d l false).setFramer l ⟨.text, [], gap⟩) l [x] =
      filled d l ⟨.text, [], gap⟩ (episodeStore d.stm l) := by
    refine (storeLineChars_counts (s := (beginEpisode d l false).setFramer l ⟨.text, [], gap⟩) episode
      (List.cons_ne_nil x [])).trans ?_
    rw [begun]
    cases l <;> rfl
  have framing : ((beginEpisode d l false).setFramer l ⟨.text, [], gap⟩).framingOf l = d.framingOf l := surrounds.framing
  have text := Ran.stores (s := (beginEpisode d l false).setFramer l ⟨.text, [], gap⟩) (xs := [x])
    (State.setFramer_framerOf_same ..) (fun y mem => by rwa [List.mem_singleton.mp mem, framing])
  have ran := Ran.begins at' opens surrounds.framer (.heads surrounds off text)
  rw [begins, Bool.true_or, counted] at ran
  exact framerTake_fills ran (by decide : 1 + 3 + 1 ≤ 200) same mark rfl rfl cfg rfl rfl

end Sys2Proof.Machine
end

section
/-! SUPPORT. The character's delivery and the framer's surroundings. -/

namespace Sys2Proof.Machine

open Sys2Proof

variable {s d u : State} {l : LineId} {f : Frame} {c : Comb} {good : Bool} {n : Nat}

/-- The state with other line units, supervisors, shift records and latches. -/
def State.withLines (s : State) (lu : Pair LineUnit) (sup : Pair Supervisor) (ctr : Translator) (latches : BitVec 17) :
    State :=
  { s with lu := lu, sup := sup, ctr := ctr, cpe := { s.cpe with latches := latches } }

/-- The state in which a character comes to the framer, beside the one in which its stop sample was due: the framer's
surroundings are as they were. -/
structure ForFramer (s d : State) (l : LineId) : Prop where
  only : ∃ lu sup ctr latches, d = s.withLines lu sup ctr latches
  state : (d.csv l).state = (s.csv l).state
  mark : (d.unit l).rx.meetsSpace = false
  spec : lineSpec d l = lineSpec s l
  applies : ∀ st, stageApplies d l st = stageApplies s l st

theorem ForFramer.same (a : ForFramer s d l) : SameGap s d l := by
  obtain ⟨lu, sup, ctr, latches, only⟩ := a.only
  exact ⟨a.state, by rw [only]; rfl⟩

theorem forFramer_delivered (h : CharacterIn s l f c good) : ForFramer s (delivered s l f c good) l := by
  have only := delivered_frameOnly s l f c good
  have csv := (delivered_line s l f c good).1
  have fqm : (delivered s l f c good).fqm = s.fqm := by rw [only]
  have framing : (delivered s l f c good).framingOf l = s.framingOf l := by rw [State.framingOf, fqm, State.framingOf]
  have state : ((delivered s l f c good).csv l).state = (s.csv l).state := by rw [csv]; rfl
  have agreed : agreedOn (delivered s l f c good) l = agreedOn s l := by
    rw [agreedOn, csv]
    rfl
  refine ⟨⟨_, _, _, _, only⟩, state, delivered_mark h, ?_, fun st => ?_⟩
  · unfold lineSpec routeOf
    rw [csv, fqm]
    rfl
  · cases st
    · exact congrArg (fun f : FramingConfig => !f.som.isEmpty) framing
    · exact congrArg Abilities.urgent agreed
    · exact congrArg Abilities.numbering agreed

theorem Drawn.lowered (a : Drawn l n s u) : (n ≤ s.stm.reservation.get l → u.stm.low = s.stm.low) ∧
    (s.stm.reservation.get l < n → u.stm.low = decide (unreserved u.stm < s.stm.cfg.storeLow)) ∧
    (s.stm.low = false → u.stm.low = true → Latched u .storeLow) :=
  ⟨fun h => (a.kept h).1, a.evaluated, a.told⟩

theorem Opened.shape {j b : Nat} {more : List Nat} {spec : OpenSpec} {xs : List RxChar}
    (a : Opened l j b more spec xs s u) : u = s.withStore
      { openedStore s.stm l j more with recs := u.stm.recs, cells := u.stm.cells, low := u.stm.low }
      (openJoins s spec).2 u.cpe.latches := by
  have recs : u.stm.recs = _ := congrArg (fun t => t.stm.recs) a.state
  have cells : u.stm.cells = _ := congrArg (fun t => t.stm.cells) a.state
  rw [recs, cells]
  exact a.state

theorem Opened.seq {j b : Nat} {more : List Nat} {spec : OpenSpec} {xs : List RxChar}
    (a : Opened l j b more spec xs s u) : u.fqm.seq = (openJoins s spec).2 := congrArg (fun t => t.fqm.seq) a.state

theorem Opened.cells {j b : Nat} {more : List Nat} {spec : OpenSpec} {xs : List RxChar}
    (a : Opened l j b more spec xs s u) : u.stm.cells = writeChars s.stm.cells
      (freshRec l (s.stm.nextNum.get (originOf l)) b spec xs (openJoins s spec).1) 0 xs :=
  congrArg (fun t => t.stm.cells) a.state

theorem Appended.shape {i : Nat} {r : Rec} {xs : List RxChar} (a : Appended l i r xs s u) : u = { s with
    stm := { s.stm.without l (newBlocks r xs.length) with
      recs := u.stm.recs, cells := u.stm.cells, low := u.stm.low }
    cpe := { s.cpe with latches := u.cpe.latches } } := by
  have recs : u.stm.recs = _ := congrArg (fun t => t.stm.recs) a.state
  have cells : u.stm.cells = _ := congrArg (fun t => t.stm.cells) a.state
  rw [recs, cells]
  exact a.state

/-! ## Characters in a block that has room for them (R58) -/

section InBlock

variable {i k : Nat} {r : Rec} {xs : List RxChar}

theorem longer_inBlock (none : newBlocks r xs.length = 0) (free : List Nat) : r.longer free xs = { r with
    length := r.length + xs.length, flags := { r.flags with errored := r.flags.errored || xs.any (·.errored) } } := by
  rw [Rec.longer, none, List.take_zero, List.append_nil]

theorem Appended.inBlock (a : Appended l i r xs s u) (none : newBlocks r xs.length = 0) :
    u = { s with stm := { s.stm with recs := u.stm.recs, cells := u.stm.cells } } := by
  have shape := a.shape
  obtain ⟨low, latches⟩ := a.drawn.kept (by omega)
  rwa [none, without_zero, low, latches] at shape

theorem Appended.cells (a : Appended l i r xs s u) :
    u.stm.cells = writeChars s.stm.cells (r.longer s.stm.free xs) r.length xs :=
  congrArg (fun t => t.stm.cells) a.state

theorem cellAddr_inBlock (none : newBlocks r xs.length = 0) (free : List Nat) (n : Nat) :
    cellAddr (r.longer free xs) n = cellAddr r n := by
  rw [longer_inBlock none]
  rfl

theorem Appended.written (a : Appended l i r xs s u) (canonical : CellsCanonical s) (none : newBlocks r xs.length = 0)
    (fit : r.length % 32 + xs.length ≤ 32) {y : RxChar} (found : xs[k]? = some y) :
    Memory.read u.stm.cells (cellAddr r (r.length + k)) = y.chr.setWidth 8 := by
  rw [a.cells, ← cellAddr_inBlock none s.stm.free]
  exact writeChars_at canonical (cellsApart_inBlock fit) found

theorem Appended.untouched (a : Appended l i r xs s u) (canonical : CellsCanonical s)
    (none : newBlocks r xs.length = 0) {c : Nat} (other : ∀ k < xs.length, c ≠ cellAddr r (r.length + k)) :
    Memory.read u.stm.cells c = Memory.read s.stm.cells c := by
  rw [a.cells]
  refine writeChars_other canonical fun k inside => ?_
  rw [cellAddr_inBlock none]
  exact other k inside

end InBlock

/-! ## Characters that reach the limit (R59) -/

section Limit

variable {i : Nat} {r q : Rec} {xs : List RxChar} {v : State}

/-- The record closed, and its writer owed a continuation: what has been said of the low condition still holds. -/
theorem Closes.lowered (c : Closes i q v u) (a : Drawn l n s v) (spec : Option OpenSpec) :
    (n ≤ s.stm.reservation.get l → (owing u l spec).stm.low = s.stm.low) ∧
    (s.stm.reservation.get l < n →
      (owing u l spec).stm.low = decide (unreserved (owing u l spec).stm < s.stm.cfg.storeLow)) ∧
    (s.stm.low = false → (owing u l spec).stm.low = true → Latched (owing u l spec) .storeLow) := by
  obtain ⟨kept, evaluated, told⟩ := a.lowered
  have low : (owing u l spec).stm.low = v.stm.low := congrArg (fun t => t.stm.low) c.state
  have blocks : unreserved (owing u l spec).stm = unreserved v.stm := congrArg (fun t => unreserved t.stm) c.state
  rw [low, blocks]
  exact ⟨kept, evaluated, fun was now => c.latched _ (told was now)⟩

theorem Closes.shape (c : Closes i r s u) : u = { s with
    stm := { s.stm.unlinked i with recs := u.stm.recs }
    fqm := { s.fqm with seq := (joins (closeQueues r.dests) r.stamp s.fqm.seq).2 }
    cpe := { s.cpe with latches := u.cpe.latches } } := by
  have recs : u.stm.recs = _ := congrArg (fun t => t.stm.recs) c.state
  rw [recs]
  exact c.state

/-- The characters appended, the record closed, and the continuation owed. -/
theorem Closes.split_shape (a : Appended l i r xs s v) (c : Closes i q v u) (spec : Option OpenSpec) :
    owing u l spec = { s with
      stm := { (s.stm.unlinked i).without l (newBlocks r xs.length) with
        recs := (owing u l spec).stm.recs, cells := (owing u l spec).stm.cells, low := (owing u l spec).stm.low
        lineOwed := s.stm.lineOwed.set l spec }
      fqm := { s.fqm with seq := (joins (closeQueues q.dests) q.stamp s.fqm.seq).2 }
      cpe := { s.cpe with latches := (owing u l spec).cpe.latches } } := by
  have closed := c.shape
  have appended := a.shape
  generalize u.stm.recs = recs, u.cpe.latches = latches at closed
  generalize v.stm.recs = recs', v.stm.cells = cells, v.stm.low = low, v.cpe.latches = latches' at appended
  subst appended
  subst closed
  rfl

/-- A continuation opened for its writer: nothing is owed. -/
theorem Opened.paid {j b : Nat} {more : List Nat} {spec : OpenSpec} {owed : Option OpenSpec}
    (a : Opened l j b more spec xs (owing v l owed) u) : u = v.withStore
      { openedStore v.stm l j more with recs := u.stm.recs, cells := u.stm.cells, low := u.stm.low }
      (openJoins v spec).2 u.cpe.latches := by
  refine a.shape.trans ?_
  cases l <;> rfl

end Limit

/-! ## A discard episode as the store has it (R60) -/

theorem StoreFilled.counts {p : FramerPhase} {held : List RxChar} {m : Store}
    (a : StoreFilled s d u l p held (episodeStore m l)) : u.stm.discarded.get l = min (m.discarded.get l + 1) 65535 ∧
      u.stm.recs = m.recs ∧ u.stm.cells = m.cells := by
  rw [a.stm]
  exact ⟨Pair.get_set_same .., rfl, rfl⟩

/-- The failing character's record is truncated. -/
theorem StoreFilled.truncates {p : FramerPhase} {held : List RxChar} {i : Nat} {q : Rec}
    (a : StoreFilled s d u l p held { episodeStore s.stm l with recs := s.stm.recs.set i (some q) })
    (inside : i < s.stm.recs.length) : u.stm.discarded.get l = min (s.stm.discarded.get l + 1) 65535 ∧
      u.stm.cells = s.stm.cells ∧ (∀ j, j ≠ i → u.record j = s.record j) ∧ u.record i = some q := by
  have records (j : Nat) : u.record j = (s.setRecord i (some q)).record j := by
    rw [State.record, a.stm]
    rfl
  refine ⟨?_, ?_, fun j other => ?_, ?_⟩
  · rw [a.stm]
    exact Pair.get_set_same ..
  · rw [a.stm]
    rfl
  · rw [records, State.record_setRecord_ne s _ other.symm]
  · rw [records, State.record_setRecord, if_pos ⟨rfl, inside⟩]

/-! ## The end of a message as its framer leaves it (R85, R86) -/

/-- With its message over the framer is IDLE; the record it wrote is CLOSED. -/
theorem closeLineMessage_finishes (d : State) (l : LineId) : let u := (closeLineMessage d l).setFramer l .idle
    u.framerOf l = ⟨.idle, [], none⟩ ∧ u.stm.cells = d.stm.cells ∧ u.stm.episode.get l = false ∧
    u.stm.lineOwed.get l = none ∧ u.lu = d.lu ∧ u.sup = d.sup ∧ (d.stm.lineLink.get l = none → u.stm.recs = d.stm.recs) ∧
    ∀ i r, d.stm.lineLink.get l = some i → d.record i = some r → r.state = .opened → r.dests.isEmpty = false →
      u.stm.lineLink.get l = none ∧ (∀ j, j ≠ i → u.record j = d.record j) ∧
      ((r.origin ≠ .console → Latched u .msgArrived) ∧ (r.dests.hold = true → Latched u .holdReady)) ∧
      u.record i = some (closedAs d.fqm.seq r) ∧
      u.fqm.seq = (joins (closeQueues r.dests) r.stamp d.fqm.seq).2 := by
  have step := closeLineMessage_step (framing := false) d l
  obtain ⟨episode, owed⟩ := closeLineMessage_over d l
  refine ⟨State.setFramer_framerOf_same .., closeLineMessage_cells d l, episode, owed, step.lu, step.sup,
    fun link => ?_, fun i r link record opened pending => ?_⟩
  · rw [closeLineMessage_unlinked link]
    rfl
  · obtain ⟨v, closes, e⟩ := closeLineMessage_closes link record opened pending
    rw [e]
    exact ⟨closes.link link, fun j other => closes.others other, ⟨closes.arrived, closes.hold⟩,
      closes.record (State.record_lt record), congrArg (fun t => t.fqm.seq) closes.state⟩

/-! ## A message's record (R57, R78, R82) -/

/-- A record that is not live joins no SEND queue at its open (R78). -/
theorem joins_printed (d : DestSet) (n : Nat) : ∃ x y, (joins (openQueues d false false) ⟨none, none, none, none⟩ n).1 =
    ⟨x, y, none, none⟩ := by
  have queues : openQueues d false false = [Deliv.print, .punch].filter d.out.get := by
    simp [openQueues, List.filter_cons]
  rw [queues]
  obtain ⟨⟨print, punch, _, _⟩, _⟩ := d
  cases print <;> cases punch <;> exact ⟨_, _, rfl⟩

/-- A full store as the line's supervisor sees it. -/
theorem StoreFilled.full {p : FramerPhase} {held : List RxChar} {m : Store} (a : StoreFilled s d u l p held m)
    (begun : m.episode.get l = true) : Latched u .storeFull ∧ u.stm.episode.get l = true ∧
      (s.stm.cfg.clearOnFull = true ∧ (s.csv l).state = .connected → EnteredClearing d u l .storeFull) ∧
      (¬ (s.stm.cfg.clearOnFull = true ∧ (s.csv l).state = .connected) →
        u = { d.setFramer l (framerAt s l p held) with
          stm := u.stm, cpe := { d.cpe with latches := d.cpe.latches ||| BitVec.twoPow 17 8 } }) := by
  refine ⟨a.told, ?_, a.clears, fun no => ?_⟩
  · rw [a.stm]
    exact begun
  · rw [a.stm]
    exact a.stays no

end Sys2Proof.Machine
end

section
/-! PROOF. The obligation on the stop sample and the framer (R42 to R47, R57 to R60, R82 to R86). -/

open Sys2Proof Sys2Proof.Machine

/-- Settles O30: a character is counted and handed to its consumer or a space condition opens; and what the framer makes of
it is, phase by phase, a `framerTake_` equation, or a case of `Stores` where characters leave it for the store. -/
theorem stopSampleEndsTheFrame : Obligations.StopSampleEndsTheFrame := by
  refine ⟨fun l f s => stopSample_frame l f s, fun l f c good s => ?_, fun eom xs => releaseFront_spec eom xs, ?_⟩
  · exact ⟨delivered_frameOnly .., delivered_otherLineKept s l f c good, delivered_left ..⟩
  intro l f c good x s arrives delivers listens canonical d g m eom hs clean text does at' clears counted full lowered
    without announced continuation noOpen continues stores plain
  have take : does (framerTake d l x) := stopSample_framer arrives delivers listens
  have there : ForFramer s d l := forFramer_delivered arrives
  clear_value d
  have stored (out rest : List RxChar) (some' : out ≠ []) (come : Stores d l x rest out) : stores out rest := by
    have same := there.same
    have mark := there.mark
    obtain ⟨lu, sup, ctr, latches, rfl⟩ := there.only
    refine ⟨fun episode => ?_, fun quiet link => ⟨fun j spec owed => ?_, fun no one => ?_⟩,
      fun i r quiet link record => ?_⟩
    · rw [come.counts same episode some'] at take
      exact take
    · intro b more inside free lowest blocks may pos fit below join number q
      have opened := come.opens same quiet link spec (congrArg (fun o => Option.getD o _) owed) inside free lowest blocks
        may some' fit below
      exact ⟨_, take, fun k other => opened.others other, opened.drawn.lowered, opened.record inside, opened.shape,
        fun k y found => opened.written canonical fit found, fun a other => opened.untouched canonical other⟩
    · obtain ⟨y, rfl⟩ := List.length_eq_one_iff.mp one
      have filled := come.unopened same mark rfl quiet link no
      exact ⟨_, take, filled.full (Pair.get_set_same ..), filled.counts⟩
    · have w : Writing (s.withLines lu sup ctr latches) l i r := ⟨quiet, link, record⟩
      refine ⟨fun below => ⟨fun inBlock fit short => ?_, fun text full none one => ?_, fun conserved room => ?_⟩,
        fun limit opened pending j => ?_⟩
      · have none := newBlocks_inBlock (r := r) (n := out.length) inBlock fit
        have appended := come.appends same w short (.inl none) ⟨by rw [none]; exact Nat.zero_le _, by rw [none]; omega⟩
        exact ⟨_, take, appended.inBlock none, fun j other => appended.others other,
          (appended.record record).trans (congrArg some (longer_inBlock none _)),
          fun k y found => appended.written canonical none fit found,
          fun a other => appended.untouched canonical none other⟩
      · obtain ⟨y, rfl⟩ := List.length_eq_one_iff.mp one
        have filled := come.refused same mark rfl w below text full none
        exact ⟨_, take, filled.full (Pair.get_set_same ..), filled.truncates (s := s) (State.record_lt record)⟩
      · obtain ⟨chain, free, draw⟩ := room
        refine ⟨fun short => ?_, fun reaches opened pending => ?_⟩
        · have appended := come.appends same w short (.inr chain) ⟨free, draw⟩
          exact ⟨_, take, appended.drawn.lowered, appended.record record, fun j other => appended.others other,
            textAppended canonical conserved record chain free appended.cells, appended.shape⟩
        · obtain ⟨v, u, appended, closes, e⟩ := come.splits same w some' reaches (.inr chain) ⟨free, draw⟩ opened pending
          rw [e] at take
          have cells : u.stm.cells = v.stm.cells := congrArg (fun t => t.stm.cells) closes.state
          have seq : v.fqm.seq = s.fqm.seq := congrArg (fun t => t.fqm.seq) appended.state
          refine ⟨_, take, closes.lowered appended.drawn _, ?_, fun j other => ?_,
            textAppended canonical conserved record chain free (cells.trans appended.cells), ⟨closes.arrived, closes.hold⟩,
            closes.split_shape appended _⟩
          · rw [← seq]
            exact closes.record (State.record_lt (appended.record record))
          · exact (closes.others other).trans (appended.others other)
      · intro b more inside free lowest blocks may pos fit below join number q
        obtain ⟨u, closes, opened⟩ :=
          come.continues same w limit opened pending inside free lowest blocks may some' fit below
        have other : i ≠ j := fun e => by
          rw [← e, record] at free
          cases free
        have told (e : Event) (h : Latched u e) := opened.drawn.latched e.bit h
        have closed := closes.record (State.record_lt record)
        have rest := fun k (a : k ≠ i) => closes.others a
        have state := closes.state
        have arrived := closes.arrived
        have hold := closes.hold
        generalize u.cpe.latches = latches' at state
        subst state
        refine ⟨_, take, ⟨fun k a b => (opened.others a).trans (rest k b),
          ⟨fun h => told _ (arrived h), fun h => told _ (hold h)⟩, (opened.others other).trans closed⟩,
          opened.drawn.lowered, opened.record ?_, ?_, fun k y found => opened.written canonical fit found,
          fun a other => opened.untouched canonical other⟩
        · exact inside.trans_eq (List.length_set ..).symm
        · exact opened.paid
  have same := there.same
  have mark := there.mark
  have spec := there.spec
  have applies := there.applies
  have framer : d.framerOf l = g := by rw [State.framerOf, same.fqm]; rfl
  obtain ⟨lu, sup, ctr, latches, rfl⟩ := there.only
  refine ⟨?_, ?_, ?_⟩
  · intro phase
    have here := framer.trans (show g = ⟨.text, g.held, g.gap⟩ by rw [← phase])
    refine ⟨fun clean whole => ?_, fun clean part begins => ?_, fun misfit => ?_⟩
    · rw [framerTake_ends here same (matchText_succeeds clean whole)] at take
      exact ⟨_, take, closeLineMessage_finishes ..⟩
    · rw [framerTake_waits here same (matchText_holds clean part begins)] at take
      exact take
    · exact stored _ _ (releaseFront_releases misfit) (stores_text here misfit)
  · intro st rest phase on short few next number pattern holds succeeds
    have here := framer.trans (show g = ⟨.head (st :: rest), g.held, g.gap⟩ by rw [← phase])
    have on' := (applies st).trans on
    refine ⟨fun h => ?_, fun h easy => ?_, fun i r h link record => ⟨fun urgent => ?_, fun numbered => ?_⟩,
      fun no no' off plain => ?_⟩
    · rw [framerTake_holds here same on' (matchStage_holds h)] at take
      exact take
    · rw [framerTake_succeeds_plain here same on' (matchStage_succeeds h) easy] at take
      exact take
    · subst urgent
      rw [framerTake_succeeds_urgent here same on' (matchStage_succeeds h) link record] at take
      exact take
    · subst numbered
      rw [framerTake_succeeds_number here same on' (matchStage_succeeds h) link record] at take
      exact take
    · have fails := matchStage_fails no no'
      exact stored _ _ (List.append_ne_nil_of_right_ne_nil _ (List.cons_ne_nil x [])) (stores_head here on' fails
        (fun st mem => (applies st).trans (off st mem)) (fun y mem => not_fits_one (.inl (plain y mem))) short few)
  · intro phase quiet none' begins som inSom
    have here := framer.trans (show g = ⟨.idle, g.held, g.gap⟩ by rw [← phase])
    refine ⟨?_, ?_⟩
    · intro _ may i b more inside free lowest blocks two which waits number
      have opened := framerTake_begins (d := s.withLines lu sup ctr latches) (inSom := inSom) (begins := begins) .rfl .rfl
        same here inside free lowest blocks may quiet two (which.imp_right (And.imp_left fun off st => (applies st).trans (off st)))
      rw [spec] at opened
      have record := opened.record inside
      have shape := opened.shape
      have fit : (if inSom ∨ begins then [] else [x]).length ≤ 32 := by split <;> exact Nat.le_of_ble_eq_true rfl
      obtain ⟨print, punch, stamp⟩ := joins_printed (lineSpec s l).dests s.fqm.seq
      rw [freshRec_first] at record
      rw [← opened.seq] at shape
      refine ⟨_, _, take, shape, fun j other => opened.others other, record, fun (w : inSom ∨ begins) => ?_,
        fun w => ⟨opened.written (k := 0) canonical fit (by rw [if_neg w]; rfl), fun a other =>
          opened.untouched canonical fun k first => ?_⟩, ⟨rfl, opened.seq⟩, opened.drawn.lowered, ?_⟩
      · rw [opened.cells]
        simp only [if_pos w]
        rfl
      · rw [if_neg w] at first
        obtain rfl := Nat.lt_one_iff.mp first
        exact other
      · have joined : (openJoins ((s.withLines lu sup ctr latches).setFramer l (framerAt s l
            (if inSom then .head headStages else .text) (if inSom ∨ begins then [x] else []))) (lineSpec s l)).1 =
            ⟨print, punch, none, none⟩ := stamp
        rw [joined]
        rfl
    · intro no off link misfit
      have filled := framerTake_unopened same mark rfl here quiet link no (fun st => (applies st).trans (off st))
        (not_fits_one misfit)
      exact ⟨_, take, filled.full (Pair.get_set_same ..), filled.counts⟩
end
